-- ==== Sys2Proof/Word.lean ====
section
/-! DEFINITION. Sys2Proof/Word.lean: the word types of the KT4 control window and memories (R16: every register is
32 bits wide and little-endian). -/

namespace Sys2Proof

/-- One byte. -/
abbrev Byte := BitVec 8

/-- One 32-bit register or FP32 bit pattern (R16). -/
abbrev Word := BitVec 32

/-- One 64-bit instruction word, descriptor word or counter. -/
abbrev DWord := BitVec 64

/-- A run of bytes, lowest address first. -/
abbrev Bytes := List Byte

end Sys2Proof
end

