-- ==== Sys2Proof/Machine/Types.lean ====
section
/-! DEFINITION. Sys2Proof/Machine/Types.lean: the plain data that commands carry as operands: who accesses the control
window, engine events, machine images, descriptors. -/

namespace Sys2Proof.Machine

/-- The three ordering numbers (R1). -/
inductive Variant where
  | kt960 | kt640 | kt320
  deriving DecidableEq, Repr

/-- A function of a host port that accesses the control window: the management function, or VF 1 to 64 (R348). -/
inductive Fn where
  | mgmt (port : Nat)
  | vf (port vf : Nat)
  deriving DecidableEq, Repr

/-- The port of a function. -/
def Fn.port : Fn → Nat
  | .mgmt n => n
  | .vf n _ => n

/-- An SPDM endpoint: a function, or a 7-bit address of the management SMBus (R377, R453). -/
inductive Endpoint where
  | fn (f : Fn)
  | smbus (addr : Nat)
  deriving DecidableEq, Repr

/-- A submission queue: of a context, or the management queue of a port (R362). -/
inductive QRef where
  | ctx (p c : Nat)
  | mgmt (port : Nat)
  deriving DecidableEq, Repr

/-- The two moments of an engine instruction: the sequencer dispatches it from a task, or it is the head of its
engine's queue and the engine tries to issue it (R97, R98). -/
inductive EngEv where
  | dispatch (task : Nat)
  | issue
  deriving DecidableEq, Repr

/-- A TDISP message that moves a TDI (R350): LOCK_INTERFACE, START_INTERFACE, STOP_INTERFACE; or one that moves none. -/
inductive TdispMsg where
  | lock | start | stop | other
  deriving DecidableEq, Repr

/-- One entry of a core plan, four 64-bit words (R96). -/
structure PlanEntry where
  w0 : Nat := 0
  w1 : Nat := 0
  w2 : Nat := 0
  w3 : Nat := 0
  deriving DecidableEq, Repr

/-- A core plan: its header and one entry per logical core (R96). `rsv` holds header bits that must be zero. -/
structure CorePlan where
  entries  : Nat := 0
  estimate : Nat := 0
  duration : Nat := 0
  rsv      : Nat := 0
  cores    : List PlanEntry := []
  deriving DecidableEq, Repr

/-- One declaration of the lantern table (R198). -/
structure LanternDecl where
  scope   : Nat := 0
  home    : Nat := 0
  target  : Nat := 0
  subStk  : Bool := false
  subUpd  : Bool := false
  subHost : Bool := false
  hostSig : Bool := false
  deriving DecidableEq, Repr

/-- A stream descriptor: eight 64-bit words (R168). -/
abbrev DescWords := List Nat

/-- One collective-table entry, eight 64-bit words (R311). -/
abbrev CollWords := List Nat

/-- The stage table of an image: the eight 32-bit words of its header and its 64-bit entries (R281). -/
structure StageTable where
  hdr     : List Nat := []
  entries : List Nat := []
  deriving DecidableEq, Repr

/-- One plan entry: sixteen 64-bit words (R246). -/
abbrev SegWords := List Nat

/-- One shard of a protection table (R327). `rsv` holds bits that must be zero. -/
structure Shard where
  group     : Nat := 0
  pos       : Nat := 0
  unitBytes : Nat := 2
  firstUnit : Nat := 0
  units     : Nat := 0
  parVa     : Nat := 0
  members   : List Nat := []
  rsv       : Nat := 0
  deriving DecidableEq, Repr

/-- The protection table of an image (R327). -/
structure ProtTable where
  mirrorTo   : Nat := 0
  mirrorFrom : Nat := 0
  mirrorVa   : Nat := 0
  mapVa      : Nat := 0
  rsv        : Nat := 0
  shards     : List Shard := []
  deriving DecidableEq, Repr

/-- A machine image as program admission sees it (R35, R96, R125). The container's byte layout is not given by the
spec, so the parsed contents are the operand of LOAD. `formatOk` is whether the bytes are a Morzon image of this
generation; `fp0` to `fp3` are the four fingerprint words (R12); `code` is the code area in 64-bit words; `ckUnits` is
the size of one slot of the checkpoint area in 4 KiB units (R277, R283); `pool` lists the
declared pool ranges as first byte and length (R362); `blocks` gives the blocks of each chunk in order (R277);
`updEst`, `updDur`, `rbEst` and `rbDur` are the energy estimates in mJ and planned durations in ns of the image's UPDATE
and REBUILD (R408). -/
structure Image where
  formatOk : Bool := true
  fp0      : Nat := 0
  fp1      : Nat := 0
  fp2      : Nat := 0
  fp3      : Nat := 0
  lnFirst  : Nat := 0
  lanterns : List LanternDecl := []
  plans    : List CorePlan := []
  descSets : List (List DescWords) := []
  code     : List Nat := []
  colls    : List CollWords := []
  stage    : Option StageTable := none
  probe    : Option StageTable := none
  plan     : List (List SegWords) := []
  prot     : Option ProtTable := none
  pool     : List (Nat × Nat) := []
  blocks   : List (List Nat) := []
  ckUnits  : Nat := 0
  updEst   : Nat := 0
  updDur   : Nat := 0
  rbEst    : Nat := 0
  rbDur    : Nat := 0
  deriving DecidableEq, Repr

/-- A Trellis packet as a module receives or sends it (R301, R302). `ty` is TYPE, `body` the plaintext after the
check of its tag, `aux` the AUX word, `contrib` CONTRIB, `validM1` VALID_M1 of a data packet, `tagOk` whether the GCM tag
verifies under the epoch's traffic key (R303, R305), `high` whether its units arrive on the high VC of their class (R296). Of a DATA packet that carries less than its 4 KiB `off` is where in them
the body begins, and `last` says that it is the last of its transfer (log 25). -/
structure Packet where
  ty      : Nat := 0
  route   : Nat := 0
  dest    : Nat := 0
  job     : Nat := 0
  epoch   : Nat := 0
  src     : Nat := 0
  chan    : Nat := 0
  pidx    : Nat := 0
  pctr    : Nat := 0
  contrib : Nat := 0
  aux     : Nat := 0
  validM1 : Nat := 255
  tagOk   : Bool := true
  high    : Bool := false
  off     : Nat := 0
  last    : Bool := false
  body    : Bytes := []
  deriving DecidableEq, Repr

/-- A membership record (R306): entries are 0x8000 + position for a present rank. -/
structure Membership where
  tag     : Nat := 0
  epoch   : Nat := 0
  ranks   : List Nat := []
  jfan    : Nat := 2
  deriving DecidableEq, Repr

/-- An admission block as JOB_ADMIT sees it (R365), whose byte layout the spec does not give: `sigOk` is whether the record
verifies under the job controller key; `key` is the job key in it, `wrapKey` the key it was wrapped under and `keyOk` whether the
wrapped key is intact (R376); `variants` are the VARIANT fields of the members by rank, exchanged over the Trellis (R4). -/
structure AdmitBlock where
  tag      : Nat := 0
  rank     : Nat := 0
  seed     : Nat := 0
  mem      : Membership := {}
  sigOk    : Bool := true
  keyOk    : Bool := true
  key      : Nat := 0
  wrapKey  : Nat := 0
  variants : List Nat := []
  deriving DecidableEq, Repr

/-- What the Almanac reads at a tick (R404, R407, R408): the inlet in 1/16 °C, the metered power of each die in mW, the
hottest sensor of each die in 1/16 °C, the reservoir's measured charge in mJ, and the energy metered over the tick in mJ: of
each partition's beds, and of the update engines that serve each partition. -/
structure TickIn where
  tin     : Int := 0
  power   : List Nat := []
  sens    : List Int := []
  charge  : Nat := 0
  beds    : List Nat := []
  engines : List Nat := []
  deriving DecidableEq, Repr

/-- What Daybreak finds (R443): the cores that fail self-test, and the host ports that train. `upTo` is the last step that the row
performs; a further row of the same kind goes on from there (DESIGN CHOICE, log 80). -/
structure BootIn where
  bistFail : List Nat := []
  trained  : List Nat := []
  upTo     : Nat := 7
  deriving DecidableEq, Repr

/-- One wire unit: its link word fields and whether its CRC holds (R291, R298). What it carries is presented to the model
as packets. -/
structure WireUnit where
  vc      : Nat := 0
  nak     : Bool := false
  idle    : Bool := false
  crVc    : Nat := 0
  credits : Nat := 0
  seq     : Nat := 0
  ack     : Nat := 0
  crcOk   : Bool := true
  deriving DecidableEq, Repr

/-- A stream record: stream, step, micro-batch, layer, element. -/
abbrev RngRec := Nat × Nat × Nat × Nat × Nat

end Sys2Proof.Machine
end

