-- ==== Sys2Proof/Syntax.lean ====
section
/-! DEFINITION. Sys2Proof/Syntax.lean: the commands of the block, one constructor per row of the opcode table, in its order.

Operands: `core` is a physical core number, `fn` the function that accesses the control window, `k` a context as 64 × slot +
context, `p` a partition slot, `q` a queue or a request offset, `u` a check unit, `n` a port or a physical entry, `slot` a stream
slot. Blocks and data that the module reads from host memory, from the Trellis or from another unit are operands. -/

namespace Sys2Proof

open Sys2Proof.Machine

/-- What a source holder reads from its peers to answer an RB_REQ (R338): the stripe's data units by slot, none for one that cannot
be read, and the other holder's map bit. -/
structure StripeRead where
  units : List (Option Bytes) := []
  other : Bool := false
  deriving DecidableEq, Repr

/-- What a rebuilding module reads from its peers (R338): the survivors' committed step, and the landing blocks that the reads of
MIRROR_TO have returned since the last row, by number with their counts. -/
structure PeerRead where
  step     : Nat := 0
  landings : List (Nat × Nat × Bytes) := []
  deriving DecidableEq, Repr

/-- An access to the control window: its offset, and its width in bytes (R461). -/
structure Access where
  off   : Nat
  width : Nat := 4
  deriving DecidableEq, Repr

/-- A scan of the boundary register: the 37 cells shifted in, and the levels of the pins that State does not hold, by cell (R457; DESIGN
CHOICE, log 81). -/
structure Scan where
  cells  : Nat
  levels : Nat := 0
  deriving DecidableEq, Repr

/-- The commands. Each comment gives the row's rule and what it does. -/
inductive Instr where
  /-- R18: A host write to a register with no row of its own stores, discards, clears or sets bits according to the field's access code;
  the access has a width (R461). -/
  | registerWrite (fn : Fn) (a : Access) (value : Nat)
  /-- R16: A read of the low half of a 64-bit counter latches the high half for the next high-half read. -/
  | counterLowHalfRead (fn : Fn) (a : Access)
  /-- R424: A read of word 0 of a Belvedere history entry latches words 1 to 3 of that entry. -/
  | historyWord0Read (fn : Fn) (entry : Nat)
  /-- R125: LOAD runs program admission on a machine image, allocates its lanterns and loads it into the context, or refuses it with
  the status of the first failing check. -/
  | load (k : Nat) (img : Option Image)
  /-- R362: UNLOAD, fenced on both sides, unloads the context's image and frees its lanterns. -/
  | unload (k : Nat)
  /-- R96: RUN issues a core-class command that runs the named core plan on every core of the partition with the descriptor's parameters. -/
  | run (p : Nat)
  /-- R95: A command ends on a core once every started task has dispatched SQ.END and every dispatched instruction has completed. -/
  | commandEndOnCore (core : Nat)
  /-- R74: A matrix pass issues when all issue conditions hold and then streams its operand vectors through the array without waiting. -/
  | mxMm (core : Nat) (ev : EngEv)
  /-- R69: A convolution pass issues under the issue rule and feeds each input pixel once to all kernel-column row groups. -/
  | mxCv (core : Nat) (ev : EngEv)
  /-- R81: A drain-only instruction converts an accumulator half under the array format and writes it into the result region. -/
  | mxDr (core : Nat) (ev : EngEv)
  /-- R106: MX.FMT sets the task's array format for later array operations and MX conversions when it reaches the queue head. -/
  | mxFmt (core : Nat) (ev : EngEv)
  /-- R74: The head array instruction's tile is loaded into the shadow registers once the tile is valid and the shadow registers are
  free. -/
  | tileLoad (core : Nat)
  /-- R108: A two-operand vector operation issues when its operands are present and its result reserved, and computes elementwise with
  one rounding. -/
  | vxB (core : Nat) (ev : EngEv)
  /-- R108: A three-operand fused vector operation issues under the VX issue rule and rounds each result once. -/
  | vxT (core : Nat) (ev : EngEv)
  /-- R109: A conversion converts a block of elements between formats under R55 to R60, handling MX scales through the array format. -/
  | vxUCvt (core : Nat) (ev : EngEv)
  /-- R109: COPY delivers every bit unchanged with no flag. -/
  | vxUCopy (core : Nat) (ev : EngEv)
  /-- R109: NEG inverts only the sign bit of every element with no flag. -/
  | vxUNeg (core : Nat) (ev : EngEv)
  /-- R109: ABS clears only the sign bit of every element with no flag. -/
  | vxUAbs (core : Nat) (ev : EngEv)
  /-- R109: TRN transposes a block of rows, writing the result as column segments. -/
  | vxUTrn (core : Nat) (ev : EngEv)
  /-- R110: RSUM sums each row in FP32 in the fixed tree-then-group order. -/
  | vxURsum (core : Nat) (ev : EngEv)
  /-- R110: RMAX gives each row's maximum under the maximum operation of R48. -/
  | vxURmax (core : Nat) (ev : EngEv)
  /-- R110: RSUMSQ sums each row's rounded squares in FP32 in the fixed order. -/
  | vxURsumsq (core : Nat) (ev : EngEv)
  /-- R130: FX.FWD evaluates f(x) through the forward table, or stops the command with TABLE_UNAVAILABLE if the table is invalid. -/
  | fxFwd (core : Nat) (ev : EngEv)
  /-- R135: FX.BWI forms g times f'(x) from the saved input through the derivative table or in output-formula mode. -/
  | fxBwi (core : Nat) (ev : EngEv)
  /-- R137: FX.BWO forms g times the derivative factor from the saved output by the output formula. -/
  | fxBwo (core : Nat) (ev : EngEv)
  /-- R173: ST.IN takes a stream slot and moves a descriptor's sequence into a region chunk by chunk. -/
  | stIn (core : Nat) (ev : EngEv) (slot : Nat)
  /-- R174: ST.OUT takes a stream slot and sends a region's contents to memory, Trellis or the reduction path chunk by chunk. -/
  | stOut (core : Nat) (ev : EngEv) (slot : Nat)
  /-- R189: ST.WCH starts a weight-chain delivery of tile records from stack memory along the core's sub-chain. -/
  | stWch (core : Nat) (ev : EngEv) (slot : Nat)
  /-- R113: ST.TIL copies a tile from a region into a weight-buffer slot in both orders at 512 B per cycle. -/
  | stTil (core : Nat) (ev : EngEv)
  /-- R173: A stream chunk begins when it can reserve its region space (ST.IN) or when occupancy covers it (ST.OUT). -/
  | chunkBegin (core slot : Nat)
  /-- R173: Returning read data is written at its reserved position and the tail advances over the unbroken run. -/
  | streamDataReturn (core slot q : Nat) (data : Bytes)
  /-- R176: A chunk's last byte becomes visible on acknowledgement, signalling CHUNK_LNT and releasing the head for ST.OUT with REL. -/
  | chunkVisible (core slot : Nat)
  /-- R179: A partition walk ends, filling the translation cache or raising a page fault. -/
  | translationWalkComplete (core slot : Nat)
  /-- R182: Writing GO to a halted slot re-walks the faulting page and resumes at the frontier or records a new fault. -/
  | go (fn : Fn) (core slot : Nat)
  /-- R182: Writing DENY to a halted slot completes the command with ABORTED_BY_FAULT and tears the context down. -/
  | deny (fn : Fn) (core slot : Nat)
  /-- R182: When a command's halted time reaches 1 s it completes with PAGE_FAULT_UNSERVICED. -/
  | haltedTimeLimit (p : Nat)
  /-- R183: Prefetch reads sequence bytes ahead of begun chunks within PF_DEPTH, using only cached translations. -/
  | prefetchRead (core slot : Nat) (data : Bytes)
  /-- R190: The sub-chain head injects a 512 B flit that each keeping core writes into its slot as it passes. -/
  | weightChainFlit (core slot : Nat)
  /-- R193: The head's weight-chain engine reads delivery records from stack memory into its landing-buffer share. -/
  | weightChainSourceRead (core slot : Nat)
  /-- R199: LN.ARM sets a lantern's count to 0, its target to V and increments its arm generation. -/
  | lnArm (core : Nat) (ev : EngEv)
  /-- R199: LN.SIG adds V to the lantern's count at its home after all earlier instructions of the task complete. -/
  | lnSig (core : Nat) (ev : EngEv)
  /-- R199: LN.WAIT holds its task until the lantern is reached by V. -/
  | lnWait (core task : Nat)
  /-- R201: LN.WTC holds its task until a consume of V is granted in queue order, then subtracts V. -/
  | lnWtc (core task : Nat)
  /-- R196: A notification reaching a waiter site re-evaluates its held tasks and releases those reached. -/
  | lanternNotification (core : Nat)
  /-- R208: A module sends its summed unsent delta of a job-scope lantern as one DELTA when the link to the parent has credit. -/
  | lanternDeltaSend (n : Nat)
  /-- R208: A received DELTA is summed towards the root or applied at the root, which then sends COUNT to each child. -/
  | lanternDelta (port : Nat) (k : Packet)
  /-- R209: A received ARM is applied at the root in order of arrival. -/
  | lanternArm (port : Nat) (k : Packet)
  /-- R208: A received COUNT updates the mirror if newer, forwards the newest COUNT and notifies local sites. -/
  | lanternCount (port : Nat) (k : Packet)
  /-- R210: A received REJECT faults the issuing context of the sender. -/
  | lanternReject (port : Nat) (k : Packet)
  /-- R214: A host write to LNT_HSIG signals V on behalf of the owning context if HOSTSIG is set, else it is discarded and counted. -/
  | lntHsig (fn : Fn) (n v : Nat)
  /-- R222: MAP installs a translation entry after format, alignment, range, overlap and quota checks. -/
  | map (fn : Fn) (host : Bool)
  /-- R222: UNMAP removes the translation entry starting at the address or reports NOT_MAPPED, setting BUSY. -/
  | unmap (fn : Fn) (host : Bool)
  /-- R223: BUSY clears once derived cache entries are removed, prefetched bytes discarded and translated requests visible. -/
  | unmapComplete (p : Nat)
  /-- R226: The patrol scrub reads every codeword of every stack once every 24 h and treats what it finds under R225. -/
  | patrolScrub (k : Nat)
  /-- R236: A gather request enters the sorter when there is room, merging into an unissued entry of the same granule. -/
  | gatherSorterEntry (core slot : Nat)
  /-- R239: Each cycle the sorter issues entries of banks below the cap into outstanding slots in rotating order. -/
  | gatherSorterIssue (k : Nat)
  /-- R240: An entry that has waited 2 µs becomes promoted and is issued ahead of others in its bank. -/
  | gatherPromotion (k ix : Nat)
  /-- R249: UPDATE walks the plan's pages and runs the step's landing, norm, sweep, parity and commit phases. -/
  | update (k : Nat) (block : Bytes)
  /-- R266: UPDATE_RESUME applies step n with the same clip factor to the rebuilt lost records only and signals commit. -/
  | updateResume (k : Nat) (block : Bytes)
  /-- R250: A landing block and its contributor count arrive, and each value is averaged and squared into the norm accumulator. -/
  | landingBlock (p d lb count : Nat) (data : Bytes)
  /-- R403: The update sweep starts at the home slot once energy credit is granted, after the factored pre-pass. -/
  | sweepStart (p : Nat)
  /-- R256: An engine checks, updates and writes one record's weights and moments and sends its parity deltas. -/
  | sweepRecord (p k : Nat)
  /-- R249: LAND_TIMEOUT expiring before the count check completes the UPDATE with GRADIENT_INCOMPLETE. -/
  | landTimeout (p : Nat)
  /-- R271: RNG_CHECK compares recorded stream positions with derived ones and reports discrepancies. -/
  | rngCheck (k : Nat) (recs : List RngRec)
  /-- R283: STAGE runs step n's stage table, expanding each entry into pass commands in table order. -/
  | stage (k : Nat)
  /-- R283: The scheduler issues the next pass command when the previous has completed, its arrival wait is met and credit is granted. -/
  | passCommandIssue (p : Nat)
  /-- R292: A port trains after Daybreak or every 10 ms while DOWN, exchanging positions and coming UP, UP_HALF or DOWN. -/
  | portTrain (n lanes peer : Nat)
  /-- R292: A port goes DOWN after 16 successive CRC failures, 50 µs without ack progress, or too few lanes, dropping unacknowledged
  units. -/
  | portDown (n cause : Nat) (jobs : List Nat)
  /-- R319: Writing RETRAIN makes the port train at once. -/
  | retrain (fn : Fn) (n lanes peer : Nat) (jobs : List Nat)
  /-- R319: Setting DISABLE holds the port DOWN until it is cleared. -/
  | disable (fn : Fn) (n : Nat) (value : Bool) (jobs : List Nat)
  /-- R299: A received wire unit is accepted if in sequence with good CRC, else discarded with NAK, and its credits and ack are applied. -/
  | wireUnit (n : Nat) (u : WireUnit)
  /-- R295: An intermediate module forwards a packet by cut-through along its ROUTE, taking bypasses or dropping it if unroutable. -/
  | packetForward (n : Nat) (k : Packet)
  /-- R323: A packet whose units stop arriving for 10 µs is dropped, counted in TRL_LINKLOSS and raises the job alert. -/
  | packetStallTimeout (n job : Nat)
  /-- R302: A DATA packet is accepted and delivered to the channel, stage channel or protection unit it names. -/
  | dataPacket (n : Nat) (k : Packet)
  /-- R314: A child's REDUCE partial is added in child order and the node sends its own partial when complete. -/
  | reducePacket (n : Nat) (k : Packet)
  /-- R315: A local kind-0x6 contribution is added in delivery order up to L_EXP, and any beyond is dropped. -/
  | localContribution (core slot : Nat)
  /-- R316: A block ACK from the parent releases the kept partial and is passed down once the node's partial is acknowledged. -/
  | ackPacket (n : Nat) (k : Packet)
  /-- R314: A scalar partial or result is combined in tree order in FP32 or delivered as S to every module. -/
  | scalarPacket (n : Nat) (k : Packet)
  /-- R318: A channel receiver's CREDIT packet grants the sender credit for one reserved chunk. -/
  | creditPacket (n : Nat) (k : Packet)
  /-- R365: JOB_ADMIT verifies the membership and wrapped job key, checks variants and sets up job lanterns and collectives. -/
  | jobAdmit (k : Nat) (b : AdmitBlock)
  /-- R309: INSTALL verifies and installs the next membership record, fences absent ranks and switches trees and routes. -/
  | install (k : Nat) (rec : Membership) (sigOk : Bool)
  /-- R308: SWITCH makes the module send under the new epoch while still accepting both. -/
  | switch (k : Nat)
  /-- R308: GRACE_END stops acceptance of the old epoch and discards its traffic key. -/
  | graceEnd (k : Nat)
  /-- R329: A holder applies a complete parity DELTA times the sender's coefficient, sets its map bit and returns DACK. -/
  | protectionDelta (n : Nat) (k : Packet)
  /-- R329: A DACK acknowledges a parity delta, and an engine signals the commit lantern once all its deltas are acknowledged. -/
  | dack (n : Nat) (k : Packet)
  /-- R330: A MIRROR transfer writes a landing block and its count to the receiver's mirror area and is acknowledged with MACK. -/
  | mirror (n : Nat) (k : Packet)
  /-- R330: A MACK acknowledges a mirrored landing block to its owner. -/
  | mack (n : Nat) (k : Packet)
  /-- R332: A received SAG report raises feed correlation suspected for shared groups when sags coincide within 2 ms. -/
  | sag (n : Nat) (k : Packet)
  /-- R338: A source holder forms the requested data or parity unit from its stripe and returns it in RB_DATA. -/
  | rbReq (n : Nat) (k : Packet) (units : StripeRead)
  /-- R338: The rebuilding module stores a formed unit and its map bits. -/
  | rbData (n : Nat) (k : Packet) (checksOk : Bool)
  /-- R328: A protection transfer unacknowledged 1 ms after its last packet is resent under a new PCTR. -/
  | protectionResend (p ix : Nat)
  /-- R334: JOB_HALT stops the partition's commands, lets a post-norm UPDATE finish its sweep and empties the work areas. -/
  | jobHalt (k : Nat)
  /-- R335: JOB_RESUME sweeps the pending step if needed, resets job lanterns and arrival lanterns and records n_c as committed. -/
  | jobResume (k : Nat) (block : Bytes)
  /-- R338: REBUILD MEMBER fetches every data and parity unit of the lost rank into the spare, rolls forward if needed and forms check
  records. -/
  | rebuildMember (k : Nat) (block : Bytes) (committed : PeerRead)
  /-- R339: REBUILD RECORDS rebuilds the listed records of a present module from their stripes. -/
  | rebuildRecords (k : Nat) (block list : Bytes)
  /-- R339: REBUILD PARITY forms every parity unit of the module from peers' data while verifying check records. -/
  | rebuildParity (k : Nat) (block : Bytes)
  /-- R342: PROBE runs the commit probe forward and compares its loss record with the expected one. -/
  | probe (k : Nat) (expected : Bytes)
  /-- R344: JOB_EVICT halts the job's commands, discards its traffic keys and tears down the partition with a crypto-erase. -/
  | jobEvict (n : Nat) (block : Bytes) (sigOk devOk : Bool)
  /-- R346: BED_WITHDRAW clears the bed's usable bit and completes the partition's running commands with BED_WITHDRAWN. -/
  | bedWithdraw (n : Nat) (block : Bytes) (sigOk devOk : Bool)
  /-- R93: DG_SET creates a decode set from its block and returns its number. -/
  | dgSet (k : Nat) (block : Bytes)
  /-- R92: DG_JOIN queues a sequence join that completes when admitted at a step boundary or cancelled. -/
  | dgJoin (k : Nat)
  /-- R92: DG_LEAVE requests removal of a sequence at the next step boundary, or cancels its waiting join. -/
  | dgLeave (k : Nat)
  /-- R92: DG_STEP completes at the set's next step boundary with the number of deferred joins. -/
  | dgStep (k : Nat)
  /-- R87: A decode row arrives at the gatherer and fills the set's current tile in arrival order. -/
  | decodeRowArrival (d slot core : Nat) (row : Bytes)
  /-- R87: A tile is dispatched when its deadline has passed since its first row arrived. -/
  | deadlineExpiry (d : Nat)
  /-- R88: A dispatched tile waits until every target region is defined with room, then reserves, writes and advances in each. -/
  | gatheredTileDelivery (d : Nat)
  /-- R351: A function-level reset of a VF tears down its contexts without completion records and resets their queue and context blocks. -/
  | functionLevelReset (port vf : Nat)
  /-- R350: A TDISP message moves a TDI between CONFIG_UNLOCKED, CONFIG_LOCKED, RUN and ERROR. -/
  | tdispRequest (port vf : Nat) (msg : TdispMsg) (session : Nat)
  /-- R354: LAYOUT_SWITCH verifies its signed block and tears down and replaces the changed partition slots. -/
  | layoutSwitch (n : Nat) (block : Bytes) (sigOk devOk : Bool)
  /-- R355: OPEN by a VF of the partition opens a CLOSED context with both queues configured and makes the VF its owner. -/
  | ctxOpen (fn : Fn) (k : Nat)
  /-- R355: RESUME returns a STOPPED context to OPEN. -/
  | resume (fn : Fn) (k : Nat)
  /-- R355: FLUSH completes every unstarted command of a STOPPED context with CANCELLED and NOT_STARTED. -/
  | flush (fn : Fn) (k : Nat)
  /-- R356: TEARDOWN by the owner or a management function starts the teardown sequence of the context. -/
  | teardown (fn : Fn) (k : Nat)
  /-- R355: CLOSE unloads the context's image, frees its lanterns and makes it CLOSED. -/
  | close (fn : Fn) (k : Nat)
  /-- R356: Once every submitted command has completed, the torn-down context becomes FAULTED or CLOSED. -/
  | teardownEnd (k : Nat)
  /-- R357: A write to HQ_SQ_DB submits the descriptors up to the written index or count, or is discarded if out of range. -/
  | sqDoorbell (fn : Fn) (q : QRef) (value : Nat)
  /-- R361: The module fetches a submitted descriptor while a completion record is free and checks it in order. -/
  | descriptorFetch (q : QRef) (data : Option Bytes) (next : Option Nat)
  /-- R360: A write to HQ_CQ_HEAD frees completion records, or is discarded if outside the unread run. -/
  | cqHeadWrite (fn : Fn) (q : QRef) (value : Nat)
  /-- R373: A write to PT_CTX_EVMASK that enables an already set event bit sends an interrupt. -/
  | evmaskWrite (fn : Fn) (k value : Nat)
  /-- R368: A core-class command running 100 ms, halted time excluded, stops and completes with WATCHDOG_EXPIRED. -/
  | watchdogExpired (p : Nat)
  /-- R377: SPDM GET_VERSION returns the supported versions. -/
  | getVersion (e : Endpoint)
  /-- R377: SPDM GET_CAPABILITIES returns the responder's capabilities. -/
  | getCapabilities (e : Endpoint)
  /-- R377: SPDM NEGOTIATE_ALGORITHMS selects P-384, SHA-384 and AES-256-GCM. -/
  | negotiateAlgorithms (e : Endpoint)
  /-- R377: SPDM GET_DIGESTS returns the digests of certificate slots 0 and 1. -/
  | getDigests (e : Endpoint)
  /-- R377: SPDM GET_CERTIFICATE returns a certificate chain of slot 0 or 1. -/
  | getCertificate (e : Endpoint) (slot : Nat)
  /-- R377: SPDM CHALLENGE returns a response signed by the attestation key. -/
  | challenge (e : Endpoint) (slot : Nat)
  /-- R378: SPDM GET_MEASUREMENTS returns the measurement blocks of the endpoint signed by the attestation key. -/
  | getMeasurements (e : Endpoint) (index : Nat)
  /-- R377: SPDM KEY_EXCHANGE starts a secured session with ECDHE, refused when locked. -/
  | keyExchange (e : Endpoint)
  /-- R377: SPDM FINISH completes the secured session handshake. -/
  | finish (e : Endpoint) (id : Nat) (ok : Bool)
  /-- R377: SPDM HEARTBEAT keeps a secured session alive. -/
  | heartbeat (e : Endpoint) (id : Nat)
  /-- R377: SPDM KEY_UPDATE updates a secured session's keys. -/
  | keyUpdate (e : Endpoint) (id : Nat)
  /-- R377: SPDM END_SESSION ends a secured session. -/
  | endSession (e : Endpoint) (id : Nat)
  /-- R379: IDE_KM KEY_PROG programs an IDE stream key inside a function-0 secured session. -/
  | keyProg (port session stream kset vf key : Nat)
  /-- R379: IDE_KM K_SET_GO activates a programmed IDE key set. -/
  | kSetGo (port session stream kset : Nat)
  /-- R379: IDE_KM K_SET_STOP stops an IDE key set and discards its keys. -/
  | kSetStop (port session stream kset : Nat)
  /-- R379: IDE_KM QUERY returns the port's IDE stream information. -/
  | query (port session : Nat)
  /-- R380: TENANT_SETUP stores the partition tenant key and job controller key for the slot. -/
  | tenantSetup (port vf session : Nat) (payload : Bytes)
  /-- R380: BIND_CONTEXT binds a command key to an owned QF2 context and sets KEYED. -/
  | bindContext (port vf session : Nat) (payload : Bytes)
  /-- R380: GET_USAGE_HEAD returns the context's latest emitted usage record. -/
  | getUsageHead (port vf session : Nat) (payload : Bytes)
  /-- R380: PARTITION_ERASE crypto-erases the partition when all its contexts are closed and no TDI is locked. -/
  | partitionErase (fn : Fn) (session p : Nat)
  /-- R415: TIME_SET verifies its signed block and steps the calendar clock to the given time, closing an interval record. -/
  | timeSet (n : Nat) (block : Bytes) (sigOk devOk : Bool)
  /-- R386: A tamper sensor event is logged and answered according to the alarm level in force. -/
  | tamperEvent (sensors : Nat)
  /-- R390: At each 60 s calendar boundary an INTERVAL usage record is emitted for each context, or skipped if the store is full. -/
  | usageBoundary
  /-- R392: A waiting usage record is written into its port's usage ring in SEQ order when the ring has room and is enabled. -/
  | usageRingWrite (n : Nat)
  /-- R394: Every 10 µs the 48 V input is measured and the input draw is slewed and settled against demand. -/
  | inputSample (vin iin pd : Nat)
  /-- R396: Input below SAG_MV for 20 µs starts a sag event, counted and timestamped, and SAG reports go to partners. -/
  | sagEvent
  /-- R396: A sag event ends after the input has stayed above SAG_MV + 1 V for 1 ms. -/
  | sagEventEnd
  /-- R397: Low, absent or high input for its duration stops all work, writes CLOSE records, takes links down and switches the rails off. -/
  | powerFailSequence
  /-- R401: A rising power-frame edge updates the frame period and restores the external frame after 8 valid intervals. -/
  | frameEdge (ival : Nat)
  /-- R401: No edge for 12.5 ms or an interval out of range loses the frame and starts the internal frame. -/
  | frameTimeout
  /-- R401: While the frame is lost, an internal frame edge occurs every FRAME_DEF_US. -/
  | internalFrameEdge
  /-- R403: At the start of the home slot, waiting heavy starts become eligible for credit. -/
  | homeSlotStart
  /-- R404: Every 100 µs the Almanac advances its thermal model, reservoir charge, credits, grants and clocks. -/
  | almanacTick (ix : TickIn)
  /-- R410: A command waiting DUE_US for credit, or bypassed 4 times, becomes due and blocks all non-due grants. -/
  | commandDue (k id : Nat)
  /-- R419: The Belvedere takes a reported event, sets its fault-word bit, writes a history entry and acts on its severity. -/
  | belvedereEvent (line : Nat)
  /-- R426: A hub unit sending no heartbeat for 500 µs makes the Belvedere take FATAL event 0x050. -/
  | heartbeatLost (missing : Nat)
  /-- R425: ALIVE changes level every 500 µs while the module is up and healthy. -/
  | aliveToggle
  /-- R434: START opens a guarded record with the CRC at its initial value, optionally feeding the ALIVE byte. -/
  | chkStart (fn : Fn) (u alive fed : Nat)
  /-- R434: END waits for the feed queue to empty, closes the record, compares the result and checks the alive counter. -/
  | chkEnd (fn : Fn) (u fed : Nat)
  /-- R435: RESET discards the open record, empties the queue and clears the baseline, LAST, error bits and counters. -/
  | chkReset (fn : Fn) (u : Nat)
  /-- R434: A write to CHK_D8 queues one byte for the open record, or sets OVERRUN or STRAY. -/
  | chkD8 (fn : Fn) (u value fed : Nat)
  /-- R434: A write to CHK_D16 queues two bytes for the open record, or sets OVERRUN or STRAY. -/
  | chkD16 (fn : Fn) (u value fed : Nat)
  /-- R434: A write to CHK_D32 queues four bytes for the open record, or sets OVERRUN or STRAY. -/
  | chkD32 (fn : Fn) (u value fed : Nat)
  /-- R432: A write to CHK_ASSIGN reassigns an idle check unit and resets it, or is discarded while a record is open. -/
  | chkAssign (fn : Fn) (u value : Nat)
  /-- R438: The 48 V input qualifying after absence starts a cold start at step 1 of Daybreak. -/
  | inputQualifies (b : BootIn)
  /-- R438: Releasing RESET_N after 10 µs low starts a cold start at step 2 with the rails kept up. -/
  | resetNRelease (b : BootIn)
  /-- R446: Releasing WARM_N stops work, ends contexts, unloads images and reruns Daybreak steps 4 to 7 from the hub copy. -/
  | warmRestart (b : BootIn)
  /-- R448: The flash erase command erases the 64 KiB sector of the target bank that holds ADDR, refused for the accepted bank. -/
  | sectorErase (fn : Fn)
  /-- R448: The flash program command programs the 256 B page holding ADDR − 4 from the buffer, refused for the accepted bank. -/
  | pageProgram (fn : Fn)
  /-- R448: A write to CFG_FL_DATA places 4 B in the program buffer and adds 4 to ADDR. -/
  | cfgFlData (fn : Fn) (value : Nat)
  /-- R448: A flash erase or program ends, clearing BUSY or setting ERR on failure. -/
  | flashOperationComplete (ok : Bool)
  /-- R455: PERST_N low takes the port's link down and ends every context opened through its functions. -/
  | perstNAssert (n : Nat)
  /-- R455: Releasing PERST_N lets the port train. -/
  | perstNRelease (n : Nat)
  /-- R459: Seating a Trellis cable starts training of its ports at the next 10 ms retry. -/
  | cableSeated (c : Nat)
  /-- R459: Removing a Trellis cable takes its ports down. -/
  | cableRemoved (c : Nat) (jobs : List Nat)
  /-- R457: EXTEST selects the boundary register and drives the pins only while RESET_N is low. -/
  | extest (cells : Scan)
  /-- R456: SAMPLE/PRELOAD selects the boundary register for sampling and preloading. -/
  | samplePreload (cells : Scan)
  /-- R456: IDCODE selects the 32-bit identification register. -/
  | idcode
  /-- R456: BYPASS selects the one-bit bypass register. -/
  | bypass
  /-- R116: SQ.NOP dispatches in the sequencer and does nothing. -/
  | sqNop (core task : Nat)
  /-- R116: SQ.LI writes an immediate into a scalar register with a latency of 1 cycle. -/
  | sqLi (core task : Nat)
  /-- R116: SQ.ALU writes the result of a scalar operation into DST after its latency. -/
  | sqAlu (core task : Nat)
  /-- R117: SQ.LOOP runs its body Count times, writing the iteration index into IDX_S. -/
  | sqLoop (core task : Nat)
  /-- R116: SQ.BR changes the task's program counter when its condition holds, at the dispatch cost of R99. -/
  | sqBr (core task : Nat)
  /-- R116: SQ.LDW reads a word of a scalar region on port B into a scalar register. -/
  | sqLdw (core task : Nat)
  /-- R116: SQ.STW writes a scalar register into a quarter of a scalar-region word on the write port. -/
  | sqStw (core task : Nat)
  /-- R95: SQ.END ends its task, and the command ends on the core once every started task has ended and every instruction has completed. -/
  | sqEnd (core task : Nat)
  /-- R119: CF.REG holds its task until the descriptor is idle, then defines and empties the region, zero-filling a scalar region. -/
  | cfReg (core task : Nat)
  /-- R119: CF.WIN sets window W and its code segment once task W is not running. -/
  | cfWin (core task : Nat)
  /-- R119: CF.TASK starts task T at PC with the initial scalar registers, once task T is not running. -/
  | cfTask (core task : Nat)
  /-- R119: CF.RNG sets the task's random coordinate and resets its element cursor to 0. -/
  | cfRng (core task : Nat)
  /-- R455: RESET_N held low keeps the rails up but stops everything from Daybreak step 2 on and holds ALIVE low, enabling EXTEST drive. -/
  | resetNAssert
  /-- R374: When the backup cell is exhausted without 48 V, the key store is lost, the module is locked and the calendar clock becomes
  unset. -/
  | backupCellExhausted
  /-- R350: A change to a VF's BAR or its SR-IOV control moves that VF's TDI into ERROR and tears down its contexts. -/
  | vfConfigChange (port vf : Nat)
  /-- R456: Entry of the test access port into Test-Logic-Reset selects IDCODE. -/
  | testLogicReset
  deriving DecidableEq, Repr

end Sys2Proof
end

