-- ==== Sys2Proof/Config.lean ====
section
/-! DEFINITION. Sys2Proof/Config.lean: what an implementation fixes, and the values the spec leaves open, as constants
without a body. -/

namespace Sys2Proof

/-- The ordering number of the module after reset (R1); the state carries it, so every statement ranges over all three. -/
def Config.variant : Machine.Variant := .kt960

/-- The silicon revision (R7: per lot). -/
opaque Config.siliconRev : BitVec 8

/-- A byte of stack memory that its partition has not written since its key was loaded (R230: unpredictable), by the
count of free values drawn and the stack-physical address. -/
opaque Config.freeByte : Nat → Nat → BitVec 8

/-- A 32-bit value the spec leaves open, by the count of free values drawn. -/
opaque Config.freeWord : Nat → BitVec 32

/-- A 64-bit value the spec leaves open, by the count of free values drawn. -/
opaque Config.freeDWord : Nat → BitVec 64

/-- Nanoseconds for which the backup cell lasts without 48 V beyond the 30 days that it is sure to (R5, R413). -/
opaque Config.backupSpare : BitVec 64

/-- AES-CMAC under a key: the 128-bit result as a number (NIST SP 800-38B, R359, R369). -/
opaque Config.cmac : Nat → List (BitVec 8) → Nat

/-- SHA-384 of a string of bytes, as a number (R388). -/
opaque Config.sha384 : List (BitVec 8) → Nat

/-- The ECDSA P-384 signature of a usage record under the usage-signing key, r then s, as a number whose most significant
byte comes first (R388). -/
opaque Config.usageSign : List (BitVec 8) → Nat

/-- A key derived under NIST SP 800-108 in counter mode with HMAC-SHA-384: from a key, an ASCII label and a context (R376). -/
opaque Config.kdf : Nat → String → List (BitVec 8) → Nat

/-- The bank, 0 to 1,023, of a granule of a stack, by its stack-physical address (R237: fixed for each silicon revision). -/
opaque Config.bankOf : Nat → Nat

/-- The DRAM page of a granule within its bank (R237). -/
opaque Config.dramPage : Nat → Nat

/-- The certificate chain of an SPDM slot, which depends on measurements 1 and 2 (R377, R378): slot, then the two
digests. -/
opaque Config.certChain : Nat → List (BitVec 8) → List (BitVec 8) → List (BitVec 8)

/-- Which bit of a delta map a parity unit and slot have (R329 names none; log 87). -/
opaque Config.mapBit : Nat → Nat

/-- The Gatehouse firmware, ROM and patch (R378). -/
opaque Config.firmware : List (BitVec 8)

/-- SHA-384 of a machine image, whose byte layout the spec does not give (R35, R378). -/
opaque Config.imageDigest : Machine.Image → Nat

/-- The lines fused out of a core's array at manufacture, by physical core: ROW_A, ROW_B, COL_A, COL_B, 255 for none (R84). -/
opaque Config.fused : Nat → BitVec 32

/-- Whether an ECDSA P-384 signature, r then s, verifies over a string of bytes under the image key (R440, R441). -/
opaque Config.imageSigOk : List (BitVec 8) → List (BitVec 8) → Bool

end Sys2Proof
end

