-- ==== Sys2Proof/Machine/Tbl.lean ====
section
/-! DEFINITION. Sys2Proof/Machine/Tbl.lean: tables keyed by a number, byte memories, and the little-endian and
bit-field helpers every family uses. -/

namespace Sys2Proof.Machine

/-- A table from numbers to values, kept with strictly rising keys; an absent key reads as the default the reader names. -/
abbrev Tbl (α : Type) := List (Nat × α)

/-- The entry under a key. -/
def Tbl.find {α : Type} : Tbl α → Nat → Option α
  | [], _ => none
  | (k, v) :: t, n => if n = k then some v else Tbl.find t n

/-- The value under a key, or the default. -/
def Tbl.get {α : Type} (d : α) (t : Tbl α) (n : Nat) : α := (Tbl.find t n).getD d

/-- Replace or insert the value under a key, keeping the keys rising. -/
def Tbl.set {α : Type} : Tbl α → Nat → α → Tbl α
  | [], n, v => [(n, v)]
  | (k, w) :: t, n, v =>
    if n < k then (n, v) :: (k, w) :: t
    else if n = k then (n, v) :: t
    else (k, w) :: Tbl.set t n v

/-- Remove a key. -/
def Tbl.del {α : Type} : Tbl α → Nat → Tbl α
  | [], _ => []
  | (k, w) :: t, n => if n = k then Tbl.del t n else (k, w) :: Tbl.del t n

/-- Apply a function to the value under a key. -/
def Tbl.upd {α : Type} (d : α) (t : Tbl α) (n : Nat) (f : α → α) : Tbl α := Tbl.set t n (f (Tbl.get d t n))

/-- The canonical form: keys strictly rising. -/
def Tbl.rising {α : Type} : Tbl α → Bool
  | [] => true
  | [_] => true
  | (a, _) :: (b, v) :: t => decide (a < b) && Tbl.rising ((b, v) :: t)

/-- A byte memory: the bytes that differ from zero, at strictly rising addresses; an unlisted byte reads as zero
(the scratchpads, die pools, weight buffers and host memory; Daybreak clears the scratchpads, R158, R443). -/
abbrev Mem := List Host.Cell

/-- One byte of a memory. -/
def Mem.rd (m : Mem) (a : Nat) : Byte := Tbl.get 0 m a

/-- Write one byte, keeping the canonical form. -/
def Mem.wr (m : Mem) (a : Nat) (b : Byte) : Mem := if b = 0 then Tbl.del m a else Tbl.set m a b

/-- The canonical form of a byte memory. -/
def Mem.wf (m : Mem) : Bool := Tbl.rising m && m.all (fun c => decide (c.2 ≠ 0))

/-- `n` bytes from address `a`, lowest first. -/
def Mem.rdN (m : Mem) (a : Nat) : Nat → Bytes
  | 0 => []
  | n + 1 => Mem.rd m a :: Mem.rdN m (a + 1) n

/-- Write bytes from address `a` up. -/
def Mem.wrN (m : Mem) (a : Nat) : Bytes → Mem
  | [] => m
  | b :: bs => Mem.wrN (Mem.wr m a b) (a + 1) bs

/-- Zero the `n` bytes from address `a`. -/
def Mem.zero (m : Mem) (a n : Nat) : Mem := m.filter (fun c => decide (c.1 < a) || decide (a + n ≤ c.1))

/-- The bytes from `a` to `a + n - 1`, moved down to address 0. -/
def Mem.slice (m : Mem) (a n : Nat) : Mem :=
  (m.filter (fun c => decide (a ≤ c.1) && decide (c.1 < a + n))).map (fun c => (c.1 - a, c.2))

/-- The number that bytes spell, least significant byte first (R16). -/
def leNat : Bytes → Nat
  | [] => 0
  | b :: bs => b.toNat + 256 * leNat bs

/-- `n` bytes of a number, least significant first. -/
def natLe : Nat → Nat → Bytes
  | 0, _ => []
  | n + 1, v => BitVec.ofNat 8 v :: natLe n (v / 256)

/-- Bits `[lo + w - 1 : lo]` of a number. -/
def bits (v lo w : Nat) : Nat := v / 2 ^ lo % 2 ^ w

/-- Bit `i` of a number. -/
def bit (v i : Nat) : Bool := v / 2 ^ i % 2 == 1

/-- A Bool as a bit of weight one. -/
def b2n (b : Bool) : Nat := if b then 1 else 0

/-- The signed value of a `w`-bit field. -/
def sext (w v : Nat) : Int := if v % 2 ^ w < 2 ^ (w - 1) then (v % 2 ^ w : Nat) else (v % 2 ^ w : Nat) - (2 ^ w : Nat)

/-- The `w`-bit two's complement field of an integer. -/
def field (w : Nat) (i : Int) : Nat := (i % (2 ^ w : Nat)).toNat

/-- floor(log2 n), with 0 for 0. -/
def log2 (n : Nat) : Nat := Nat.log2 n

/-- ceil(a / b). -/
def cdiv (a b : Nat) : Nat := (a + b - 1) / b

/-- Add with saturation at all ones of a `w`-bit counter (R16). -/
def satAdd (w a b : Nat) : Nat := min (a + b) (2 ^ w - 1)

/-- One more on a 32-bit saturating counter. -/
def inc32 (n : Nat) : Nat := satAdd 32 n 1

/-- The first `n` naturals. -/
def upto (n : Nat) : List Nat := List.range n

/-- Integer square root, by bits from the top. -/
def isqrtAux (n : Nat) : Nat → Nat → Nat
  | 0, r => r
  | k + 1, r => let c := r + 2 ^ k; if c * c ≤ n then isqrtAux n k c else isqrtAux n k r

/-- floor of the square root. -/
def isqrt (n : Nat) : Nat := isqrtAux n (log2 n / 2 + 1) 0

end Sys2Proof.Machine
end

