-- ==== Sys2Proof/Machine/Flags.lean ====
section
/-! DEFINITION. Sys2Proof/Machine/Flags.lean: the five sticky flags of R51 and their register form (R53). -/

namespace Sys2Proof.Machine

/-- The five sticky flags (R51). -/
structure FlagSet where
  invalid   : Bool := false
  overflow  : Bool := false
  underflow : Bool := false
  flushed   : Bool := false
  nanSeen   : Bool := false
  deriving DecidableEq, Repr

/-- No flag. -/
def noFlags : FlagSet := {}

/-- Sticky union (R53). -/
def orFlags (a b : FlagSet) : FlagSet :=
  { invalid := a.invalid || b.invalid, overflow := a.overflow || b.overflow, underflow := a.underflow || b.underflow,
    flushed := a.flushed || b.flushed, nanSeen := a.nanSeen || b.nanSeen }

/-- Bits [4:0] of PT_CTX_FLAGS and of a completion's FLAGS field (R53, R369): NaN-seen, flushed, underflow, overflow,
invalid, most significant first. -/
def flagBits (f : FlagSet) : Nat :=
  b2n f.invalid + 2 * b2n f.overflow + 4 * b2n f.underflow + 8 * b2n f.flushed + 16 * b2n f.nanSeen

/-- The flags a write of ones leaves (access W1C, R18). -/
def clearFlags (f : FlagSet) (v : Nat) : FlagSet :=
  { invalid := f.invalid && !bit v 0, overflow := f.overflow && !bit v 1, underflow := f.underflow && !bit v 2,
    flushed := f.flushed && !bit v 3, nanSeen := f.nanSeen && !bit v 4 }

end Sys2Proof.Machine
end

