-- ==== Sys2Proof/Machine/Fp.lean ====
section
/-! DEFINITION. Sys2Proof/Machine/Fp.lean: the number formats and arithmetic rules of 02_number_formats.md, exactly:
a value is unpacked to an exact dyadic number, computed on exactly, and rounded once (R37 to R60). -/

namespace Sys2Proof.Machine

/-- An unpacked value: NaN (signalling or quiet), infinity, or (-1)^neg * m * 2^e exactly; m = 0 is a signed zero. -/
inductive Num where
  | nan (sig : Bool)
  | inf (neg : Bool)
  | fin (neg : Bool) (m : Nat) (e : Int)
  deriving DecidableEq, Repr

/-- How a format encodes its top exponent (R37). -/
inductive Specials where
  | ieee      -- infinities and NaNs
  | e4m3      -- NaN only, 0x7F and 0xFF
  | none      -- every encoding is finite
  deriving DecidableEq, Repr

/-- A floating-point format: exponent and mantissa widths, bias, special encodings (R37). -/
structure Fmt where
  ew : Nat
  mw : Nat
  bias : Nat
  sp : Specials
  deriving DecidableEq, Repr

def fp32 : Fmt := { ew := 8, mw := 23, bias := 127, sp := .ieee }
def fp16 : Fmt := { ew := 5, mw := 10, bias := 15, sp := .ieee }
def bf16 : Fmt := { ew := 8, mw := 7, bias := 127, sp := .ieee }
def e4m3 : Fmt := { ew := 4, mw := 3, bias := 7, sp := .e4m3 }
def e5m2 : Fmt := { ew := 5, mw := 2, bias := 15, sp := .ieee }
def e3m2 : Fmt := { ew := 3, mw := 2, bias := 3, sp := .none }
def e2m3 : Fmt := { ew := 2, mw := 3, bias := 1, sp := .none }
def e2m1 : Fmt := { ew := 2, mw := 1, bias := 1, sp := .none }

/-- Total width in bits. -/
def fmtBits (f : Fmt) : Nat := 1 + f.ew + f.mw

/-- Exponent of the smallest normal number. -/
def fmtEmin (f : Fmt) : Int := 1 - (f.bias : Int)

/-- Largest finite magnitude as mantissa and exponent (R37). -/
def fmtMax (f : Fmt) : Nat × Int :=
  match f.sp with
  | .ieee => (2 ^ (f.mw + 1) - 1, (2 ^ f.ew - 2 : Nat) - (f.bias : Int) - f.mw)
  | .e4m3 => (2 ^ (f.mw + 1) - 2, (2 ^ f.ew - 1 : Nat) - (f.bias : Int) - f.mw)
  | .none => (2 ^ (f.mw + 1) - 1, (2 ^ f.ew - 1 : Nat) - (f.bias : Int) - f.mw)

/-- Unpack the bits of a format (R37). -/
def unpack (f : Fmt) (v : Nat) : Num :=
  let s := bit v (f.ew + f.mw)
  let e := bits v f.mw f.ew
  let m := bits v 0 f.mw
  let fin : Num :=
    if e = 0 then .fin s m (fmtEmin f - f.mw) else .fin s (2 ^ f.mw + m) ((e : Int) - f.bias - f.mw)
  match f.sp with
  | .ieee => if e = 2 ^ f.ew - 1 then (if m = 0 then .inf s else .nan (!bit m (f.mw - 1))) else fin
  | .e4m3 => if e = 2 ^ f.ew - 1 ∧ m = 2 ^ f.mw - 1 then .nan false else fin
  | .none => fin

/-- The canonical NaN of a format (R49). -/
def canonNaN (f : Fmt) : Nat :=
  match f.sp with
  | .ieee => (2 ^ f.ew - 1) * 2 ^ f.mw + 2 ^ (f.mw - 1)
  | .e4m3 => 0x7F
  | .none => 0

/-- The encoding of an infinity. -/
def infBits (f : Fmt) (neg : Bool) : Nat := b2n neg * 2 ^ (f.ew + f.mw) + (2 ^ f.ew - 1) * 2 ^ f.mw

/-- The encoding of the largest finite value with a sign. -/
def maxBits (f : Fmt) (neg : Bool) : Nat :=
  b2n neg * 2 ^ (f.ew + f.mw) +
    match f.sp with
    | .ieee => (2 ^ f.ew - 1) * 2 ^ f.mw - 1
    | .e4m3 => 0x7E
    | .none => 2 ^ (f.ew + f.mw) - 1

/-- The sign of a zero-valued or any other encoding with only the sign bit. -/
def zeroBits (f : Fmt) (neg : Bool) : Nat := b2n neg * 2 ^ (f.ew + f.mw)

/-- Rounding: to nearest, ties to even; or stochastic with one 16-bit draw (R55, R56). -/
inductive Rnd where
  | rne
  | sto (draw : Nat)
  deriving DecidableEq, Repr

/-- m * 2^e as a multiple of 2^q under a rounding: the multiple and whether bits were lost (R56). -/
def roundAt (r : Rnd) (m : Nat) (e q : Int) : Nat × Bool :=
  if q ≤ e then (m * 2 ^ (e - q).toNat, false)
  else
    let sh := (q - e).toNat
    let k := m / 2 ^ sh
    let d := m % 2 ^ sh
    match r with
    | .rne =>
      let up := 2 * d > 2 ^ sh || (2 * d == 2 ^ sh && k % 2 == 1)
      (k + b2n up, d != 0)
    | .sto draw => (k + b2n (decide (d * 65536 / 2 ^ sh + draw ≥ 65536)), d != 0)

/-- Binary exponent of m * 2^e: the value lies in [2^x, 2^(x+1)). -/
def expOf (m : Nat) (e : Int) : Int := (log2 m : Int) + e

/-- m * 2^e < m' * 2^e' -/
def magLt (m : Nat) (e : Int) (m' : Nat) (e' : Int) : Bool :=
  if e ≤ e' then decide (m < m' * 2 ^ (e' - e).toNat) else decide (m * 2 ^ (e - e').toNat < m')

/-- Pack a rounded magnitude k * 2^q that the format holds. -/
def packMag (f : Fmt) (neg : Bool) (k : Nat) (q : Int) : Nat :=
  if k = 0 then zeroBits f neg
  else
    let x := expOf k q
    if x < fmtEmin f then zeroBits f neg + k * 2 ^ (q - (fmtEmin f - f.mw)).toNat
    else
      let m := if (f.mw : Int) ≤ log2 k then k / 2 ^ (log2 k - f.mw) else k * 2 ^ (f.mw - log2 k)
      zeroBits f neg + (x + f.bias).toNat * 2 ^ f.mw + (m - 2 ^ f.mw)

/-- What rounding a finite nonzero magnitude into a format gives, before the overflow policy: the packed bits, whether
it overflowed, whether it was inexact, whether it is tiny after rounding (R51), and the rounded value. -/
structure Rounded where
  k : Nat
  q : Int
  ovf : Bool
  inexact : Bool
  tiny : Bool
  deriving DecidableEq, Repr

/-- Round m * 2^e into a format's precision (R51, R55, R56). -/
def roundFmt (f : Fmt) (r : Rnd) (m : Nat) (e : Int) : Rounded :=
  if m = 0 then { k := 0, q := 0, ovf := false, inexact := false, tiny := false }
  else
    let x := expOf m e
    let qFree := x - f.mw
    let q := max qFree (fmtEmin f - f.mw)
    let (k, inex) := roundAt r m e q
    let (kf, _) := roundAt r m e qFree
    let (mm, me) := fmtMax f
    { k := k, q := q, ovf := magLt mm me k q, inexact := inex,
      tiny := magLt kf qFree 1 (fmtEmin f) }

/-- Whether the flush bit acts on a format (R52): FP32, FP16 and BF16 only. -/
def flushable (f : Fmt) : Bool := decide (f = fp32) || decide (f = fp16) || decide (f = bf16)

/-- An input as an operation sees it under the flush bit (R52), with the flags reading it raises (R50, R51). -/
def readNum (f : Fmt) (flush : Bool) (v : Nat) : Num × FlagSet :=
  match unpack f v with
  | .nan s => (.nan s, { invalid := s, nanSeen := true })
  | .inf n => (.inf n, noFlags)
  | .fin n m e =>
    if flush && flushable f && m != 0 && bits v f.mw f.ew == 0 then (.fin n 0 0, { flushed := true })
    else (.fin n m e, noFlags)

/-- Deliver a value into a format: rounding, overflow policy (R57), underflow and flush (R51, R52), canonical NaN (R49). -/
def deliver (f : Fmt) (r : Rnd) (sat flush : Bool) (x : Num) : Nat × FlagSet :=
  match x with
  | .nan _ => (canonNaN f, { nanSeen := true })
  | .inf n =>
    match f.sp with
    | .ieee => if sat then (maxBits f n, { overflow := true }) else (infBits f n, noFlags)
    | .e4m3 => if sat then (maxBits f n, { overflow := true }) else (canonNaN f, { overflow := true, nanSeen := true })
    | .none => (maxBits f n, { overflow := true })
  | .fin n m e =>
    let o := roundFmt f r m e
    if o.ovf then
      match f.sp with
      | .ieee => (if sat then maxBits f n else infBits f n, { overflow := true })
      | .e4m3 => if sat then (maxBits f n, { overflow := true }) else (canonNaN f, { overflow := true, nanSeen := true })
      | .none => (maxBits f n, { overflow := true })
    else if flush && flushable f && o.k != 0 && decide (expOf o.k o.q < fmtEmin f) then
      (zeroBits f n, { flushed := true, underflow := true })
    else (packMag f n o.k o.q, { underflow := o.tiny && o.inexact })

/-- Exact sum of two finite values: the sign, magnitude and exponent; an exact zero takes + unless both are - (R47). -/
def addFin (n1 : Bool) (m1 : Nat) (e1 : Int) (n2 : Bool) (m2 : Nat) (e2 : Int) : Num :=
  let e := min e1 e2
  let a : Int := (m1 * 2 ^ (e1 - e).toNat : Nat)
  let b : Int := (m2 * 2 ^ (e2 - e).toNat : Nat)
  let s := (if n1 then -a else a) + (if n2 then -b else b)
  if s = 0 then .fin (n1 && n2) 0 0 else .fin (decide (s < 0)) s.natAbs e

/-- x + y on unpacked values, with invalid for opposite infinities (R47, R51). -/
def addNum (x y : Num) : Num × FlagSet :=
  match x, y with
  | .nan _, _ => (.nan false, { nanSeen := true })
  | _, .nan _ => (.nan false, { nanSeen := true })
  | .inf a, .inf b => if a = b then (.inf a, noFlags) else (.nan false, { invalid := true, nanSeen := true })
  | .inf a, _ => (.inf a, noFlags)
  | _, .inf b => (.inf b, noFlags)
  | .fin n1 m1 e1, .fin n2 m2 e2 => (addFin n1 m1 e1 n2 m2 e2, noFlags)

/-- x * y exactly, with invalid for 0 * infinity (R51). -/
def mulNum (x y : Num) : Num × FlagSet :=
  match x, y with
  | .nan _, _ => (.nan false, { nanSeen := true })
  | _, .nan _ => (.nan false, { nanSeen := true })
  | .inf a, .inf b => (.inf (a != b), noFlags)
  | .inf a, .fin b m _ => if m = 0 then (.nan false, { invalid := true, nanSeen := true }) else (.inf (a != b), noFlags)
  | .fin a m _, .inf b => if m = 0 then (.nan false, { invalid := true, nanSeen := true }) else (.inf (a != b), noFlags)
  | .fin a m e, .fin b m' e' => (.fin (a != b) (m * m') (e + e'), noFlags)

/-- -x. -/
def negNum : Num → Num
  | .nan s => .nan s
  | .inf n => .inf (!n)
  | .fin n m e => .fin (!n) m e

/-- A two-operand result in one format, rounded once to nearest even (R108). -/
def fmaBits (f : Fmt) (flush negP negC : Bool) (a b c : Nat) : Nat × FlagSet :=
  let (x, fx) := readNum f flush a
  let (y, fy) := readNum f flush b
  let (z, fz) := readNum f flush c
  let (p, fp) := mulNum x y
  let (s, fs) := addNum (if negP then negNum p else p) (if negC then negNum z else z)
  let (v, fv) := deliver f .rne false flush s
  (v, orFlags fx (orFlags fy (orFlags fz (orFlags fp (orFlags fs fv)))))

/-- A + B, or A - B when `sub` (R47, R108). -/
def addBits (f : Fmt) (flush sub : Bool) (a b : Nat) : Nat × FlagSet :=
  let (x, fx) := readNum f flush a
  let (y, fy) := readNum f flush b
  let (s, fs) := addNum x (if sub then negNum y else y)
  let (v, fv) := deliver f .rne false flush s
  (v, orFlags fx (orFlags fy (orFlags fs fv)))

/-- A * B. -/
def mulBits (f : Fmt) (flush : Bool) (a b : Nat) : Nat × FlagSet :=
  let (x, fx) := readNum f flush a
  let (y, fy) := readNum f flush b
  let (s, fs) := mulNum x y
  let (v, fv) := deliver f .rne false flush s
  (v, orFlags fx (orFlags fy (orFlags fs fv)))

/-- x < y on numbers that are not NaN, with -0 below +0 (R48). -/
def numLt (x y : Num) : Bool :=
  match x, y with
  | .inf a, .inf b => a && !b
  | .inf a, _ => a
  | _, .inf b => !b
  | .fin n m e, .fin n' m' e' =>
    if n && !n' then true
    else if !n && n' then false
    else if n then magLt m' e' m e else magLt m e m' e'
  | _, _ => false

/-- maximum, minimum, maximumNumber and minimumNumber (R48). -/
def minmaxBits (f : Fmt) (flush isMax number : Bool) (a b : Nat) : Nat × FlagSet :=
  let (x, fx) := readNum f flush a
  let (y, fy) := readNum f flush b
  let fl := orFlags fx fy
  let pick : Num :=
    match x, y with
    | .nan _, .nan _ => .nan false
    | .nan _, _ => if number then y else .nan false
    | _, .nan _ => if number then x else .nan false
    | _, _ => if isMax then (if numLt x y then y else x) else (if numLt y x then y else x)
  let (v, fv) := deliver f .rne false flush pick
  (v, orFlags fl fv)

/-- x / y, correctly rounded to FP32 with gradual underflow (R251, R255, R256). -/
def divNum (x y : Num) : Num × FlagSet :=
  match x, y with
  | .nan _, _ => (.nan false, { nanSeen := true })
  | _, .nan _ => (.nan false, { nanSeen := true })
  | .inf _, .inf _ => (.nan false, { invalid := true, nanSeen := true })
  | .inf a, .fin b _ _ => (.inf (a != b), noFlags)
  | .fin a _ _, .inf b => (.fin (a != b) 0 0, noFlags)
  | .fin a m e, .fin b m' e' =>
    if m' = 0 then
      (if m = 0 then (.nan false, { invalid := true, nanSeen := true }) else (.inf (a != b), noFlags))
    else
      let sh := 64 + log2 m'
      let q := m * 2 ^ sh / m'
      let r := m * 2 ^ sh % m'
      (.fin (a != b) (2 * q + b2n (r != 0)) (e - e' - sh - 1), noFlags)

/-- The square root, correctly rounded once delivered (R255, R256). -/
def sqrtNum (x : Num) : Num × FlagSet :=
  match x with
  | .nan _ => (.nan false, { nanSeen := true })
  | .inf true => (.nan false, { invalid := true, nanSeen := true })
  | .inf false => (.inf false, noFlags)
  | .fin n m e =>
    if m = 0 then (.fin n 0 0, noFlags)
    else if n then (.nan false, { invalid := true, nanSeen := true })
    else
      let sh := 80 + (e % 2).toNat
      let w := m * 2 ^ sh
      let r := isqrt w
      (.fin false (2 * r + b2n (r * r != w)) ((e - sh) / 2 - 1), noFlags)

/-- One FP32 operation on unpacked values, delivered to FP32 to nearest even with gradual underflow (R256: the update
engines and the reduction engine always use gradual underflow). -/
def toF32 (x : Num × FlagSet) : Nat × FlagSet :=
  let (v, fl) := deliver fp32 .rne false false x.1
  (v, orFlags x.2 fl)

/-- Read an FP32 operand with gradual underflow. -/
def ofF32 (v : Nat) : Num := unpack fp32 v

/-- Whether an FP32 pattern is finite. -/
def isFinite32 (v : Nat) : Bool := bits v 23 8 != 255

/-- Conversion of a value to a signed integer of `w` bits (R58): rounded under the rounding half of the mode, always
saturating; out of range, infinity and NaN set invalid. -/
def toInt (w : Nat) (r : Rnd) (x : Num) : Nat × FlagSet :=
  let hi : Int := (2 ^ (w - 1) : Nat) - 1
  let lo : Int := -(2 ^ (w - 1) : Nat)
  match x with
  | .nan _ => (0, { invalid := true, nanSeen := true })
  | .inf n => (field w (if n then lo else hi), { invalid := true })
  | .fin n m e =>
    let (k, _) := roundAt r m e 0
    let i : Int := if n then -(k : Int) else (k : Int)
    if i > hi then (field w hi, { invalid := true })
    else if i < lo then (field w lo, { invalid := true })
    else (field w i, noFlags)

/-- A signed integer as an exact value. -/
def ofInt (i : Int) : Num := .fin (decide (i < 0)) i.natAbs 0

/-! ## Philox-4x32-10 (R268) -/

/-- One Philox round under a key; multipliers as published (PRESUMED, log 6). -/
def philoxRound (k0 k1 : Nat) (c : Nat × Nat × Nat × Nat) : Nat × Nat × Nat × Nat :=
  let (c0, c1, c2, c3) := c
  let p0 := 0xD2511F53 * c0
  let p1 := 0xCD9E8D57 * c2
  ((p1 / 2 ^ 32) ^^^ c1 ^^^ k0, p1 % 2 ^ 32, (p0 / 2 ^ 32) ^^^ c3 ^^^ k1, p0 % 2 ^ 32)

/-- `n` rounds with the key bumped between rounds. -/
def philoxRounds : Nat → Nat → Nat → Nat × Nat × Nat × Nat → Nat × Nat × Nat × Nat
  | 0, _, _, c => c
  | n + 1, k0, k1, c =>
    philoxRounds n ((k0 + 0x9E3779B9) % 2 ^ 32) ((k1 + 0xBB67AE85) % 2 ^ 32) (philoxRound k0 k1 c)

/-- Philox-4x32-10 (R268). -/
def philox (k0 k1 c0 c1 c2 c3 : Nat) : Nat × Nat × Nat × Nat := philoxRounds 10 k0 k1 (c0, c1, c2, c3)

/-- The key of stream `s` from the job seed (R268). -/
def streamKey (seed s : Nat) : Nat × Nat :=
  let w := philox (bits seed 0 32) (bits seed 32 32) s 0xFFFFFFFF 0xFFFFFFFF 0xFFFFFFFF
  (w.1, w.2.1)

/-- A random coordinate: step, micro-batch, layer (R269). -/
structure Coord where
  step : Nat := 0
  mb : Nat := 0
  layer : Nat := 0
  deriving DecidableEq, Repr

/-- The draw for element number e of stream s at a coordinate (R269). -/
def draw (seed s : Nat) (c : Coord) (e : Nat) : Nat :=
  let e := e % 2 ^ 51
  let grp := e / 8
  let (k0, k1) := streamKey seed s
  let (w0, w1, w2, w3) := philox k0 k1 (grp % 2 ^ 32) (c.layer * 2 ^ 16 + bits grp 32 16) c.mb c.step
  let w := match (e / 2) % 4 with
    | 0 => w0
    | 1 => w1
    | 2 => w2
    | _ => w3
  if e % 2 = 1 then w / 2 ^ 16 else w % 2 ^ 16

end Sys2Proof.Machine
end

