-- ==== Sys2Proof/Machine/MxArith.lean ====
section
/-! DEFINITION. Sys2Proof/Machine/MxArith.lean: format codes (R44, R45), MX blocks (R38, R39, R59, R60), conversions
(R55 to R60) and the arithmetic of the matrix array (R61 to R63). -/

namespace Sys2Proof.Machine

/-- The floating-point format of a code, where it is one (R44). -/
def fmtOfCode : Nat → Option Fmt
  | 0 => some fp32
  | 1 => some bf16
  | 2 => some fp16
  | 3 => some e4m3
  | 4 => some e5m2
  | 5 => some e4m3
  | 6 => some e5m2
  | 7 => some e3m2
  | 8 => some e2m3
  | 9 => some e2m1
  | _ => none

/-- Whether a code is an MX format (R44). -/
def isMx (c : Nat) : Bool := decide (5 ≤ c) && decide (c ≤ 10)

/-- Element width in bits of a code (R37, R44). -/
def codeBits : Nat → Nat
  | 0 => 32
  | 1 => 16
  | 2 => 16
  | 7 => 6
  | 8 => 6
  | 9 => 4
  | 12 => 32
  | _ => 8

/-- Whether a code is a 16-bit format of the array. -/
def is16 (c : Nat) : Bool := c == 1 || c == 2

/-- The FP8 class of R45: codes 0x3 to 0x8 and 0xA. -/
def isFp8Class (c : Nat) : Bool := (decide (3 ≤ c) && decide (c ≤ 8)) || c == 10

/-- The operand pairs the array takes (R45). -/
def pairOk (a b : Nat) : Bool :=
  (isFp8Class a && isFp8Class b) || (a == 9 && b == 9) || (a == 9 && isFp8Class b) || (is16 a && is16 b) ||
    (is16 a && isFp8Class b) || (a == 11 && b == 11)

/-- The value of one stored element without its block scale, and the flags of reading it (R37, R50, R52). -/
def readElem (code : Nat) (flush : Bool) (v : Nat) : Num × FlagSet :=
  match fmtOfCode code with
  | some f => readNum f (flush && !isMx code) v
  | none =>
    if code = 10 then (.fin (decide (sext 8 v < 0)) (sext 8 v).natAbs (-6), noFlags)
    else if code = 11 then (ofInt (sext 8 v), noFlags)
    else (ofInt (sext 32 v), noFlags)

/-- x * 2^k. -/
def scaleNum (x : Num) (k : Int) : Num :=
  match x with
  | .fin n m e => .fin n m (e + k)
  | y => y

/-- An element of an MX block with scale byte X: NaN throughout when X is 0xFF, setting NaN-seen only (R39, R60). -/
def readScaled (code : Nat) (flush : Bool) (v scale : Nat) : Num × FlagSet :=
  if scale = 255 then (.nan false, { nanSeen := true })
  else
    let (x, f) := readElem code flush v
    (scaleNum x ((scale : Int) - 127), f)

/-- emax of an MX element format (R59). -/
def mxEmax : Nat → Int
  | 5 => 8
  | 6 => 15
  | 7 => 4
  | 8 => 2
  | 9 => 2
  | _ => 0

/-- The rounding a 2-bit conversion mode names, with its draw (R55). -/
def modeRnd (cmode draw : Nat) : Rnd := if cmode ≥ 2 then .sto draw else .rne

/-- The saturation half of a conversion mode (R55). -/
def modeSat (cmode : Nat) : Bool := cmode % 2 == 1

/-- Convert one value into a format that has no block scale (R55 to R58). -/
def convert (dst cmode draw : Nat) (flush : Bool) (x : Num) : Nat × FlagSet :=
  match fmtOfCode dst with
  | some f => deliver f (if dst = 0 then .rne else modeRnd cmode draw) (modeSat cmode) flush x
  | none => toInt (if dst = 12 then 32 else 8) (modeRnd cmode draw) x

/-- Convert one scaled value into an MX element: the magnitude clamps with no flag (R59 steps 3 and 4). -/
def convertElem (code cmode draw : Nat) (x : Num) : Nat × FlagSet :=
  match x with
  | .fin n m e =>
    match fmtOfCode code with
    | some f =>
      let o := roundFmt f (modeRnd cmode draw) m e
      if o.ovf then (maxBits f n, noFlags) else (packMag f n o.k o.q, { underflow := o.tiny && o.inexact })
    | none =>
      let (k, _) := roundAt (modeRnd cmode draw) m e (-6)
      let i : Int := (min k 127 : Nat)
      (field 8 (if n then -i else i), noFlags)
  | _ => (0, noFlags)

/-- Whether a value is NaN. -/
def numIsNan : Num → Bool
  | .nan _ => true
  | _ => false

/-- Whether a value is infinite. -/
def numIsInf : Num → Bool
  | .inf _ => true
  | _ => false

/-- The binary exponent of a finite nonzero value. -/
def numExp : Num → Option Int
  | .fin _ m e => if m = 0 then none else some (expOf m e)
  | _ => none

/-- The largest binary exponent among values, none when all are zero. -/
def maxExp : List Num → Option Int
  | [] => none
  | x :: xs =>
    match numExp x, maxExp xs with
    | some a, some b => some (max a b)
    | some a, none => some a
    | none, r => r

/-- Store a group of at most 32 values into one MX block: scale byte, elements and flags (R59). `draws` gives one
draw for each value in element order; missing values are +0 stored as zero bits. -/
def mxStore (code cmode : Nat) (vals : List (Num × FlagSet)) (draws : List Nat) : Nat × List Nat × FlagSet :=
  let inFl := vals.foldl (fun f v => orFlags f v.2) noFlags
  let ns := vals.map Prod.fst
  if ns.any (fun x => numIsNan x || numIsInf x) then
    (255, List.replicate 32 0, orFlags inFl { nanSeen := true, overflow := ns.any numIsInf })
  else
    let x : Nat :=
      match maxExp ns with
      | none => 0
      | some a => (max 0 (min 254 (a - mxEmax code + 127))).toNat
    let outs := (ns.zip (draws ++ List.replicate 32 0)).map (fun p => convertElem code cmode p.2 (scaleNum p.1 (127 - (x : Int))))
    (x, outs.map Prod.fst ++ List.replicate (32 - outs.length) 0, outs.foldl (fun f o => orFlags f o.2) inFl)

/-- Bits `[w * i + w - 1 : w * i]` of a byte array read as one little-endian integer (R38). -/
def elemAt (rd : Nat → Nat) (w i : Nat) : Nat :=
  let p := w * i
  (rd (p / 8) + 256 * rd (p / 8 + 1) + 65536 * rd (p / 8 + 2) + 16777216 * rd (p / 8 + 3)) / 2 ^ (p % 8) % 2 ^ w

/-- Pack elements of width w into bytes as one little-endian integer (R38). -/
def packElems (w : Nat) (es : List Nat) : Bytes :=
  natLe (cdiv (w * es.length) 8) (es.foldr (fun e acc => e % 2 ^ w + 2 ^ w * acc) 0)

/-- One product of the array: the two elements as read and the exponent by which A's own block scales it when a chunk
spans two blocks of A (R62). -/
structure Prod3 where
  a : Num
  b : Num
  sa : Int
  deriving DecidableEq, Repr

/-- 2^128 or more. -/
def hugeNum : Num → Bool
  | .fin _ m e => decide (m ≠ 0) && decide (expOf m e ≥ 128)
  | _ => false

/-- Sign of a value. -/
def numNeg : Num → Bool
  | .nan _ => false
  | .inf n => n
  | .fin n _ _ => n

/-- A finite value as an integer multiple of 2^q, exact when q is at or below its exponent. -/
def numAt (x : Num) (q : Int) : Int :=
  match x with
  | .fin n m e => let k : Int := (m * 2 ^ (e - q).toNat : Nat); if n then -k else k
  | _ => 0

/-- The smallest exponent among finite values, bounded above by `q`. -/
def minQ (q : Int) : List Num → Int
  | [] => q
  | .fin _ m e :: xs => if m = 0 then minQ q xs else min e (minQ q xs)
  | _ :: xs => minQ q xs

/-- A sum in units of 2^q truncated toward minus infinity to units of 2^(q + k) (R62 action 4). Its error is never positive and less than
one such unit, as R64 bounds it: `truncSum_error`. -/
def truncSum (s : Int) (k : Nat) : Int := s / (2 ^ k : Nat)

/-- One chunk stage in FP32: actions 1 to 7 of R62. `c` is the combined scale C. -/
def chunkStage (flush : Bool) (c : Int) (inFl : FlagSet) (ps : List Prod3) (acc : Nat) : Nat × FlagSet :=
  let prods := ps.map (fun p =>
    let r := mulNum p.a p.b
    let x := scaleNum r.1 p.sa
    if hugeNum x then (Num.inf (numNeg x), orFlags r.2 { overflow := true }) else (x, r.2))
  let fl2 := prods.foldl (fun f p => orFlags f p.2) inFl
  let xs := prods.map Prod.fst
  let posInf := xs.any (fun x => numIsInf x && !numNeg x)
  let negInf := xs.any (fun x => numIsInf x && numNeg x)
  let (v, fl6) : Num × FlagSet :=
    if xs.any numIsNan then (.nan false, orFlags fl2 { nanSeen := true, invalid := posInf && negInf })
    else if posInf && negInf then (.nan false, orFlags fl2 { nanSeen := true, invalid := true })
    else if posInf || negInf then (.inf negInf, fl2)
    else
      match maxExp xs with
      | none => (.fin (xs.all numNeg) 0 0, fl2)
      | some E =>
        let q := minQ (E - 30) xs
        let s := xs.foldl (fun t x => t + numAt x q) 0
        let t := truncSum s (E - 30 - q).toNat
        let neg := decide (t < 0)
        let V : Num := .fin neg t.natAbs (E - 30 + c)
        if hugeNum V then (.inf neg, orFlags fl2 { overflow := true })
        else if flush && t != 0 && decide (expOf t.natAbs (E - 30 + c) < -126) then
          (.fin neg 0 0, orFlags fl2 { flushed := true, underflow := true })
        else (V, fl2)
  let (a, fa) := readNum fp32 flush acc
  let (r, fr) := addNum a v
  let (out, fo) := deliver fp32 .rne false flush r
  (out, orFlags fl6 (orFlags fa (orFlags fr fo)))

/-- One chunk stage in INT32 (R63). -/
def chunkInt (ps : List (Int × Int)) (acc : Nat) : Nat × FlagSet :=
  let s := ps.foldl (fun t p => t + p.1 * p.2) 0 + sext 32 acc
  if s > 2147483647 then (field 32 2147483647, { overflow := true })
  else if s < -2147483648 then (field 32 (-2147483648), { overflow := true })
  else (field 32 s, noFlags)

/-- The operands of one array instruction as the pass reads them: format codes, flush, the reduction count, elements
and scale bytes of A at (token, index) and of B at (index, column), and whether A's scale is applied per element. -/
structure PassIn where
  fa : Nat
  fb : Nat
  flush : Bool
  red : Nat
  perElem : Bool
  ea : Nat → Nat → Nat
  xa : Nat → Nat → Nat
  eb : Nat → Nat → Nat
  xb : Nat → Nat → Nat

/-- Chunk `g` of result (t, j): the products of reduction indices 32g to 32g + 31 below the reduction count, the rest
+0 (R61, R62). -/
def passChunk (p : PassIn) (t j g acc : Nat) : Nat × FlagSet :=
  let idx := (upto 32).map (fun i => 32 * g + i)
  if p.fa = 11 then
    chunkInt (idx.map (fun k => if k < p.red then (sext 8 (p.ea t k), sext 8 (p.eb k j)) else (0, 0))) acc
  else
    let nanA (k : Nat) : Bool := isMx p.fa && p.xa t k == 255
    let nanB (k : Nat) : Bool := isMx p.fb && p.xb k j == 255
    let rd (k : Nat) : Prod3 × FlagSet :=
      if k < p.red then
        let (a, f) := if nanA k then (Num.nan false, { nanSeen := true }) else readElem p.fa p.flush (p.ea t k)
        let (b, h) := if nanB k then (Num.nan false, { nanSeen := true }) else readElem p.fb p.flush (p.eb k j)
        ({ a := a, b := b, sa := if p.perElem then (p.xa t k : Int) - 127 else 0 }, orFlags f h)
      else ({ a := .fin false 0 0, b := .fin false 0 0, sa := 0 }, noFlags)
    let rs := idx.map rd
    let k0 := 32 * g
    let ca : Int := if isMx p.fa && !p.perElem then (p.xa t k0 : Int) - 127 else 0
    let cb : Int := if isMx p.fb then (p.xb k0 j : Int) - 127 else 0
    chunkStage p.flush (ca + cb) (rs.foldl (fun f r => orFlags f r.2) noFlags) (rs.map Prod.fst) acc

/-- Chunks `g, g + 1, …` in increasing order of reduction index (R61). -/
def passChunks (p : PassIn) (t j : Nat) : Nat → Nat → Nat × FlagSet → Nat × FlagSet
  | 0, _, r => r
  | n + 1, g, (acc, fl) =>
    let (a, f) := passChunk p t j g acc
    passChunks p t j n (g + 1) (a, orFlags fl f)

/-- Result (t, j) of a pass from its starting accumulator value (R61, R62, R63). -/
def passPoint (p : PassIn) (t j acc : Nat) : Nat × FlagSet := passChunks p t j (cdiv p.red 32) 0 (acc, noFlags)

end Sys2Proof.Machine
end

