-- ==== Sys2Proof/Machine/CoreIsa.lean ====
section
/-! DEFINITION. Sys2Proof/Machine/CoreIsa.lean: the 64-bit instruction word of the core (R104 to R118): operation codes,
fields, and the regions an instruction reads and writes with their footprints (R72, R108, R109, R113). -/

namespace Sys2Proof.Machine

/-- The operations of the opcode table of R104, VX.U by its FUNCT (R109). -/
inductive Op where
  | mxMm | mxCv | mxDr | mxFmt
  | vxB | vxT | vxCvt | vxCopy | vxNeg | vxAbs | vxTrn | vxRsum | vxRmax | vxRsumsq
  | fxFwd | fxBwi | fxBwo
  | stIn | stOut | stWch | stTil
  | lnArm | lnSig | lnWait | lnWtc
  | sqNop | sqLi | sqAlu | sqLoop | sqBr | sqLdw | sqStw | sqEnd
  | cfReg | cfWin | cfTask | cfRng
  deriving DecidableEq, Repr

/-- The engines an instruction is queued for (R97); SQ and CF execute in the sequencer. -/
inductive Eng where
  | mx | vx | fx | st | ln | seq
  deriving DecidableEq, Repr

/-- The engine of an operation. -/
def engOf : Op → Eng
  | .mxMm => .mx | .mxCv => .mx | .mxDr => .mx | .mxFmt => .mx
  | .vxB => .vx | .vxT => .vx | .vxCvt => .vx | .vxCopy => .vx | .vxNeg => .vx | .vxAbs => .vx | .vxTrn => .vx
  | .vxRsum => .vx | .vxRmax => .vx | .vxRsumsq => .vx
  | .fxFwd => .fx | .fxBwi => .fx | .fxBwo => .fx
  | .stIn => .st | .stOut => .st | .stWch => .st | .stTil => .st
  | .lnArm => .ln | .lnSig => .ln | .lnWait => .ln | .lnWtc => .ln
  | .sqNop => .seq | .sqLi => .seq | .sqAlu => .seq | .sqLoop => .seq | .sqBr => .seq | .sqLdw => .seq
  | .sqStw => .seq | .sqEnd => .seq
  | .cfReg => .seq | .cfWin => .seq | .cfTask => .seq | .cfRng => .seq

/-- The operation of an instruction word; none for a class, operation or VX.U function not in the table (R104, R109). -/
def opOf (w : Nat) : Option Op :=
  let op := bits w 56 4
  match bits w 60 4 with
  | 1 => match op with
    | 1 => some .mxMm | 2 => some .mxCv | 3 => some .mxDr | 4 => some .mxFmt | _ => none
  | 2 => match op with
    | 1 => some .vxB
    | 2 => some .vxT
    | 3 => match bits w 50 6 with
      | 0 => some .vxCvt | 1 => some .vxCopy | 2 => some .vxNeg | 3 => some .vxAbs | 4 => some .vxTrn
      | 16 => some .vxRsum | 17 => some .vxRmax | 18 => some .vxRsumsq | _ => none
    | _ => none
  | 3 => match op with
    | 1 => some .fxFwd | 2 => some .fxBwi | 3 => some .fxBwo | _ => none
  | 4 => match op with
    | 1 => some .stIn | 2 => some .stOut | 3 => some .stWch | 4 => some .stTil | _ => none
  | 5 => match op with
    | 1 => some .lnArm | 2 => some .lnSig | 3 => some .lnWait | 4 => some .lnWtc | _ => none
  | 6 => match op with
    | 0 => some .sqNop | 1 => some .sqLi | 2 => some .sqAlu | 3 => some .sqLoop | 4 => some .sqBr
    | 5 => some .sqLdw | 6 => some .sqStw | 7 => some .sqEnd | _ => none
  | 7 => match op with
    | 1 => some .cfReg | 2 => some .cfWin | 3 => some .cfTask | 4 => some .cfRng | _ => none
  | _ => none

/-! ### MX fields (R105) and the array format (R106) -/

/-- M of MX.MM, MX.CV and MX.DR. -/
def mxM (w : Nat) : Nat := bits w 49 7 + 1
/-- K of MX.MM. -/
def mxK (w : Nat) : Nat := bits w 41 8 + 1
/-- S of MX.CV. -/
def mxS (w : Nat) : Nat := bits w 41 3 + 1
/-- Channel group of MX.CV (R69). -/
def mxCg (w : Nat) : Nat := 128 / mxS w
/-- N. -/
def mxN (w : Nat) : Nat := bits w 34 7 + 1
/-- Operand region. -/
def mxOpnd (w : Nat) : Nat := bits w 30 4
/-- Operand offset in 16-byte words. -/
def mxOff (w : Nat) : Nat := bits w 14 16
/-- First weight-buffer slot of the tile. -/
def mxTile (w : Nat) : Nat := bits w 9 5
/-- ORDER: the transposed copy is read. -/
def mxOrder (w : Nat) : Bool := bit w 8
/-- Accumulator half. -/
def mxHalf (w : Nat) : Nat := bits w 7 1
/-- INIT. -/
def mxInit (w : Nat) : Bool := bit w 6
/-- DRAIN as coded. -/
def mxDrain (w : Nat) : Bool := bit w 5
/-- REL. -/
def mxRel (w : Nat) : Bool := bit w 4
/-- Result region. -/
def mxRes (w : Nat) : Nat := bits w 0 4

/-- FMT_A of an MX.FMT word. -/
def afA (f : Nat) : Nat := bits f 52 4
/-- FMT_B. -/
def afB (f : Nat) : Nat := bits f 48 4
/-- FMT_R. -/
def afR (f : Nat) : Nat := bits f 44 4
/-- CMODE. -/
def afCmode (f : Nat) : Nat := bits f 42 2
/-- BLKDIM. -/
def afBlk (f : Nat) : Bool := bit f 41
/-- RSTREAM. -/
def afStream (f : Nat) : Nat := bits f 33 8
/-- SCALE_G. -/
def afScaleG (f : Nat) : Nat := bits f 29 4
/-- SCALE_OFF in 16-byte words. -/
def afScaleOff (f : Nat) : Nat := bits f 13 16

/-! ### VX and FX fields (R107, R109, R111) -/

/-- FUNCT, or FUNC of an FX instruction. -/
def vFunct (w : Nat) : Nat := bits w 50 6
/-- FMT of VX.B, VX.T and FX. -/
def vFmt (w : Nat) : Nat := bits w 48 2
/-- ROWS of VX.B, VX.T and FX. -/
def vRows (w : Nat) : Nat := bits w 41 7 + 1
/-- WIDTH of VX.B, VX.T and FX, in units of 64 elements. -/
def vWidth (w : Nat) : Nat := bits w 33 8 + 1
/-- Region of A (of X in FX). -/
def vA (w : Nat) : Nat := bits w 29 4
/-- Offset of A or X in KiB (VX.B, FX). -/
def vAOff (w : Nat) : Nat := bits w 21 8
/-- Region of B in VX.B, of G in FX. -/
def vB (w : Nat) : Nat := bits w 17 4
/-- Offset of B or G in KiB. -/
def vBOff (w : Nat) : Nat := bits w 9 8
/-- Scalar register of B in VX.B. -/
def vBS (w : Nat) : Nat := bits w 9 5
/-- BFORM of VX.B. -/
def vBForm (w : Nat) : Nat := bits w 7 2
/-- Result region of VX.B. -/
def vD (w : Nat) : Nat := bits w 3 4
/-- Region of B in VX.T. -/
def tB (w : Nat) : Nat := bits w 25 4
/-- Region of C in VX.T. -/
def tC (w : Nat) : Nat := bits w 21 4
/-- Result region of VX.T. -/
def tD (w : Nat) : Nat := bits w 17 4
/-- BFORM of VX.T. -/
def tBForm (w : Nat) : Nat := bits w 15 2
/-- CFORM of VX.T. -/
def tCForm (w : Nat) : Nat := bits w 13 2
/-- B_S of VX.T. -/
def tBS (w : Nat) : Nat := bits w 5 5
/-- C_S of VX.T. -/
def tCS (w : Nat) : Nat := bits w 0 5
/-- FMT_S of VX.U. -/
def uFmtS (w : Nat) : Nat := bits w 46 4
/-- ROWS of VX.U. -/
def uRows (w : Nat) : Nat := bits w 39 7 + 1
/-- WIDTH of VX.U. -/
def uWidth (w : Nat) : Nat := bits w 31 8 + 1
/-- Source region of VX.U. -/
def uA (w : Nat) : Nat := bits w 27 4
/-- Source offset of VX.U in KiB. -/
def uAOff (w : Nat) : Nat := bits w 19 8
/-- Destination region of VX.U. -/
def uD (w : Nat) : Nat := bits w 15 4
/-- A_REL of VX.U. -/
def uRel (w : Nat) : Bool := bit w 14
/-- FMT_R of VX.U. -/
def uFmtR (w : Nat) : Nat := bits w 10 4
/-- CMODE of VX.U. -/
def uCmode (w : Nat) : Nat := bits w 8 2
/-- RSTREAM of VX.U. -/
def uStream (w : Nat) : Nat := bits w 0 8
/-- Result region of FX. -/
def fxD (w : Nat) : Nat := bits w 5 4

/-- The format code of a 2-bit FMT field (R107, R111); 0b11 is refused at admission. -/
def fmt2 (w : Nat) : Nat := vFmt w

/-! ### ST, LN, SQ and CF fields (R112 to R118) -/

/-- Descriptor index. -/
def stDesc (w : Nat) : Nat := bits w 44 12
/-- REG_G of an ST instruction. -/
def stReg (w : Nat) : Nat := bits w 40 4
/-- ADDR_S. -/
def stAddrS (w : Nat) : Nat := bits w 35 5
/-- REL of ST.OUT and ST.TIL. -/
def stRel (w : Nat) : Bool := bit w 34
/-- Chunk size in bytes. -/
def stChunk (w : Nat) : Nat := (bits w 26 8 + 1) * 4096
/-- OFF of ST.TIL in KiB. -/
def tilOff (w : Nat) : Nat := bits w 44 12
/-- TILE of ST.TIL. -/
def tilTile (w : Nat) : Nat := bits w 35 5
/-- WIDE of ST.TIL. -/
def tilWide (w : Nat) : Bool := bit w 33
/-- Tile size of ST.TIL in bytes. -/
def tilBytes (w : Nat) : Nat := if tilWide w then 32768 else 16384
/-- Lantern number. -/
def lnLnt (w : Nat) : Nat := bits w 42 14
/-- VSRC. -/
def lnVsrc (w : Nat) : Bool := bit w 41
/-- VREG. -/
def lnVreg (w : Nat) : Nat := bits w 36 5
/-- A 32-bit immediate. -/
def imm32 (w : Nat) : Nat := bits w 0 32
/-- FUNCT or COND of an SQ instruction. -/
def sqFunct (w : Nat) : Nat := bits w 52 4
/-- DST, CNT_S, SA of SQ.BR, SRC of SQ.STW. -/
def sqR1 (w : Nat) : Nat := bits w 47 5
/-- SA of SQ.ALU, IDX_S, SB of SQ.BR. -/
def sqR2 (w : Nat) : Nat := bits w 42 5
/-- IMMF of SQ.ALU. -/
def sqImmf (w : Nat) : Bool := bit w 41
/-- SB of SQ.ALU. -/
def sqSb (w : Nat) : Nat := bits w 36 5
/-- BODY of SQ.LOOP. -/
def loopBody (w : Nat) : Nat := bits w 16 16
/-- COUNT of SQ.LOOP. -/
def loopCount (w : Nat) : Nat := bits w 0 16
/-- REG_G of SQ.LDW and SQ.STW. -/
def sqReg (w : Nat) : Nat := bits w 43 4
/-- G of CF.REG. -/
def cfG (w : Nat) : Nat := bits w 52 4
/-- BASE of CF.REG, in 4 KiB units. -/
def cfBase (w : Nat) : Nat := bits w 42 10
/-- SIZE_M1 of CF.REG. -/
def cfSizeM1 (w : Nat) : Nat := bits w 32 10
/-- PROD of CF.REG. -/
def cfProd (w : Nat) : Nat := bits w 27 5
/-- CONS of CF.REG. -/
def cfCons (w : Nat) : Nat := bits w 22 5
/-- W of CF.WIN, T of CF.TASK. -/
def cfW (w : Nat) : Nat := bits w 54 2
/-- BASE of CF.WIN. -/
def cfWBase (w : Nat) : Nat := bits w 44 10
/-- SIZE_M1 of CF.WIN. -/
def cfWSizeM1 (w : Nat) : Nat := bits w 34 10
/-- CODE of CF.WIN. -/
def cfWCode (w : Nat) : Nat := bits w 27 7
/-- PC of CF.TASK. -/
def cfPc (w : Nat) : Nat := bits w 38 16
/-- STEP_S of CF.RNG. -/
def rngStepS (w : Nat) : Nat := bits w 51 5
/-- MB_S of CF.RNG. -/
def rngMbS (w : Nat) : Nat := bits w 46 5
/-- LAYER of CF.RNG. -/
def rngLayer (w : Nat) : Nat := bits w 30 16

/-! ### Stream descriptors (R168, R169, R189) -/

/-- Word k of a descriptor. -/
def dWord (d : List Nat) (k : Nat) : Nat := d.getD k 0
/-- KIND. -/
def dKind (d : List Nat) : Nat := bits (dWord d 0) 60 4
/-- DIMS_M1. -/
def dDimsM1 (d : List Nat) : Nat := bits (dWord d 0) 57 3
/-- PF_DEPTH in KiB. -/
def dPf (d : List Nat) : Nat := bits (dWord d 0) 52 5
/-- DONE_EN. -/
def dDoneEn (d : List Nat) : Bool := bit (dWord d 0) 51
/-- DONE_LNT. -/
def dDoneLnt (d : List Nat) : Nat := bits (dWord d 0) 37 14
/-- CHUNK_EN. -/
def dChunkEn (d : List Nat) : Bool := bit (dWord d 0) 36
/-- CHUNK_LNT. -/
def dChunkLnt (d : List Nat) : Nat := bits (dWord d 0) 22 14
/-- BASE. -/
def dBase (d : List Nat) : Nat := dWord d 1
/-- Extent of dimension k. -/
def dExtent (d : List Nat) (k : Nat) : Nat := bits (dWord d (2 + k)) 32 32 + 1
/-- Signed stride of dimension k, in units of 16 B. -/
def dStride (d : List Nat) (k : Nat) : Int := sext 32 (bits (dWord d (2 + k)) 0 32)
/-- Sequence length L: the product of the extents (R170). -/
def dLen (d : List Nat) : Nat := ((upto (dDimsM1 d + 1)).map (dExtent d)).foldl (· * ·) 1
/-- FIRST of a weight-chain delivery. -/
def wchFirst (d : List Nat) : Nat := bits (dWord d 7) 58 6
/-- LAST. -/
def wchLast (d : List Nat) : Nat := bits (dWord d 7) 52 6
/-- DIST. -/
def wchDist (d : List Nat) : Bool := bit (dWord d 7) 51
/-- SLOT0. -/
def wchSlot0 (d : List Nat) : Nat := bits (dWord d 7) 46 5
/-- SLOT_STEP. -/
def wchStep (d : List Nat) : Nat := bits (dWord d 7) 41 5
/-- WIDE. -/
def wchWide (d : List Nat) : Bool := bit (dWord d 7) 40
/-- SCB: block-scale bytes following each tile. -/
def wchScb (d : List Nat) : Nat := match bits (dWord d 7) 38 2 with
  | 1 => 512
  | 2 => 1024
  | _ => 0
/-- TILE_EN. -/
def wchTileEn (d : List Nat) : Bool := bit (dWord d 7) 37
/-- TILE_LNT. -/
def wchTileLnt (d : List Nat) : Nat := bits (dWord d 7) 23 14
/-- Tile bytes of a delivery. -/
def wchTileBytes (d : List Nat) : Nat := if wchWide d then 32768 else 16384
/-- Record bytes of a delivery: the tile and its scales (R189). -/
def wchRecBytes (d : List Nat) : Nat := wchTileBytes d + wchScb d
/-- The slot of tile t of a delivery (R189). -/
def wchSlot (d : List Nat) (t : Nat) : Nat :=
  let n := wchLast d - wchFirst d + 1
  (wchSlot0 d + (if wchDist d then t / n else t) * wchStep d) % 32
/-- The slots of a tile of a delivery. -/
def wchSlots (d : List Nat) (t : Nat) : List Nat :=
  let i := wchSlot d t
  if wchWide d then [i, i + 1] else [i]

/-- The index tuple of sequence offset q, i0 first (R170). -/
def seqIndex (d : List Nat) (q : Nat) : List Nat :=
  let rec go : Nat → Nat → Nat → List Nat
    | 0, _, _ => []
    | n + 1, k, r => r % dExtent d k :: go n (k + 1) (r / dExtent d k)
  go (dDimsM1 d + 1) 0 q

/-- The byte address of sequence offset q (R170), 64-bit wrapping; for a gather the row index is given. -/
def seqAddr (d : List Nat) (addrS q rowIndex : Nat) : Nat :=
  let i := seqIndex d q
  let a : Int := dBase d + addrS * 4096 + i.getD 0 0
  let s : Int :=
    if dKind d = 4 then (rowIndex : Int) * dStride d 1 * 16
    else ((upto (dDimsM1 d)).map (fun k => dStride d (k + 1) * 16 * ((i.getD (k + 1) 0 : Nat) : Int))).foldl (· + ·) 0
  field 64 (a + s)

/-! ### Footprints -/

/-- Bytes rounded up to 16-byte words (R153). -/
def wordsOf (bytes : Nat) : Nat := cdiv bytes 16

/-- Bytes of `n` elements of a format (R38). -/
def elemBytes (code n : Nat) : Nat := cdiv (n * codeBits code) 8

/-- One operand an instruction reads from a region: offset from the head and footprint in bytes, and whether its head
is released past them. -/
structure RUse where
  g : Nat
  off : Nat
  len : Nat
  rel : Bool
  deriving DecidableEq, Repr

/-- Offset plus footprint in whole words: the read requirement and the release (R77, R121, R153). -/
def useWords (u : RUse) : Nat := wordsOf (u.off + u.len)

/-- Operand footprint of an array pass in bytes (R72). -/
def opndBytes (op : Op) (w fmt : Nat) : Nat :=
  match op with
  | .mxMm => elemBytes (afA fmt) (mxM w * mxK w)
  | .mxCv => elemBytes (afA fmt) ((mxM w + mxS w - 1) * mxCg w)
  | _ => 0

/-- Scale footprint of an array pass in bytes (R72). -/
def mxScaleBytes (op : Op) (w fmt : Nat) : Nat :=
  if isMx (afA fmt) then
    match op with
    | .mxMm => mxM w * cdiv (mxK w) 32
    | .mxCv => (mxM w + mxS w - 1) * cdiv (mxCg w) 32
    | _ => 0
  else 0

/-- Whether an array instruction drains (R71). -/
def drains (op : Op) (w : Nat) : Bool := op == .mxDr || mxDrain w

/-- Elements of a drain's element array (R72). -/
def drainElems (w fmt : Nat) : Nat :=
  if isMx (afR fmt) && !afBlk fmt then mxM w * (32 * cdiv (mxN w) 32) else mxM w * mxN w

/-- Scale bytes of a drain (R72). -/
def drainScales (w fmt : Nat) : Nat :=
  if isMx (afR fmt) then (if afBlk fmt then mxM w / 32 * mxN w else mxM w * cdiv (mxN w) 32) else 0

/-- Result footprint of a draining array instruction in bytes (R72). -/
def resultBytes (w fmt : Nat) : Nat := elemBytes (afR fmt) (drainElems w fmt) + drainScales w fmt

/-- Footprint of operand B or C by its form, in bytes (R108). -/
def formBytes (form rows width code : Nat) : Nat :=
  match form with
  | 0 => elemBytes code (rows * width * 64)
  | 1 => rows * 4
  | 2 => width * 64 * 4
  | _ => 0

/-- The operands an instruction reads from regions (R72, R77, R108, R109, R111, R113). Streams are read in chunks and
have their own entry. -/
def readsOf (op : Op) (w fmt : Nat) : List RUse :=
  match op with
  | .mxMm | .mxCv =>
    { g := mxOpnd w, off := mxOff w * 16, len := opndBytes op w fmt, rel := mxRel w } ::
      (if isMx (afA fmt) then
        [{ g := afScaleG fmt, off := afScaleOff fmt * 16, len := mxScaleBytes op w fmt, rel := mxRel w }] else [])
  | .vxB =>
    { g := vA w, off := vAOff w * 1024, len := elemBytes (fmt2 w) (vRows w * vWidth w * 64), rel := bit w 2 } ::
      (if vBForm w = 3 then []
       else [{ g := vB w, off := vBOff w * 1024, len := formBytes (vBForm w) (vRows w) (vWidth w) (fmt2 w), rel := bit w 1 }])
  | .vxT =>
    { g := vA w, off := 0, len := elemBytes (fmt2 w) (vRows w * vWidth w * 64), rel := bit w 12 } ::
      ((if tBForm w = 3 then []
        else [{ g := tB w, off := 0, len := formBytes (tBForm w) (vRows w) (vWidth w) (fmt2 w), rel := bit w 11 }]) ++
       (if tCForm w = 3 then []
        else [{ g := tC w, off := 0, len := formBytes (tCForm w) (vRows w) (vWidth w) (fmt2 w), rel := bit w 10 }]))
  | .vxCvt =>
    { g := uA w, off := uAOff w * 1024, len := elemBytes (uFmtS w) (uRows w * uWidth w * 64), rel := uRel w } ::
      (if isMx (uFmtS w) then
        [{ g := afScaleG fmt, off := afScaleOff fmt * 16, len := uRows w * uWidth w * 2, rel := uRel w }] else [])
  | .vxCopy | .vxNeg | .vxAbs | .vxTrn | .vxRsum | .vxRmax | .vxRsumsq =>
    [{ g := uA w, off := uAOff w * 1024, len := elemBytes (uFmtS w) (uRows w * uWidth w * 64), rel := uRel w }]
  | .fxFwd | .fxBwo | .fxBwi =>
    { g := vA w, off := vAOff w * 1024, len := elemBytes (fmt2 w) (vRows w * vWidth w * 64), rel := bit w 4 } ::
      (if op = .fxFwd then []
       else [{ g := vB w, off := vBOff w * 1024, len := elemBytes (fmt2 w) (vRows w * vWidth w * 64), rel := bit w 3 }])
  | .stTil => [{ g := stReg w, off := tilOff w * 1024, len := tilBytes w, rel := stRel w }]
  | _ => []

/-- The regions an instruction writes, with the bytes it reserves there (R75, R108, R109). -/
def writesOf (op : Op) (w fmt : Nat) : List (Nat × Nat) :=
  match op with
  | .mxMm | .mxCv | .mxDr => if drains op w then [(mxRes w, resultBytes w fmt)] else []
  | .vxB => [(vD w, elemBytes (fmt2 w) (vRows w * vWidth w * 64))]
  | .vxT => [(tD w, elemBytes (fmt2 w) (vRows w * vWidth w * 64))]
  | .vxCvt =>
    (uD w, elemBytes (uFmtR w) (uRows w * uWidth w * 64)) ::
      (if isMx (uFmtR w) then [(afScaleG fmt, uRows w * uWidth w * 2)] else [])
  | .vxCopy | .vxNeg | .vxAbs | .vxTrn => [(uD w, elemBytes (uFmtR w) (uRows w * uWidth w * 64))]
  | .vxRsum | .vxRmax | .vxRsumsq => [(uD w, uRows w * 4)]
  | .fxFwd | .fxBwo | .fxBwi => [(fxD w, elemBytes (fmt2 w) (vRows w * vWidth w * 64))]
  | _ => []

/-- The scalar registers an instruction reads (R97, R98). -/
def scalarsOf (op : Op) (w : Nat) : List Nat :=
  match op with
  | .vxB => if vBForm w = 3 then [vBS w] else []
  | .vxT => (if tBForm w = 3 then [tBS w] else []) ++ (if tCForm w = 3 then [tCS w] else [])
  | .stIn | .stOut | .stWch => [stAddrS w]
  | .lnArm | .lnSig | .lnWait | .lnWtc => if lnVsrc w then [lnVreg w] else []
  | .sqAlu => sqR2 w :: (if sqImmf w then [] else [sqSb w])
  | .sqLoop => [sqR1 w]
  | .sqBr => [sqR1 w, sqR2 w]
  | .sqStw => [sqR1 w]
  | .cfRng => [rngStepS w, rngMbS w]
  | _ => []

/-- The region descriptors an instruction reads or writes through, the array format's scale region included (R152). -/
def regionsOf (op : Op) (w fmt : Nat) : List Nat :=
  (readsOf op w fmt).map RUse.g ++ (writesOf op w fmt).map Prod.fst ++
    (match op with
     | .stIn | .stOut => [stReg w]
     | .sqLdw | .sqStw => [sqReg w]
     | _ => [])

/-- The region descriptors that an instruction names in any field, used or not (R119): RES_G of a pass that does not drain as well. -/
def namedRegions (op : Op) (w fmt : Nat) : List Nat :=
  regionsOf op w fmt ++ (match op with
    | .mxMm | .mxCv => [mxRes w]
    | .mxFmt => [afScaleG w]
    | _ => [])

/-- Elements an instruction converts stochastically (R81, R120): none unless its mode is stochastic. -/
def stoElems (op : Op) (w fmt : Nat) : Nat :=
  match op with
  | .mxMm | .mxCv | .mxDr => if drains op w && decide (afCmode fmt ≥ 2) then mxM w * mxN w else 0
  | .vxCvt => if uCmode w ≥ 2 then uRows w * uWidth w * 64 else 0
  | _ => 0

end Sys2Proof.Machine
end

