-- ==== Sys2Proof/Machine/StCore.lean ====
section
/-! DEFINITION. Sys2Proof/Machine/StCore.lean: the state of one core: tasks, regions, engine queues, streams, weight
buffer, array, scratchpad and counters (chapters 03 to 07). -/

namespace Sys2Proof.Machine

/-- One reservation of a region, oldest first (R153, R154): its owner's sequence number, the words still reserved, and
the words already written from its start that wait for older reservations. -/
structure Resv where
  seq   : Nat
  words : Nat
  ready : Nat
  deriving DecidableEq, Repr

/-- One dispatched reader of a region in dispatch order (R100): the words it will release in all, the words released
and not yet applied to the head, and whether it has finished reading. -/
structure Reader where
  seq  : Nat
  rel  : Nat
  got  : Nat
  fin  : Bool
  deriving DecidableEq, Repr

/-- A region descriptor (R103, R153, R156); head, tail, occupancy and reserved count in 16-byte words. -/
structure Region where
  valid   : Bool := false
  prod    : Nat := 0
  cons    : Nat := 0
  sizeM1  : Nat := 0
  base    : Nat := 0
  head    : Nat := 0
  tail    : Nat := 0
  occ     : Nat := 0
  rsv     : Nat := 0
  resv    : List Resv := []
  readers : List Reader := []
  writers : List Nat := []
  deriving DecidableEq, Repr

/-- A hardware loop (R117): first and last instruction of the body, total count, index of the present iteration, and
the index register. -/
structure Loop where
  first : Nat
  last  : Nat
  count : Nat
  iter  : Nat
  idx   : Nat
  deriving DecidableEq, Repr

/-- Why a task is held (R97, R101, R119): at a lantern wait (released once a change has left the lantern reached, R200), at a
consume (granted or not), under a CF hold, or for a full queue. -/
inductive Hold where
  | none
  | wait (lnt v : Nat) (released : Bool)
  | consume (lnt v : Nat) (granted : Bool)
  | cf
  | queue
  deriving DecidableEq, Repr

/-- A random coordinate: step, micro-batch and layer (R119, R120, R269). -/
structure RngAt where
  step  : Nat := 0
  mb    : Nat := 0
  layer : Nat := 0
  deriving DecidableEq, Repr

/-- One task of a core (R95, R102, R106, R117, R120). `fmtAt` is the last MX.FMT dispatched and `fmt` the last that
reached the queue head. -/
structure Task where
  run     : Bool := false
  ended   : Bool := false
  pc      : Nat := 0
  regs    : Tbl Nat := []
  fmtAt   : Option Nat := none
  fmt     : Option Nat := none
  cursor  : Nat := 0
  rng     : RngAt := {}
  loops   : List Loop := []
  hold    : Hold := .none
  regions : Tbl Region := []
  idleNs  : Nat := 0
  deriving DecidableEq, Repr

/-- A dispatched engine instruction with what it captured at dispatch (R98, R106, R120). -/
structure QInstr where
  seq  : Nat
  task : Nat
  word : Nat
  fmt  : Nat
  s1   : Nat
  s2   : Nat
  base : Nat
  rng  : RngAt
  deriving DecidableEq, Repr

/-- A task window (R151, R156), in units of 4 KiB. -/
structure Win where
  valid  : Bool := false
  base   : Nat := 0
  sizeM1 : Nat := 0
  code   : Nat := 0
  deriving DecidableEq, Repr

/-- One entry of a stream engine's translation cache (R179): the space (true for host), the first address and size of
the page, its frame or host bus address, and write permission. -/
structure TEntry where
  host : Bool
  va   : Nat
  size : Nat
  tgt  : Nat
  w    : Bool
  deriving DecidableEq, Repr

/-- A stream slot (R172 to R182, R189 to R193). Offsets are sequence offsets in bytes.
`stopped` marks a stream that a stop ended, which SCP_STR_STAT still shows as active (R181). `begun` is the end of the begun chunks,
`issued` the offset of the next request, `acked` the bytes of a channel acknowledged: to its ST.OUT, or by its ST.IN; `run` the end of the unbroken written
run, `wrote` the 16 B pieces written beyond it, `vis` the end of the visible bytes, `pf` the prefetched pieces by
offset, up to offset `pfAt`, `fly` the pieces requested and not returned with their physical addresses, `stale` those of them whose
granule was written since (R234), `idxLow` the first bytes of an index word that a 64 B request ends in, `walkVa` the address being
walked, `va` and `host` the address of the last page fault. For a weight-chain delivery `issued` counts record bytes
read into the landing buffer and `run` the bytes injected. -/
structure Slot where
  active  : Bool := false
  stopped : Bool := false
  seq     : Nat := 0
  task    : Nat := 0
  word    : Nat := 0
  op      : Op := .stIn
  desc    : List Nat := []
  descNo  : Nat := 0
  addrS   : Nat := 0
  begun   : Nat := 0
  issued  : Nat := 0
  acked   : Nat := 0
  run     : Nat := 0
  wrote   : List Nat := []
  vis     : Nat := 0
  pfAt    : Nat := 0
  pf      : Tbl Bytes := []
  fly     : Tbl Nat := []
  stale   : List Nat := []
  rows    : Tbl Nat := []
  idxLow  : Tbl Nat := []
  chain   : Bytes := []
  walking : Bool := false
  walkVa  : Nat := 0
  halted  : Bool := false
  cause   : Nat := 0
  host    : Bool := false
  dirW    : Bool := false
  va      : Nat := 0
  front   : List Nat := []
  deriving DecidableEq, Repr

/-- One half of the accumulator buffer: arithmetic mode and the 32-bit values written, by 128 × token + column (R79). -/
structure AccHalf where
  int   : Bool := false
  cells : Tbl Nat := []
  deriving DecidableEq, Repr

/-- The tile held in the shadow registers for the head array instruction (R74): its instruction, bytes and scales. -/
structure Shadow where
  seq    : Nat
  tile   : Mem
  scales : Mem
  deriving DecidableEq, Repr

/-- A function table as loaded: the header fields of R128 and the entries as coefficient triples. -/
structure FnTable where
  l    : Nat := 0
  emin : Int := 0
  emax : Int := 0
  lowA : Nat := 0
  lowB : Nat := 0
  hipA : Nat := 0
  hipB : Nat := 0
  hinA : Nat := 0
  hinB : Nat := 0
  ents : List (Nat × Nat × Nat) := []
  deriving DecidableEq, Repr

/-- The command that runs on a core: owning context (64 × partition + context), command, logical core, logical bed and
position, parameters and flush value at its start (R54, R96, R102). -/
structure CoreCmd where
  key    : Nat
  cmd    : Nat
  lcore  : Nat
  lbed   : Nat
  params : List Nat
  flush  : Bool
  deriving DecidableEq, Repr

/-- The two-order weight buffer of a core (R138, R139, R142): bytes of both orders and block scales, valid bits by slot,
and the slot and order pairs (2 × slot + order) with bad parity. -/
structure WBuf where
  stored : Mem := []
  trans  : Mem := []
  scales : Mem := []
  validS : Nat := 0
  validT : Nat := 0
  bad    : List Nat := []
  deriving DecidableEq, Repr

/-- Five issue queues (R97). -/
structure Queues where
  mx : List QInstr := []
  vx : List QInstr := []
  fx : List QInstr := []
  st : List QInstr := []
  ln : List QInstr := []
  deriving DecidableEq, Repr

/-- Function tables of a core (R133, R134): valid bits, contents by 2 × FUNC + DERIV, tables with bad parity. -/
structure FxState where
  fwd  : Nat := 0
  drv  : Nat := 0
  tabs : Tbl FnTable := []
  bad  : List Nat := []
  perr : Nat := 0
  deriving DecidableEq, Repr

/-- Repair state of a core's array (R84); no line is fused out before Daybreak has loaded the fuses (DESIGN CHOICE, log 9). -/
structure MxRepair where
  rowA        : Nat := 255
  rowB        : Nat := 255
  colA        : Nat := 255
  colB        : Nat := 255
  bistDone    : Bool := false
  bistFail    : Bool := false
  ovlApplied  : Bool := false
  ovlRejected : Bool := false
  deriving DecidableEq, Repr

/-- Scratchpad counters and records (R164, R167), and the per-core counters of R124, R185 and R430. -/
structure CoreCnt where
  perr    : Nat := 0
  collide : Nat := 0
  rpValid : Bool := false
  rpWord  : Nat := 0
  seqHold : Nat := 0
  pfRead  : Nat := 0
  pfWaste : Nat := 0
  stall   : Tbl Nat := []
  busy    : Tbl Nat := []
  deriving DecidableEq, Repr

/-- One core. `last` is the context opening and status of the previous command (R158); `badPar` lists the 32-bit
quarters, by address / 4, whose parity is bad (R160). `lnOut` lists the LN.SIG and LN.ARM that a mirror has taken and the home
has not yet applied: sequence number, task, lantern number, and whether it is an arm (R204, R207). -/
structure Core where
  cmd      : Option CoreCmd := none
  nextSeq  : Nat := 0
  lastTask : Nat := 0
  tasks    : Tbl Task := []
  q        : Queues := {}
  wins     : Tbl Win := []
  scratch  : Mem := []
  badPar   : List Nat := []
  descs    : List (List Nat) := []
  slots    : Tbl Slot := []
  tcache   : List TEntry := []
  acc0     : AccHalf := {}
  acc1     : AccHalf := {}
  shadow   : Option Shadow := none
  wbuf     : WBuf := {}
  fx       : FxState := {}
  flags    : FlagSet := {}
  formula  : Bool := false
  repair   : MxRepair := {}
  cnt      : CoreCnt := {}
  last     : Option (Nat × Nat) := none
  lnOut    : List (Nat × Nat × Nat × Bool) := []
  deriving DecidableEq, Repr

end Sys2Proof.Machine
end

