-- ==== Sys2Proof/Machine/StHost.lean ====
section
/-! DEFINITION. Sys2Proof/Machine/StHost.lean: the state of lanterns, stack memory and translation, contexts and
queues, the Belvedere and the check units (chapters 08, 09, 14 and 17). -/

namespace Sys2Proof.Machine

/-! ### Lanterns (R195 to R214) -/

/-- A consume request waiting at a lantern's home: core, task and amount (R201). -/
structure Waiter where
  core : Nat
  task : Nat
  v    : Nat
  deriving DecidableEq, Repr

/-- A lantern entry (R195, R202, R214). `num` is its partition lantern number, `homeL` and `homeP` the logical and
physical home; `queue` holds at most 64 consume requests and `held` those waiting outside it (R201); `unsent` is the
delta not yet sent towards the root and `due` whether a COUNT is unsent to the children (R208). -/
structure Lantern where
  alloc   : Bool := false
  reached : Bool := false
  scope   : Nat := 0
  subStk  : Bool := false
  subUpd  : Bool := false
  subHost : Bool := false
  hostSig : Bool := false
  root    : Bool := false
  part    : Nat := 0
  ctx     : Nat := 0
  num     : Nat := 0
  armGen  : Nat := 0
  homeL   : Nat := 0
  homeP   : Nat := 0
  count   : Nat := 0
  target  : Nat := 0
  mask    : Nat := 0
  queue   : List Waiter := []
  held    : List Waiter := []
  unsent  : Nat := 0
  due     : Bool := false
  deriving DecidableEq, Repr

/-- LNT_FAULT, LNT_XDROP and LNT_STALE (R214). -/
structure LntRegs where
  fltValid : Bool := false
  fltWord  : Nat := 0
  xdrop    : Nat := 0
  stale    : Nat := 0
  deriving DecidableEq, Repr

/-! ### Stack memory (R216 to R243) -/

/-- An entry of a gather sorter (R236, R238 to R240): partition, granule SPA / 256, its requesters (core, 8 × stream sequence
number + slot, sequence offset or 2^60 + index number), whether it is promoted and whether it occupies an outstanding slot. -/
structure SortEnt where
  part     : Nat
  granule  : Nat
  reqs     : List (Nat × Nat × Nat)
  promoted : Bool
  out      : Bool
  deriving DecidableEq, Repr

/-- One stack controller (R29, R216, R241, R243): counters, the record of the first poisoned codeword, its committed
step by partition slot, its gather sorter, the rotating bank pointer and the open DRAM page of each bank. -/
structure StackCtl where
  ce        : Nat := 0
  ue        : Nat := 0
  lastValid : Bool := false
  lastSpa   : Nat := 0
  scrub     : Nat := 0
  merge     : Nat := 0
  promote   : Nat := 0
  hot       : Nat := 0
  committed : Tbl Nat := []
  sorter    : List SortEnt := []
  bankPtr   : Nat := 0
  openPg    : Tbl Nat := []
  deriving DecidableEq, Repr

/-- The stacks' contents in stack-physical order: bytes written since their owner's key was loaded, poisoned codewords
(SPA / 64), and latent damage not yet read, correctable and uncorrectable (R224 to R226, R230). -/
structure StackMem where
  bytes    : Tbl Byte := []
  poisoned : List Nat := []
  damaged  : List Nat := []
  soft     : List Nat := []
  deriving DecidableEq, Repr

/-- Translation state of a partition (R219 to R223, R242): entries by first address of each space, the map registers,
the UNMAP in progress (space, address, size), walks in progress, and the stack cache: tags by die and set, most recently
used first, with lines whose parity is bad (R232 to R235). -/
structure Xlate where
  stack  : Tbl Nat := []
  host   : Tbl Nat := []
  mapVa  : Nat := 0
  mapEnt : Nat := 0
  busy   : Bool := false
  result : Nat := 0
  unmap  : Option (Bool × Nat × Nat) := none
  chit   : Nat := 0
  cmiss  : Nat := 0
  cperr  : Nat := 0
  cache  : Tbl (List Nat) := []
  badLn  : List Nat := []
  walks  : List (Nat × Nat) := []
  deriving DecidableEq, Repr

/-! ### Contexts and queues (R352 to R373) -/

/-- A partition entry of a layout (R352); `rsv` holds bits that must be zero. -/
structure LayoutEntry where
  used       : Bool := false
  cached     : Bool := false
  maxCtxM1   : Nat := 0
  port       : Nat := 0
  beds       : Nat := 0
  vfCount    : Nat := 0
  vfFirstM1  : Nat := 0
  firstFrame : Nat := 0
  frameCount : Nat := 0
  tsQuota    : Nat := 0
  rsv        : Nat := 0
  deriving DecidableEq, Repr

/-- A layout: number, weight-chain split, 16 entries by slot (R352). -/
structure Layout where
  number  : Nat := 0
  split   : Nat := 0
  rsv     : Nat := 0
  entries : List LayoutEntry := []
  deriving DecidableEq, Repr

/-- A fetched descriptor (R359). -/
structure Desc where
  opcode : Nat := 0
  irq    : Bool := false
  fence  : Bool := false
  cmdId  : Nat := 0
  arg0   : Nat := 0
  arg1   : Nat := 0
  params : List Nat := []
  arg2   : Nat := 0
  energy : Nat := 0
  deriving DecidableEq, Repr

/-- How far an unfinished command has come towards its issue (R366, R407): waiting, waiting for energy credit,
granted, issued. -/
inductive CmdPhase where
  | waiting | asking | granted | issued
  deriving DecidableEq, Repr

/-- A fetched command that has not completed (R360, R364). `id` counts fetches of its context. `haltNs` and `runNs`
count halted and running time (R182, R368), `waitUs` and `bypass` its wait for credit (R410); flags and formula-mode
indication accumulate for its record (R53, R136); `fetchNo` numbers the fetches of its partition, or of the
management queues, and `subNo` the doorbell write that submitted it among those of its partition (R364, R447). -/
structure Cmd where
  id      : Nat := 0
  desc    : Desc := {}
  phase   : CmdPhase := .waiting
  due     : Bool := false
  waitUs  : Nat := 0
  bypass  : Nat := 0
  haltNs  : Nat := 0
  runNs   : Nat := 0
  flags   : FlagSet := {}
  formula : Bool := false
  fetchNo : Nat := 0
  subNo   : Nat := 0
  deriving DecidableEq, Repr

/-- The queue block of a context or of a management queue (R357, R358, R360, R373). `sub` is the submitted index (QF1)
or cumulative count (QF2), `pos` the next QF1 slot, `lastDesc` the address of the last QF2 descriptor fetched, `subs` the descriptors submitted
and not fetched, as runs of a length under the number of the doorbell write that submitted them (R364). -/
structure Queue where
  sqBase   : Nat := 0
  sqFmt    : Nat := 0
  sqLog2   : Nat := 0
  sub      : Nat := 0
  pos      : Nat := 0
  fetch    : Nat := 0
  lastDesc : Nat := 0
  cqBase   : Nat := 0
  cqVec    : Nat := 0
  cqLog2   : Nat := 0
  head     : Nat := 0
  tail     : Nat := 0
  phase    : Bool := true
  subs     : List (Nat × Nat) := []
  cmds     : List Cmd := []
  deriving DecidableEq, Repr

/-- Context states (R355). -/
inductive CtxState where
  | closed | open | stopped | tearingDown | faulted
  deriving DecidableEq, Repr

/-- A teardown in progress (R356): the status its commands take, whether it ends in FAULTED, and whether a reset ends the
context without records (R351). -/
structure Teardown where
  status : Nat
  fault  : Bool
  reset  : Bool := false
  deriving DecidableEq, Repr

/-- Position of a STAGE or PROBE (R283 to R289, R341): step, entry, block position, whether it is a PROBE, whether it
runs, idle time, how far its next pass command has come towards its issue, a PROBE's expected record, and the step and
entry of the last STAGE while a PROBE has taken their place (R289). -/
structure StageState where
  step    : Nat := 0
  entry   : Nat := 0
  blk     : Nat := 0
  probe   : Bool := false
  run     : Bool := false
  idleNs  : Nat := 0
  ask     : CmdPhase := .waiting
  expect  : Option Bytes := none
  lastStep  : Nat := 0
  lastEntry : Nat := 0
  deriving DecidableEq, Repr

end Sys2Proof.Machine
end

