-- ==== Sys2Proof/Machine/StHub.lean ====
section
/-! DEFINITION. Sys2Proof/Machine/StHub.lean: the Belvedere and the check units (chapter 17). -/

namespace Sys2Proof.Machine

/-- A reported event before the Belvedere has taken it (R419, R420, R423). -/
structure Evt where
  code   : Nat
  sev    : Nat
  unit   : Nat
  part   : Nat
  ctx    : Nat
  detail : Nat
  deriving DecidableEq, Repr

/-- BLV_CTL of one port (R431). -/
structure BlvCtl where
  irqEn  : Bool := false
  minSev : Nat := 1
  vector : Nat := 0
  deriving DecidableEq, Repr

/-- The Belvedere (R418 to R431): fault word, history entries and their latches, counters, last FATAL entry (backup
domain), control registers by port, events buffered by line, and the ALIVE pin. Marks of errors that a block finds in itself:
`coreDead` core-fatal errors by core and unit code, `hubMem` uncorrectable errors of hub memories by their code, `clockLost` clock losses
by die, 0xFF the hub (R423; log 49). -/
structure Belvedere where
  fault     : Nat := 0
  hist      : Tbl Nat := []
  head      : Nat := 0
  latch     : Tbl Nat := []
  events    : Nat := 0
  drop      : Nat := 0
  lastFatal : Nat := 0
  fatal     : Bool := false
  ctl       : Tbl BlvCtl := []
  bufs      : Tbl (List Evt) := []
  alive     : Bool := false
  aliveRun  : Bool := false
  upStall   : Tbl Nat := []
  upBusy    : Tbl Nat := []
  trStall   : Tbl Nat := []
  trBusy    : Tbl Nat := []
  coreDead  : List (Nat × Nat) := []
  hubMem    : List Nat := []
  clockLost : List Nat := []
  deriving DecidableEq, Repr

/-- A check unit (R432 to R437). `crc` is the CRC register of the open record, `rcv` the received ALIVE, `set` the error
bits the open record has set, `queue` the feed queue. -/
structure ChkUnit where
  toPart   : Bool := false
  port     : Nat := 0
  part     : Nat := 0
  alvIn    : Bool := false
  irqEn    : Bool := false
  vector   : Nat := 0
  alg      : Nat := 0
  isOpen   : Bool := false
  base     : Bool := false
  last     : Nat := 0
  errs6    : Nat := 0
  exp      : Nat := 0
  res      : Nat := 0
  recs     : Nat := 0
  errCnt   : Nat := 0
  queue    : List Bytes := []
  crc      : Nat := 0
  rcv      : Nat := 0
  setBits  : Nat := 0
  deriving DecidableEq, Repr

end Sys2Proof.Machine
end

