-- ==== Sys2Proof/Machine/StJob.lean ====
section
/-! DEFINITION. Sys2Proof/Machine/StJob.lean: the state of update engines, Trellis ports, jobs, collectives and
protection (chapters 10, 12 and 13). -/

namespace Sys2Proof.Machine

/-- One hyperparameter set of a step parameter block, FP32 bit patterns (R248). -/
structure HSet where
  lr   : Nat := 0
  b1   : Nat := 0
  omb1 : Nat := 0
  b2   : Nat := 0
  omb2 : Nat := 0
  eps  : Nat := 0
  wd   : Nat := 0
  bc1  : Nat := 0
  deriving DecidableEq, Repr

/-- A step parameter block (R248). -/
structure StepBlock where
  step      : Nat := 0
  expect    : Nat := 0
  minCount  : Nat := 0
  clip      : Nat := 0
  timeout   : Nat := 0
  normLnt   : Nat := 0
  commitLnt : Nat := 0
  sets      : List HSet := []
  deriving DecidableEq, Repr

/-- Phases of an update (R249, R272). -/
inductive UpdPhase where
  | idle | landing | norm | sweep | acks
  deriving DecidableEq, Repr

/-- Per engine and partition state of an update (R253, R264 to R266): norm accumulator as an exact integer multiple of
2^-320, its non-finite mark, next record of the sweep in plan order (segment, record), whether the sweep has ended,
lost records (segment, record), those the list had no room for (`lostMore`), deltas not yet acknowledged, and whether the
commit lantern was signalled. -/
structure UpdEng where
  acc      : Int := 0
  nonfin   : Bool := false
  seg      : Nat := 0
  nxt      : Nat := 0
  ended    : Bool := false
  lost     : List (Nat × Nat) := []
  lostMore : List (Nat × Nat) := []
  ovf      : Bool := false
  unacked  : List (Nat × Nat × Nat) := []
  signaled : Bool := false
  deriving DecidableEq, Repr

/-- A landing write of the next step that is held: block key, count, bytes, and the collective and block that it completes
(R250, R317). -/
structure Held where
  key  : Nat
  cnt  : Nat
  data : Bytes
  src  : Option (Nat × Nat) := none
  deriving DecidableEq, Repr

/-- The update state of a partition (R248 to R273). `eng` by engine number; `counts` holds the contributor count of each
landed block by die × 2^20 + landing block; `held` the landing writes of the next step that wait;
`xlat` the held translations (virtual page, entry); `pend` the update-pending 2 MiB pages; `resume` marks an
UPDATE_RESUME; `rows`, `cols` and `rbar` hold the new statistics of factored segments; `readBlk` the blocks the sweep has
read, `next` the counts of the next step's blocks; `deltas` the records done and the XOR bytes of units under way;
`pass` the PASS of its deltas; `halt` marks a JOB_HALT; `normSent` and `normSeen` the norm lantern; `ask` its request for
credit; `gen` the arm generations last signalled by lantern number; `serve` the command that makes the engines roll a step
forward without an UPDATE, `early` the flags that blocks landed before their command raised (R53); `hidePhase` and `hideLanded`
are the phase and the landed blocks that UPD_PT_STAT has been reset over, and `hideNorm` marks that UPD_PT_NORMSQ and UPD_PT_CLIP
have been (R272). -/
structure UpdPart where
  cmd     : Option (Nat × Nat) := none
  resume  : Bool := false
  phase   : UpdPhase := .idle
  blk     : StepBlock := {}
  eng     : Tbl UpdEng := []
  counts  : Tbl Nat := []
  held    : List Held := []
  xlat    : Tbl Nat := []
  pend    : List Nat := []
  rows    : Tbl Nat := []
  cols    : Tbl Nat := []
  rbar    : Tbl Nat := []
  readBlk : List Nat := []
  next    : Tbl Nat := []
  deltas  : Tbl (Nat × Bytes) := []
  pass    : Nat := 0
  halt    : Bool := false
  normSent : Bool := false
  sSum    : Nat := 0
  clip    : Nat := 0x3F800000
  commit  : Nat := 0
  short   : Nat := 0
  lostN   : Nat := 0
  ovf     : Bool := false
  rngDisc : Nat := 0
  gen     : Tbl Nat := []
  waited  : Nat := 0
  normSeen : Bool := false
  ask      : CmdPhase := .waiting
  serve    : Option (Nat × Nat) := none
  early    : FlagSet := noFlags
  hidePhase  : UpdPhase := .idle
  hideNorm   : Bool := false
  hideLanded : Nat := 0
  deriving DecidableEq, Repr

/-- Registers of an update engine (R273). -/
structure UpdRegs where
  part   : Nat := 0
  lost   : Tbl Nat := []
  recs   : Nat := 0
  crcErr : Nat := 0
  poison : Nat := 0
  delta  : Nat := 0
  dhold  : Nat := 0
  lostRec : Tbl Nat := []
  deriving DecidableEq, Repr

/-! ### Trellis (R291 to R320) -/

/-- A packet, or the rest of one, that a module has to send on (R295 to R297): its units, whether it is a data packet, whether
it came on the high VC, the direction of travel in which it came (15 at its source), the sum that names its flow, its
destination, ROUTE and job tag, and the VC it leaves on. -/
structure Outgoing where
  units : Nat
  data  : Bool
  high  : Bool := false
  arr   : Nat := 15
  flow  : Nat
  dest  : Nat
  route : Nat
  job   : Nat
  vc    : Nat := 0
  deriving DecidableEq, Repr

/-- A Trellis port (R292, R297 to R300, R319). `retry` holds the numbered units sent and not acknowledged, `sent` the
next SEQ, `acked` the last ACK received, `expect` the next SEQ accepted; `freed` counts flits freed here by VC, `cred`
flits known freed by the neighbour, by VC, `out` flits sent by VC; `busyPs` is the time of the numbered units sent, in ps (R429);
`sendq` the packets with units that wait to be sent; `fails` the successive CRC failures of one unit. -/
structure Port where
  state   : Nat := 0
  dir     : Nat := 15
  lanes   : Nat := 0
  member  : Nat := 0
  peer    : Nat := 0
  crcErr  : Nat := 0
  retryN  : Nat := 0
  txu     : Nat := 0
  busyPs  : Nat := 0
  rxu     : Nat := 0
  disable : Bool := false
  retry   : List WireUnit := []
  sent    : Nat := 0
  acked   : Nat := 1023
  expect  : Nat := 0
  nakSent : Bool := false
  freed   : Tbl Nat := []
  cred    : Tbl Nat := []
  out     : Tbl Nat := []
  sendq   : List Outgoing := []
  fails   : Nat := 0
  deriving DecidableEq, Repr

/-- A child's partial of a block: its rank, CONTRIB, and the 4 KiB packets that have arrived, by their place in it (R302,
R314). -/
structure KidPart where
  rank    : Nat
  contrib : Nat := 0
  parts   : Tbl Bytes := []
  deriving DecidableEq, Repr

/-- Work of one block of a collective at this node (R314 to R316): the sum of the local contributions so far, how many
are whole, those under way and those beyond L_EXP that are dropped (core, stream slot, command), the step they belong to, the
context of the last contributing command, the children's partials that arrive, the partial sent and not yet acknowledged with its CONTRIB, the bytes of the last partial
sent, its step and the ranks whose partials it took, and the resent partials (rank, step) that an adopter drops. -/
structure BlockWork where
  acc      : Bytes := []
  locals   : Nat := 0
  opened   : List (Nat × Nat × Nat) := []
  extra    : List (Nat × Nat × Nat) := []
  step     : Nat := 0
  key      : Nat := 0
  kids     : List KidPart := []
  kept     : Option (Nat × Bytes) := none
  len      : Nat := 0
  lastStep : Nat := 0
  took     : List Nat := []
  drop     : List (Nat × Nat) := []
  deriving DecidableEq, Repr

/-- Scalar collective work at this node (R254, R314): own value, children's values, whether the partial has been sent. -/
structure ScalarWork where
  own   : Option Nat := none
  kids  : List (Nat × Nat) := []
  sent  : Bool := false
  deriving DecidableEq, Repr

/-- Phase of an epoch change (R308). -/
inductive EpochPhase where
  | steady | installed | switched
  deriving DecidableEq, Repr

/-- The job a partition belongs to (R303, R305 to R309, R320). `ctx` is the context that admitted it; keys are opaque
handles; `rx` holds the highest counters accepted by source and epoch, `results` the last result of each scalar collective. -/
structure Job where
  valid    : Bool := false
  ctx      : Nat := 0
  phase    : EpochPhase := .steady
  rank     : Nat := 0
  tag      : Nat := 0
  seed     : Nat := 0
  epoch    : Nat := 0
  sendEp   : Nat := 0
  mem      : Membership := {}
  keyOld   : Option Nat := none
  key      : Option Nat := none
  pctr     : Nat := 0
  rx       : Tbl (List Nat) := []
  fenced   : Nat := 0
  authFail : Nat := 0
  replay   : Nat := 0
  resent   : Nat := 0
  dupDrop  : Nat := 0
  flast    : Bool := false
  flastSrc : Nat := 0
  flastEp  : Nat := 0
  work     : Tbl BlockWork := []
  scalar   : Tbl ScalarWork := []
  results  : Tbl Nat := []
  credit   : Tbl Nat := []
  deriving DecidableEq, Repr

/-- The module's Trellis registers and ports (R293, R294, R319, R323). `outPkts` lists the packets sent, newest first. -/
structure Trellis where
  ports    : Tbl Port := []
  topo     : Nat := 0
  nx       : Nat := 0
  ny       : Nat := 0
  nz       : Nat := 0
  pos      : Nat := 0
  skip     : List Nat := []
  unroute  : Nat := 0
  nojob    : Nat := 0
  linkLoss : Nat := 0
  feeds    : Tbl Nat := []
  outPkts  : List Packet := []
  deriving DecidableEq, Repr

/-! ### Protection (R324 to R347) -/

/-- A protection transfer sent and not acknowledged (R328): kind, step, index, destination rank, PASS, SLOT, group,
payload. -/
structure ProtTx where
  kind : Nat
  step : Nat
  idx  : Nat
  rank : Nat
  pass : Nat
  slot : Nat
  group : Nat
  data : Bytes
  deriving DecidableEq, Repr

/-- A unit still to be formed by a REBUILD (R338): shard, stripe, role (data slot 0 to 7, 8 for P, 9 for Q), and whether the
Q-holder has been asked for a data unit. -/
structure RbUnit where
  shard : Nat
  sigma : Nat
  role  : Nat
  askQ  : Bool
  deriving DecidableEq, Repr

/-- A REBUILD in progress (R338 to R340): command, mode, n_c, whether the step is rolled forward, S, the parameter block, the
units still to be formed, the data units formed with the P and Q map bits returned for them, the listed records, and
the bytes written so far of the codewords at the edges of its writes. -/
structure Rebuild where
  cmd   : Nat × Nat
  mode  : Nat
  nc    : Nat
  roll  : Bool
  sSum  : Nat
  blk   : StepBlock
  todo  : List RbUnit
  maps  : List (Nat × Nat)
  recs  : List (Nat × Nat × Nat)
  parts : Tbl Byte := []
  shards : List Nat
  deriving DecidableEq, Repr

/-- Protection state of a partition (R329 to R332, R338, R347). `map0` and `map1` hold the delta-map bits set, by step parity,
as 16 × parity unit + slot; `seen` the PASS matches; `sagAt` the arrival times of SAG reports by sender rank; `changed` the
ranks that changed position since the step began; `spare` a module that has not been rebuilt. -/
structure ProtPart where
  valid     : Bool := false
  alert     : Bool := false
  shared    : List Nat := []
  suspect   : List Nat := []
  beyond    : List Nat := []
  rebuilding : Bool := false
  evNorm    : Bool := false
  evDmap    : Bool := false
  evSwept   : Bool := false
  evStep    : Nat := 0
  rbDone    : Nat := 0
  sagV      : Bool := false
  sagCorr   : Bool := false
  sagPos    : Nat := 0
  sags      : Nat := 0
  ownSag    : Nat := 0
  ownSagAt  : Option Nat := none
  map0      : List Nat := []
  map1      : List Nat := []
  seen      : List (Nat × Nat × Nat) := []
  tx        : List ProtTx := []
  rb        : Option Rebuild := none
  changed   : List Nat := []
  sagAt     : Tbl Nat := []
  spare     : Bool := false
  restored  : Bool := false
  deriving DecidableEq, Repr

end Sys2Proof.Machine
end

