-- ==== Sys2Proof/Machine/StSys.lean ====
section
/-! DEFINITION. Sys2Proof/Machine/StSys.lean: the state of the Gatehouse, the Almanac, Daybreak and the pins
(chapters 15, 16, 18 and 19). -/

namespace Sys2Proof.Machine

/-! ### Gatehouse (R374 to R393) -/

/-- A secured session of an endpoint (R377): its number, whether its handshake has finished, how often its keys have been
updated, and when its last HEARTBEAT came, in ns of `now`. -/
structure Session where
  id   : Nat
  up   : Bool
  keys : Nat := 0
  beat : Nat := 0
  deriving DecidableEq, Repr

/-- What an SPDM responder has negotiated (R377). -/
structure Spdm where
  version  : Bool := false
  caps     : Bool := false
  algs     : Bool := false
  sessions : List Session := []
  deriving DecidableEq, Repr

/-- A response of an endpoint: the request it answers, its result byte, its blocks by index, and whether it is signed by
the attestation key (R377, R378, R380). -/
structure Response where
  req    : Nat := 0
  result : Nat := 0
  blocks : List (Nat × Bytes) := []
  signed : Bool := false
  deriving DecidableEq, Repr

/-- The keys of a partition slot (R374): the number of its stack key pair, the partition tenant key, the job controller
key and the job key. -/
structure SlotKeys where
  stack : Option Nat := none
  ptk   : Option Nat := none
  jck   : Option Bytes := none
  job   : Option Nat := none
  deriving DecidableEq, Repr

/-- An IDE stream key of a port (R374, R379): stream, key set, VF (0 for function 0), key, and whether its set is active. -/
structure IdeKey where
  port   : Nat
  stream : Nat
  kset   : Nat
  vf     : Nat
  key    : Nat
  active : Bool
  deriving DecidableEq, Repr

/-- A usage record before its signature (R388). -/
structure UseRec where
  kind    : Nat := 1
  flags   : Nat := 0
  part    : Nat := 0
  ctx     : Nat := 0
  seq     : Nat := 0
  serial  : Nat := 0
  tenant  : Nat := 0
  t0      : Nat := 0
  t1      : Nat := 0
  coreNs  : Nat := 0
  stack   : Nat := 0
  host    : Nat := 0
  trellis : Nat := 0
  energy  : Nat := 0
  prev    : Bytes := []
  deriving DecidableEq, Repr

/-- Usage counters of a context (R389, R390): the open interval, flags for its next record, and the latest record. -/
structure UseCtr where
  isOpen  : Bool := false
  serial  : Nat := 0
  tenant  : Nat := 0
  t0      : Nat := 0
  coreNs  : Nat := 0
  stack   : Nat := 0
  host    : Nat := 0
  trellis : Nat := 0
  energy  : Nat := 0
  stepped : Bool := false
  last    : Option UseRec := none
  deriving DecidableEq, Repr

/-- The usage ring of a port (R392, R393). -/
structure UseRing where
  enable : Bool := false
  vector : Nat := 0
  log2   : Nat := 0
  base   : Nat := 0
  head   : Nat := 0
  tail   : Nat := 0
  deriving DecidableEq, Repr

/-- A tamper-log entry (R393). -/
structure TamperLog where
  time    : Nat := 0
  valid   : Bool := false
  unset   : Bool := false
  backup  : Bool := false
  sensors : Nat := 0
  level   : Nat := 0
  deriving DecidableEq, Repr

/-- The Gatehouse. `keyGen` counts the stack key pairs drawn; `keyStore` is whether the configuration keys are held;
`store` the waiting usage records, oldest first; `skips` by port; `uses` by 64 × slot + context; `fetches` counts the descriptors
fetched from the management queues (R447). -/
structure Gatehouse where
  locked   : Bool := false
  identOk  : Bool := false
  level    : Nat := 1
  keyStore : Bool := true
  keyGen   : Nat := 0
  slots    : Tbl SlotKeys := []
  spdm     : List (Endpoint × Spdm) := []
  sessGen  : Nat := 0
  resp     : Response := {}
  fetches  : Nat := 0
  ide      : List IdeKey := []
  store    : List UseRec := []
  seq      : Nat := 0
  opens    : Nat := 0
  uses     : Tbl UseCtr := []
  skips    : Tbl Nat := []
  rings    : Tbl UseRing := []
  mgmtCtr  : Nat := 0
  tamper   : Nat := 0
  onBackup : Bool := false
  tlog     : Tbl TamperLog := []
  tlogNext : Nat := 0
  boundary : Nat := 0
  deriving DecidableEq, Repr

/-! ### Almanac (R394 to R417) -/

/-- The power section's parameters (R416). -/
structure Power where
  cap      : Nat := 2800
  capMin   : Nat := 600
  capMax   : Nat := 3000
  slew     : Nat := 10
  fillEn   : Bool := true
  frameDef : Nat := 2000
  offset   : Nat := 0
  sagMv    : Nat := 44000
  depthJ   : Nat := 64
  dueUs    : Nat := 5000
  boost    : Bool := false
  deriving DecidableEq, Repr

/-- A grant whose command runs: context key, command, estimate and energy metered so far, in mJ (R407). -/
structure Grant where
  key : Nat
  cmd : Nat
  est : Nat
  met : Nat
  deriving DecidableEq, Repr

/-- The samples since the last tick over which a command has run, in a partition, on its cores or on its update engines (R407, R408). -/
structure RunShare where
  part : Nat
  key  : Nat
  cmd  : Nat
  eng  : Bool
  n    : Nat
  deriving DecidableEq, Repr

/-- The input as sampled (R394, R396, R399): mV, units of 10 mA, input draw and demand in mW, and how long in µs the input
has been below SAG_MV, at SAG_MV + 1 V or more, below 40 V, without current, above 60 V, and within range. `overI` is whether
grants are held for input current. -/
structure Input where
  vin    : Nat := 0
  iin    : Nat := 0
  pin    : Rat := 0
  pd     : Rat := 0
  sagUs  : Nat := 0
  upUs   : Nat := 0
  lowUs  : Nat := 0
  absUs  : Nat := 0
  highUs : Nat := 0
  okUs   : Nat := 0
  overI  : Bool := false
  deriving DecidableEq, Repr

/-- The power frame (R401, R402): whether it is lost, the last valid intervals in µs, newest first, how many valid ones came
in a row, the period in use in µs, the time since the last edge in use, and whether the home slot has started since then. -/
structure Frame where
  lost   : Bool := true
  ivals  : List Nat := []
  good   : Nat := 0
  period : Nat := 2000
  since  : Nat := 0
  home   : Bool := false
  deriving DecidableEq, Repr

/-- The Almanac. Temperatures are exact: the inlet in 1/16 °C, the model by die in °C, the hottest sensor by die in 1/16 °C;
`phys` is the reservoir's charge and `charge` the charge the model counts, in mJ, `measured` whether it has been read since
Daybreak (R406); `bfr` is the frame credit in mJ; `fill` the filler energy in mJ; `peff` the effective cap in W; `clocks` in
MHz by die; `slow` the clock floor of R399 and `thr` the dies below target for heat; `dueQ` the due commands (context key,
command) in the order in which they became due; `eligible` the heavy starts that have met their home slot: 2 × context key
for a pass command, one more for a sweep; `ran` the running time of commands since the last tick, which has seen `samples` input samples,
and `late` the commands whose grant has been settled since; `spent` the nanoseconds without 48 V that the backup cell has run. -/
structure Almanac where
  inp      : Input := {}
  pw       : Power := {}
  frame    : Frame := {}
  tin      : Int := 0
  tdie     : Tbl Rat := []
  sens     : Tbl Int := []
  phys     : Rat := 0
  charge   : Rat := 0
  measured : Bool := false
  peff     : Rat := 0
  bfr      : Rat := 0
  grants   : List Grant := []
  late     : List (Nat × Nat) := []
  ran      : List RunShare := []
  samples  : Nat := 0
  lastPart : Nat := 15
  dueQ     : List (Nat × Nat) := []
  dueCnt   : Nat := 0
  overCnt  : Nat := 0
  fill     : Rat := 0
  slewViol : Nat := 0
  sag      : Bool := false
  sags     : Nat := 0
  sagTime  : Nat := 0
  slow     : Bool := false
  thr      : List Nat := []
  fset     : Nat := 2000
  clocks   : Tbl Nat := []
  eligible : List Nat := []
  energy   : Tbl Nat := []
  hold     : Tbl Nat := []
  time     : Nat := 0
  unset    : Bool := true
  spent    : Nat := 0
  deriving DecidableEq, Repr

/-! ### Daybreak and the flash (R438 to R448) -/

/-- Daybreak's registers, the configuration flash as the complement of its bytes (an unlisted byte reads as erased, 0xFF),
the operation in progress (kind, flash address), the serial floor, and the function tables copied into the hub.
`warming` marks a warm restart that waits for a sweep (R446), `warm` is of the start under way or the last one; `laneEq` holds the lane equalisation section (R442). -/
structure Boot where
  done     : Bool := false
  warm     : Bool := false
  bank     : Nat := 0
  step     : Nat := 1
  sectBad  : Nat := 0
  sectAbs  : Nat := 0
  imgErr   : Nat := 0
  warms    : Nat := 0
  serial   : Nat := 0
  floor    : Nat := 0
  flash    : Mem := []
  flAddr   : Nat := 0
  flBuf    : Mem := []
  flTarget : Nat := 0
  flBusy   : Bool := false
  flErr    : Bool := false
  flOp     : Option (Nat × Nat) := none
  tables   : Tbl FnTable := []
  tablesOk : Bool := true
  rails    : Bool := false
  warming  : Bool := false
  laneEq   : Bytes := []
  deriving DecidableEq, Repr

/-! ### Pins and the test access port (R453 to R460) -/

/-- A test instruction (R456). -/
inductive TapIr where
  | extest | sample | idcode | bypass
  deriving DecidableEq, Repr

/-- Pins: RESET_N held low, PERST_N low by port, cable assemblies seated, the address straps as SMB_ADDR1 SMB_ADDR0, the 4-bit code in
the test instruction register, and the 37 boundary cells (R453, R455 to R459). -/
structure Pins where
  resetLow : Bool := false
  perstLow : List Nat := []
  cables   : List Nat := []
  smbAddr  : Nat := 0
  ir       : Nat := 2
  boundary : Nat := 0
  deriving DecidableEq, Repr

end Sys2Proof.Machine
end

