-- ==== Sys2Proof/Machine/StDec.lean ====
section
/-! DEFINITION. Sys2Proof/Machine/StDec.lean: contexts, schedulers, the decode gatherer and host ports (chapters 03,
14). -/

namespace Sys2Proof.Machine

/-- Context c of partition p (R355, R373, R53, R289). `opening` numbers its openings (R158), `key` is the command key
bound to it, `vf` its owner (0 for none), `cut` the runs of submitted descriptors not yet fetched that a FLUSH, JOB_HALT or
JOB_EVICT has ended, oldest first, each with their number and status (R334, R344, R355). -/
structure Ctx where
  state    : CtxState := .closed
  keyed    : Bool := false
  key      : Nat := 0
  vf       : Nat := 0
  stopStat : Nat := 0
  quantum  : Nat := 9
  event    : Nat := 0
  evmask   : Nat := 0
  fltValid : Bool := false
  fltCause : Nat := 0
  fltCore  : Nat := 0
  fltCmd   : Nat := 0
  tenant   : Nat := 0
  runNs    : Nat := 0
  flush    : Bool := false
  flags    : FlagSet := {}
  image    : Option Image := none
  q        : Queue := {}
  td       : Option Teardown := none
  opening  : Nat := 0
  cut      : List (Nat × Nat) := []
  stage    : StageState := {}
  deriving DecidableEq, Repr

/-- What a running core-class command is (R96, R283, R341). -/
inductive RunKind where
  | run
  | stage
  | probe
  deriving DecidableEq, Repr

/-- The core-class command, or pass command of one, that runs on a partition (R364, R366): its context, command, core
plan and the physical cores on which it has not ended. -/
structure Running where
  key   : Nat
  cmd   : Nat
  kind  : RunKind
  plan  : Nat
  all   : List Nat
  cores : List Nat
  deriving DecidableEq, Repr

/-- A partition's command scheduler (R23, R364, R366): current context, nanoseconds of its quantum left, the running
core-class command, the running engine-class command (context, command), how many descriptors its contexts have
fetched, and how many doorbell writes have submitted some (R364). -/
structure Sched where
  cur  : Nat := 0
  left : Nat := 0
  run  : Option Running := none
  eng  : Option (Nat × Nat) := none
  fetches : Nat := 0
  rings : Nat := 0
  deriving DecidableEq, Repr

/-- A sequence of a decode set: tag and reservation in bytes (R90). -/
structure DSeq where
  tag : Nat
  kv  : Nat
  deriving DecidableEq, Repr

/-- A decode set (R86 to R93). `joins` waits in order of arrival with the command of each; `leaves` were requested
during the step; `tile` holds the rows of the tile being filled, `came` the slots whose row of this step has arrived,
`tiles` the dispatched tiles waiting, `steps` the waiting DG_STEP commands. -/
structure DSet where
  key     : Nat := 0
  row     : Nat := 16
  dlM1    : Nat := 0
  beds    : Nat := 0
  region  : Nat := 0
  task    : Nat := 0
  kvPer   : Nat := 0
  kvCap   : Nat := 0
  status  : Nat := 0
  slots   : Tbl DSeq := []
  joins   : List (DSeq × Nat) := []
  leaves  : List (Nat × Nat) := []
  tile    : List (Nat × Bytes) := []
  came    : List Nat := []
  tiles   : List (List (Nat × Bytes)) := []
  steps   : List Nat := []
  deriving DecidableEq, Repr

/-- TDISP states of a TDI (R350). -/
inductive Tdisp where
  | unlocked | locked | run | error
  deriving DecidableEq, Repr

/-- A host port (R348, R350, R422, R455): link up, only function 0 after a FATAL event, TDISP state by VF. -/
structure HostPort where
  up    : Bool := false
  tdi   : Tbl Tdisp := []
  deriving DecidableEq, Repr

/-- An interrupt sent: port, VF (0 for the management function), MSI-X vector (R348, R373). -/
structure Irq where
  port   : Nat
  vf     : Nat
  vector : Nat
  deriving DecidableEq, Repr

end Sys2Proof.Machine
end

