-- ==== Sys2Proof/Machine/State.lean ====
section
/-! DEFINITION. Sys2Proof/Machine/State.lean: the state of the module, its faults and refusals, and the state after
reset. -/

namespace Sys2Proof.Machine

/-- Capability and boot configuration visible in CFG_ (R7 to R9). -/
structure Cfg where
  variant   : Variant := Config.variant
  rev       : Nat := Config.siliconRev.toNat
  bedUsable : Nat := 65535
  deriving DecidableEq, Repr

/-- A LAYOUT_SWITCH past its switch point (R354, R447): the port and the command, none once
the port's link has gone down, the new layout, its counter and the changed slots. -/
structure Switching where
  port    : Nat
  cmd     : Option Nat
  layout  : Layout
  counter : Nat
  changed : List Nat
  deriving DecidableEq, Repr

/-- Layouts (R352, R373): the stored layouts that passed Daybreak, the active one, PT_SWITCH_CTR, and the LAYOUT_SWITCH under way. -/
structure Layouts where
  stored    : List Layout := []
  active    : Layout := {}
  switchCtr : Nat := 0
  switch    : Option Switching := none
  deriving DecidableEq, Repr

/-- Per-partition state, each by slot number 0 to 15, and per-context state by 64 × slot + context. -/
structure Parts where
  ctxs   : Tbl Ctx := []
  sched  : Tbl Sched := []
  xlate  : Tbl Xlate := []
  upd    : Tbl UpdPart := []
  prot   : Tbl ProtPart := []
  jobs   : Tbl Job := []
  deriving DecidableEq, Repr

/-- Memories outside the cores: die pools by die with the 32-bit quarters of bad parity (by address / 4), stack memory,
and what the module's DMA has written to host memory, by port. -/
structure Mems where
  pools   : Tbl Mem := []
  poolBad : Tbl (List Nat) := []
  stk     : StackMem := {}
  host    : Tbl Mem := []
  deriving DecidableEq, Repr

/-- Units by number: cores by physical number, lanterns by physical entry, stack controllers and update engines,
check units, management queues and host ports by port, decode sets. -/
structure Units where
  cores   : Tbl Core := []
  lnt     : Tbl Lantern := []
  lntRegs : LntRegs := {}
  stkCtl  : Tbl StackCtl := []
  updRegs : Tbl UpdRegs := []
  chk     : Tbl ChkUnit := []
  mq      : Tbl Queue := []
  ports   : Tbl HostPort := []
  dsets   : Tbl DSet := []
  deriving DecidableEq, Repr

/-- The module. `latch` holds the high halves latched by low-half reads, by management-view offset (R16); `readOut` what
the last COUNTER_LOW_HALF_READ or HISTORY_WORD0_READ returned; `irqs` the interrupts sent, newest first; `now` counts
nanoseconds of input samples; `freeCount` counts the free values drawn and is the model's own; `pending` is the queue of
waiting commands. -/
structure State where
  cfg       : Cfg := {}
  lay       : Layouts := {}
  parts     : Parts := {}
  units     : Units := {}
  mems      : Mems := {}
  trl       : Trellis := {}
  blv       : Belvedere := {}
  gth       : Gatehouse := {}
  alm       : Almanac := {}
  boot      : Boot := {}
  pins      : Pins := {}
  latch     : Tbl Nat := []
  readOut   : Nat := 0
  irqs      : List Irq := []
  now       : Nat := 0
  freeCount : Nat := 0
  pending   : List Instr := []
  deriving DecidableEq, Repr

/-- No command of this model ends in a fault: the spec gives each an effect, or discards it. -/
inductive Fault where
  deriving DecidableEq, Repr

/-- Why a command has no outcome. -/
inductive Refusal where
  /-- Raised by the dispatch arm of a command that has no meaning yet; safe, since nothing is claimed of it. -/
  | notModelled (mnemonic : String)
  deriving DecidableEq, Repr

/-- The module with the rails off, before the 48 V input has qualified: every register at its reset value. -/
def State.reset : State := {}

end Sys2Proof.Machine
end

