-- ==== Sys2Proof/Machine/Ops.lean ====
section
/-! DEFINITION. Sys2Proof/Machine/Ops.lean: named access to the parts of the state, which units are present, which
partition and function sees what, and reporting to the Belvedere and the host. -/

namespace Sys2Proof.Machine

/-- The outcome of a command. -/
abbrev Res := Host.Outcome State Fault Refusal

/-! ### Parts of the state -/

/-- Core by physical number. -/
def State.core (s : State) (n : Nat) : Core := Tbl.get {} s.units.cores n
/-- Replace a core. -/
def State.setCore (s : State) (n : Nat) (c : Core) : State :=
  { s with units := { s.units with cores := Tbl.set s.units.cores n c } }
/-- Context by 64 × slot + context. -/
def State.ctx (s : State) (k : Nat) : Ctx := Tbl.get {} s.parts.ctxs k
/-- Replace a context. -/
def State.setCtx (s : State) (k : Nat) (c : Ctx) : State :=
  { s with parts := { s.parts with ctxs := Tbl.set s.parts.ctxs k c } }
/-- Scheduler of a partition. -/
def State.sched (s : State) (p : Nat) : Sched := Tbl.get {} s.parts.sched p
/-- Replace a scheduler. -/
def State.setSched (s : State) (p : Nat) (x : Sched) : State :=
  { s with parts := { s.parts with sched := Tbl.set s.parts.sched p x } }
/-- Translation state of a partition. -/
def State.xlate (s : State) (p : Nat) : Xlate := Tbl.get {} s.parts.xlate p
/-- Replace translation state. -/
def State.setXlate (s : State) (p : Nat) (x : Xlate) : State :=
  { s with parts := { s.parts with xlate := Tbl.set s.parts.xlate p x } }
/-- Update state of a partition. -/
def State.upd (s : State) (p : Nat) : UpdPart := Tbl.get {} s.parts.upd p
/-- Replace update state. -/
def State.setUpd (s : State) (p : Nat) (x : UpdPart) : State :=
  { s with parts := { s.parts with upd := Tbl.set s.parts.upd p x } }
/-- Protection state of a partition. -/
def State.prot (s : State) (p : Nat) : ProtPart := Tbl.get {} s.parts.prot p
/-- Replace protection state. -/
def State.setProt (s : State) (p : Nat) (x : ProtPart) : State :=
  { s with parts := { s.parts with prot := Tbl.set s.parts.prot p x } }
/-- Job of a partition. -/
def State.job (s : State) (p : Nat) : Job := Tbl.get {} s.parts.jobs p
/-- Replace a job. -/
def State.setJob (s : State) (p : Nat) (x : Job) : State :=
  { s with parts := { s.parts with jobs := Tbl.set s.parts.jobs p x } }
/-- Lantern by physical entry. -/
def State.lnt (s : State) (n : Nat) : Lantern := Tbl.get {} s.units.lnt n
/-- Replace a lantern. -/
def State.setLnt (s : State) (n : Nat) (e : Lantern) : State :=
  { s with units := { s.units with lnt := Tbl.set s.units.lnt n e } }
/-- Stack controller. -/
def State.stkCtl (s : State) (k : Nat) : StackCtl := Tbl.get {} s.units.stkCtl k
/-- Replace a stack controller. -/
def State.setStkCtl (s : State) (k : Nat) (x : StackCtl) : State :=
  { s with units := { s.units with stkCtl := Tbl.set s.units.stkCtl k x } }
/-- Registers of an update engine. -/
def State.updReg (s : State) (k : Nat) : UpdRegs := Tbl.get {} s.units.updRegs k
/-- Replace registers of an update engine. -/
def State.setUpdReg (s : State) (k : Nat) (x : UpdRegs) : State :=
  { s with units := { s.units with updRegs := Tbl.set s.units.updRegs k x } }
/-- Check unit. -/
def State.chk (s : State) (u : Nat) : ChkUnit := Tbl.get {} s.units.chk u
/-- Replace a check unit. -/
def State.setChk (s : State) (u : Nat) (x : ChkUnit) : State :=
  { s with units := { s.units with chk := Tbl.set s.units.chk u x } }
/-- Management queue of a port. -/
def State.mq (s : State) (n : Nat) : Queue := Tbl.get {} s.units.mq n
/-- Replace a management queue. -/
def State.setMq (s : State) (n : Nat) (x : Queue) : State :=
  { s with units := { s.units with mq := Tbl.set s.units.mq n x } }
/-- Host port. -/
def State.port (s : State) (n : Nat) : HostPort := Tbl.get {} s.units.ports n
/-- Replace a host port. -/
def State.setPort (s : State) (n : Nat) (x : HostPort) : State :=
  { s with units := { s.units with ports := Tbl.set s.units.ports n x } }
/-- Trellis port. -/
def State.tport (s : State) (n : Nat) : Port := Tbl.get {} s.trl.ports n
/-- Replace a Trellis port. -/
def State.setTport (s : State) (n : Nat) (x : Port) : State :=
  { s with trl := { s.trl with ports := Tbl.set s.trl.ports n x } }
/-- Die pool. -/
def State.pool (s : State) (d : Nat) : Mem := Tbl.get [] s.mems.pools d
/-- Replace a die pool. -/
def State.setPool (s : State) (d : Nat) (m : Mem) : State :=
  { s with mems := { s.mems with pools := Tbl.set s.mems.pools d m } }
/-- Replace the stack memory. -/
def State.setStk (s : State) (m : StackMem) : State := { s with mems := { s.mems with stk := m } }
/-- Write bytes to host memory through the functions of a port (R357: host bus addresses of the owner's function). -/
def State.hostWrite (s : State) (port a : Nat) (bs : Bytes) : State :=
  { s with mems := { s.mems with host := Tbl.upd [] s.mems.host port (fun m => Mem.wrN m a bs) } }

/-! ### Fields of a core -/

/-- A task of a core. -/
def Core.task (c : Core) (t : Nat) : Task := Tbl.get {} c.tasks t
/-- Replace a task. -/
def Core.setTask (c : Core) (t : Nat) (x : Task) : Core := { c with tasks := Tbl.set c.tasks t x }
/-- A region of a task. -/
def Core.region (c : Core) (t g : Nat) : Region := Tbl.get {} (c.task t).regions g
/-- Replace a region of a task. -/
def Core.setRegion (c : Core) (t g : Nat) (r : Region) : Core :=
  c.setTask t { c.task t with regions := Tbl.set (c.task t).regions g r }
/-- A window. -/
def Core.win (c : Core) (t : Nat) : Win := Tbl.get {} c.wins t
/-- A stream slot. -/
def Core.slot (c : Core) (i : Nat) : Slot := Tbl.get {} c.slots i
/-- Replace a stream slot. -/
def Core.setSlot (c : Core) (i : Nat) (x : Slot) : Core := { c with slots := Tbl.set c.slots i x }

/-- One cycle of an engine stalled with a cause, saturating (R430). -/
def Core.stall (c : Core) (e cause : Nat) : Core :=
  { c with cnt := { c.cnt with stall := Tbl.upd 0 c.cnt.stall (8 * e + cause) (fun n => satAdd 64 n 1) } }
/-- One busy cycle of an engine. -/
def Core.busyCycle (c : Core) (e : Nat) : Core :=
  { c with cnt := { c.cnt with busy := Tbl.upd 0 c.cnt.busy e (fun n => satAdd 64 n 1) } }

/-! ### Presence (R1, R2, R8) -/

/-- DIE_PRESENT. -/
def dieMask : Variant → Nat
  | .kt320 => 3
  | _ => 15
/-- Number of present dies, D of R216. -/
def dieCount : Variant → Nat
  | .kt320 => 2
  | _ => 4
/-- HOST_PRESENT. -/
def hostMask : Variant → Nat
  | .kt320 => 3
  | _ => 15
/-- TRL_PRESENT. -/
def trlMask : Variant → Nat
  | .kt960 => 0xFFFF
  | .kt640 => 0x7777
  | .kt320 => 0x00FF
/-- STACK_PRESENT. -/
def stackMask : Variant → Nat
  | .kt960 => 0xFFF
  | .kt640 => 0x6DB
  | .kt320 => 0x01B
/-- BED_PRESENT. -/
def bedMask : Variant → Nat
  | .kt320 => 0x00FF
  | _ => 0xFFFF
/-- DG_PRESENT. -/
def dgPresent (v : Variant) : Bool := v == .kt960
/-- VARIANT of CFG_IDENT (R7). -/
def variantCode : Variant → Nat
  | .kt960 => 1
  | .kt640 => 2
  | .kt320 => 3
/-- CFG_UNITS (R7, R8). -/
def cfgUnits (v : Variant) : Nat := b2n (dgPresent v) * 2 ^ 31 + hostMask v * 2 ^ 24 + dieMask v * 2 ^ 20 + trlMask v
/-- Whether a core is present. -/
def corePresent (v : Variant) (n : Nat) : Bool := decide (n < 256) && bit (bedMask v) (n / 16)
/-- Present stack controllers of a die, n of R216. -/
def stacksPerDie : Variant → Nat
  | .kt960 => 3
  | _ => 2
/-- Frames per die, F of R216. -/
def framesPerDie : Variant → Nat
  | .kt960 => 114440
  | _ => 76293

/-- The variant of this module. -/
def State.var (s : State) : Variant := s.cfg.variant

/-! ### Partitions (R349, R352, R463) -/

/-- The active layout's entry of a slot. -/
def State.entry (s : State) (p : Nat) : LayoutEntry := s.lay.active.entries.getD p {}
/-- The beds of a partition that are usable, in increasing physical number: its logical beds (R102, R463). -/
def usableBeds (s : State) (p : Nat) : List Nat :=
  (upto 16).filter (fun b => bit (s.entry p).beds b && bit s.cfg.bedUsable b && bit (bedMask s.var) b)
/-- The logical cores of a partition as physical numbers (R463). -/
def logicalCores (s : State) (p : Nat) : List Nat := (usableBeds s p).flatMap (fun b => (upto 16).map (fun i => 16 * b + i))
/-- The slot of the used partition that holds a bed. -/
def partOfBed (s : State) (b : Nat) : Option Nat :=
  (upto 16).find? (fun p => (s.entry p).used && bit (s.entry p).beds b)
/-- The logical number of a physical core in its partition. -/
def logicalOf (s : State) (p n : Nat) : Nat := (logicalCores s p).findIdx (· == n)
/-- Whether Daybreak has accepted no bank: known from its step 2 on (R441, R443). -/
def State.noImage (s : State) : Bool := (s.boot.done || decide (2 ≤ s.boot.step)) && s.boot.bank == 0
/-- Whether only function 0 of each port answers: the module is locked, has taken a FATAL event, or has no image (R387, R422,
R441). -/
def State.shut (s : State) : Bool := s.gth.locked || s.blv.fatal || s.noImage
/-- The partition slot that owns a VF of a port (R352). -/
def partOfVf (s : State) (port vf : Nat) : Option Nat :=
  if s.shut then none else (upto 16).find? (fun p =>
    let e := s.entry p
    e.used && e.port == port && decide (e.vfFirstM1 + 1 ≤ vf) && decide (vf < e.vfFirstM1 + 1 + e.vfCount))
/-- The partition slot of a function that is a VF. -/
def partOfFn (s : State) : Fn → Option Nat
  | .mgmt _ => none
  | .vf n v => partOfVf s n v
/-- The partition slot of a context key. -/
def keyPart (k : Nat) : Nat := k / 64
/-- The context number of a context key. -/
def keyCtx (k : Nat) : Nat := k % 64

/-- The access rule of R84: a VF of the core's partition, the management function of its partition's port, or for a core
of no used partition every present port's management function. -/
def coreInView (s : State) (fn : Fn) (n : Nat) : Bool :=
  corePresent s.var n &&
    match partOfBed s (n / 16), fn with
    | some p, .mgmt port => (s.entry p).port == port
    | some p, .vf port v => partOfVf s port v == some p
    | none, .mgmt port => bit (hostMask s.var) port
    | none, .vf _ _ => false

/-- Whether a function sees a core's window: it is in its view, and the module is not one that shows little else than its CFG_, GTH_ and
BLV_ registers (R84, R387, R422). -/
def seesCore (s : State) (fn : Fn) (n : Nat) : Bool := !s.shut && coreInView s fn n

/-! ### Reporting -/

/-- A block reports an event (R419): it is buffered, or dropped and counted with its fault-word bit set. -/
def report (s : State) (line : Nat) (e : Evt) : State :=
  let q := Tbl.get [] s.blv.bufs line
  if q.length < 4 || (e.sev == 3 && decide (q.length < 5)) then
    { s with blv := { s.blv with bufs := Tbl.set s.blv.bufs line (q ++ [e]) } }
  else
    { s with blv := { s.blv with drop := inc32 s.blv.drop, fault := s.blv.fault ||| 2 ^ line } }

/-- The PART and CTX of an event that concerns a context key. -/
def evtOf (code sev unit k detail : Nat) : Evt :=
  { code := code, sev := sev, unit := unit, part := keyPart k, ctx := keyCtx k, detail := detail }
/-- An event that concerns no partition (R420). -/
def evtNone (code sev unit detail : Nat) : Evt :=
  { code := code, sev := sev, unit := unit, part := 15, ctx := 0, detail := detail }
/-- An event that concerns a partition and no context. -/
def evtPart (code sev unit p detail : Nat) : Evt :=
  { code := code, sev := sev, unit := unit, part := p, ctx := 0, detail := detail }

/-- Send an interrupt. Function 0 has eight vectors (R348): on another one nothing is sent (DESIGN CHOICE, log 84). -/
def sendIrq (s : State) (port vf vec : Nat) : State :=
  if vf = 0 && 8 ≤ vec then s
  else { s with irqs := { port := port, vf := vf, vector := vec } :: s.irqs }

/-- Raise bit `b` of PT_CTX_EVENT, with the interrupt of an enabled bit that was clear (R373). -/
def ctxEvent (s : State) (k b : Nat) : State :=
  let c := s.ctx k
  if bit c.event b then s
  else
    let s := s.setCtx k { c with event := c.event + 2 ^ b }
    if bit c.evmask b then sendIrq s (s.entry (keyPart k)).port c.vf c.q.cqVec else s

/-- Move a context to a state, raising its STATE event on a change (R373). -/
def setCtxState (s : State) (k : Nat) (st : CtxState) : State :=
  let c := s.ctx k
  if c.state = st then s else ctxEvent (s.setCtx k { c with state := st }) k 4

/-- Draw one free value: the count to apply it to, and the state with the count advanced. -/
def drawFree (s : State) : Nat × State := (s.freeCount, { s with freeCount := s.freeCount + 1 })

/-- 2^32. -/
def two32 : Nat := 4294967296

/-- One half of a 64-bit value. -/
def half (v : Nat) (hi : Bool) : Nat := if hi then v / two32 % two32 else v % two32

/-- The words of a tamper-log entry as its registers show it (R393). -/
def tlogWord (t : TamperLog) (i : Nat) : Nat :=
  if i = 0 then half t.time false
  else if i = 1 then half t.time true
  else if i = 2 then
    b2n t.valid * 2 ^ 31 + b2n t.unset * 2 ^ 30 + b2n t.backup * 2 ^ 29 + t.sensors % 32 * 2 ^ 24 + t.level % 4 * 2 ^ 22
  else 0

end Sys2Proof.Machine
end

