-- ==== Sys2Proof/Machine/RegionOps.lean ====
section
/-! DEFINITION. Sys2Proof/Machine/RegionOps.lean: regions (R100, R153 to R155): reservation, tail and head advance,
reading and writing, and the parity of what is read (R160). -/

namespace Sys2Proof.Machine

/-- Size in words. -/
def regionSize (r : Region) : Nat := (r.sizeM1 + 1) * 256
/-- Free space in words (R153). -/
def regionFree (r : Region) : Nat := regionSize r - r.occ - r.rsv
/-- Words that dispatched readers earlier than `seq` have still to release. -/
def earlierRel (seq : Nat) (l : List Reader) : Nat := ((l.filter (fun e => decide (e.seq < seq))).map Reader.rel).foldl (· + ·) 0
/-- Word offset at which an instruction reads: the head once every earlier-dispatched release has been made (R100). -/
def readBase (r : Region) (seq : Nat) : Nat := r.head + earlierRel seq r.readers
/-- Occupancy that an instruction can read past its read base. -/
def readAvail (r : Region) (seq : Nat) : Nat := r.occ - earlierRel seq r.readers
/-- Whether every instruction dispatched earlier that writes the region has reserved (R100). -/
def mayReserve (r : Region) (seq : Nat) : Bool := r.writers.all (fun w => decide (seq ≤ w))
/-- Whether `n` words can be reserved (R154). -/
def canReserve (r : Region) (seq n : Nat) : Bool := mayReserve r seq && decide (n ≤ regionFree r)

/-- Reserve `n` words (R154). -/
def reserve (r : Region) (seq n : Nat) : Region :=
  { r with rsv := r.rsv + n, resv := r.resv ++ [{ seq := seq, words := n, ready := 0 }] }

/-- The word offset at which the reservations of `seq` begin, from the tail (R154). -/
def resvStart (r : Region) (seq : Nat) : Nat :=
  r.tail + ((r.resv.takeWhile (fun v => v.seq != seq)).map Resv.words).foldl (· + ·) 0

/-- Take the tail advances that the oldest reservations allow (R154). -/
def settleTailAux (size : Nat) : List Resv → Nat → Nat → Nat → List Resv × Nat × Nat × Nat
  | [], t, o, v => ([], t, o, v)
  | x :: xs, t, o, v =>
    let t' := (t + x.ready) % size
    if x.ready < x.words then ({ x with words := x.words - x.ready, ready := 0 } :: xs, t', o + x.ready, v - x.ready)
    else settleTailAux size xs t' (o + x.ready) (v - x.ready)

/-- The region after the tail advances it allows. -/
def settleTail (r : Region) : Region :=
  let (l, t, o, v) := settleTailAux (regionSize r) r.resv r.tail r.occ r.rsv
  { r with resv := l, tail := t, occ := o, rsv := v }

/-- The reservation of `seq` is wholly written: its tail advance takes effect or is deferred (R154). -/
def tailAdvance (r : Region) (seq : Nat) : Region :=
  settleTail { r with resv := r.resv.map (fun v => if v.seq = seq then { v with ready := v.words } else v) }

/-- Mark the first `n` words of the reservations of `seq` as an unbroken written run (R173). -/
def markRun (seq : Nat) : Nat → List Resv → List Resv
  | _, [] => []
  | n, v :: vs =>
    if v.seq = seq then { v with ready := min v.words n } :: markRun seq (n - v.words) vs else v :: markRun seq n vs

/-- Words still reserved by `seq`. -/
def resvWords (r : Region) (seq : Nat) : Nat := ((r.resv.filter (fun v => v.seq == seq)).map Resv.words).foldl (· + ·) 0

/-- The word offset of the n-th word of the reservations of `seq`, counted over them in order. -/
def resvPos (seq : Nat) : Nat → Nat → List Resv → Option Nat
  | _, _, [] => none
  | pos, n, v :: vs =>
    if v.seq = seq then (if n < v.words then some (pos + n) else resvPos seq (pos + v.words) (n - v.words) vs)
    else resvPos seq (pos + v.words) n vs

/-- Take the head advances that dispatch order allows (R100). -/
def settleHeadAux (size : Nat) : List Reader → Nat → Nat → List Reader × Nat × Nat
  | [], h, o => ([], h, o)
  | x :: xs, h, o =>
    let h' := (h + x.got) % size
    if x.fin && decide (x.rel ≤ x.got) then settleHeadAux size xs h' (o - x.got)
    else ({ x with rel := x.rel - x.got, got := 0 } :: xs, h', o - x.got)

/-- The region after the head advances it allows. -/
def settleHead (r : Region) : Region :=
  let (l, h, o) := settleHeadAux (regionSize r) r.readers r.head r.occ
  { r with readers := l, head := h, occ := o }

/-- The reader `seq` has finished and releases everything it declared (R77, R100). -/
def finishRead (r : Region) (seq : Nat) : Region :=
  settleHead { r with readers := r.readers.map (fun e => if e.seq = seq then { e with got := e.rel, fin := true } else e) }

/-- The reader `seq` releases `n` words of what it declared (R174). -/
def partRelease (r : Region) (seq n : Nat) : Region :=
  settleHead { r with readers := r.readers.map (fun e => if e.seq = seq then { e with got := e.got + n } else e) }

/-- The reservation step of `seq` is over: later writers may reserve (R100). -/
def doneWriter (r : Region) (seq : Nat) : Region := { r with writers := r.writers.filter (· != seq) }

/-! ### Reading and writing -/

/-- First byte of a region in the scratchpad (R151, R153). -/
def regionAddr (c : Core) (t : Nat) (r : Region) : Nat := ((c.win t).base + r.base) * 4096

/-- Whether the region lies within its task's window and the scratchpad (R151, R152). -/
def regionInWin (c : Core) (t : Nat) (r : Region) : Bool :=
  (c.win t).valid && decide (r.base + r.sizeM1 + 1 ≤ (c.win t).sizeM1 + 1) && decide ((c.win t).base + r.base + r.sizeM1 + 1 ≤ 1024)

/-- Scratchpad address of byte `i` of an access at word offset `pos` (R154). -/
def regionByteAddr (c : Core) (t : Nat) (r : Region) (pos i : Nat) : Nat :=
  regionAddr c t r + (16 * pos + i) % (16 * regionSize r)

/-- Byte `i` of an access at word offset `pos`. -/
def regionByte (c : Core) (t : Nat) (r : Region) (pos i : Nat) : Nat := (Mem.rd c.scratch (regionByteAddr c t r pos i)).toNat

/-- `n` bytes at word offset `pos`. -/
def regionBytes (c : Core) (t : Nat) (r : Region) (pos n : Nat) : Bytes :=
  (upto n).map (fun i => Mem.rd c.scratch (regionByteAddr c t r pos i))

/-- Write one scratchpad byte with good parity (R160). -/
def scrWrite (c : Core) (a : Nat) (b : Byte) : Core :=
  { c with scratch := Mem.wr c.scratch a b, badPar := c.badPar.filter (· != a / 4) }

/-- Write bytes from index `i` of an access at word offset `pos`. -/
def regionWrite (t : Nat) (r : Region) (pos : Nat) : Core → Nat → Bytes → Core
  | c, _, [] => c
  | c, i, b :: bs => regionWrite t r pos (scrWrite c (regionByteAddr c t r pos i) b) (i + 1) bs

/-- The scratchpad address of the first word with bad parity, in the order of the access, among `n` words at word offset `pos`
(R160, R162). -/
def badWord (c : Core) (t : Nat) (r : Region) (pos n : Nat) : Option Nat :=
  let size := regionSize r
  let rb := regionAddr c t r / 16
  let offs := c.badPar.filterMap (fun q =>
    let w := q / 4
    let d := (w - rb + size - pos % size) % size
    if decide (rb ≤ w) && decide (w < rb + size) && decide (d < n) then some d else none)
  match offs with
  | [] => none
  | d :: ds => some (rb + (pos + ds.foldl min d) % size)

/-- Zero the words of a scalar region with good parity (R159). -/
def zeroRegion (c : Core) (t : Nat) (r : Region) : Core :=
  let a := regionAddr c t r
  let n := 16 * regionSize r
  { c with scratch := Mem.zero c.scratch a n, badPar := c.badPar.filter (fun q => decide (4 * q < a) || decide (a + n ≤ 4 * q)) }

/-! ### Stream slots and their regions -/

/-- 2 MiB. -/
def mib2 : Nat := 2097152

/-- The address of a sequence offset of a slot (R170); a gather uses the index read for its row. -/
def slotAddr (x : Slot) (q : Nat) : Nat :=
  seqAddr x.desc x.addrS q (Tbl.get 0 x.rows ((seqIndex x.desc q).getD 1 0))

/-- Bytes of a stream that the region's tail has passed. -/
def tailedBytes (x : Slot) (r : Region) : Nat := x.begun - 16 * resvWords r x.seq

/-- Discard the prefetched pieces of a core that `gone` picks by slot and offset, counted in SCP_PFWASTE (R184). -/
def dropPieces (c : Core) (gone : Slot → Nat → Bool) : Core :=
  let bytes (x : Slot) : Nat := ((x.pf.filter (fun f => gone x f.1)).map (fun f => f.2.length)).foldl (· + ·) 0
  { c with
    slots := c.slots.map (fun y => (y.1, { y.2 with pf := y.2.pf.filter (fun f => !gone y.2 f.1) }))
    cnt := { c.cnt with pfWaste := satAdd 64 c.cnt.pfWaste ((c.slots.map (fun y => bytes y.2)).foldl (· + ·) 0) } }

/-- Apply a function to each core of a partition that the state lists. -/
def onCores (s : State) (p : Nat) (f : Core → Core) : State :=
  let cs := logicalCores s p
  { s with units := { s.units with cores := s.units.cores.map (fun c => if cs.contains c.1 then (c.1, f c.2) else c) } }

/-- The prefetched bytes of pages that become update-pending are discarded (R27, R184). -/
def dropPending (s : State) (p : Nat) (pages : List Nat) : State :=
  onCores s p (fun c => dropPieces c (fun x q => dKind x.desc == 1 && pages.contains (slotAddr x q / mib2)))

end Sys2Proof.Machine
end

