-- ==== Sys2Proof/Machine/UseOps.lean ====
section
/-! DEFINITION. Sys2Proof/Machine/UseOps.lean: usage metering (R388 to R391) and the settlement of energy grants (R407),
used wherever commands complete and contexts end. -/

namespace Sys2Proof.Machine

/-! ### Usage records (R388 to R390) -/

/-- Usage counters of a context. -/
def useOf (s : State) (k : Nat) : UseCtr := Tbl.get {} s.gth.uses k

/-- Replace them. -/
def setUse (s : State) (k : Nat) (u : UseCtr) : State := { s with gth := { s.gth with uses := Tbl.set s.gth.uses k u } }

/-- Change the counters of a context whose interval is open (R389). -/
def meter (s : State) (k : Nat) (f : UseCtr → UseCtr) : State :=
  let u := useOf s k
  if u.isOpen then setUse s k (f u) else s

/-- Bytes moved at the stack controllers for a context (R389). -/
def useStack (s : State) (k n : Nat) : State := meter s k (fun u => { u with stack := satAdd 64 u.stack n })
/-- Bytes of a context's host-kind streams (R389). -/
def useHost (s : State) (k n : Nat) : State := meter s k (fun u => { u with host := satAdd 64 u.host n })
/-- Packet bodies sent for a context's commands (R389). -/
def useTrellis (s : State) (k n : Nat) : State := meter s k (fun u => { u with trellis := satAdd 64 u.trellis n })
/-- Energy of a context in mJ (R389). -/
def useEnergy (s : State) (k n : Nat) : State := meter s k (fun u => { u with energy := satAdd 64 u.energy n })

/-- UNSET. -/
def fUnset : Nat := 1
/-- CLOCK_STEP. -/
def fStep : Nat := 2
/-- FAULT. -/
def fFault : Nat := 4
/-- RESET. -/
def fReset : Nat := 8
/-- TAMPER. -/
def fTamper : Nat := 16
/-- POWER. -/
def fPower : Nat := 32

/-- Bytes of a number, most significant first. -/
def natBe (n v : Nat) : Bytes := (natLe n v).reverse

/-- The signed part of a usage record, bytes 0x00 to 0x9F (R388). -/
def useSigned (r : UseRec) : Bytes :=
  natLe 4 (65536 + r.kind * 256 + r.flags) ++ natLe 4 (r.part * 65536 + r.ctx) ++ natLe 8 r.seq ++ natLe 8 r.serial ++
    natLe 8 r.tenant ++ natLe 8 r.t0 ++ natLe 8 r.t1 ++ natLe 8 r.coreNs ++ natLe 8 r.stack ++ natLe 8 r.host ++
    natLe 8 r.trellis ++ natLe 8 r.energy ++ r.prev ++ List.replicate 24 0

/-- The 256 bytes of a usage record (R388). -/
def useBytes (r : UseRec) : Bytes := useSigned r ++ natBe 96 (Config.usageSign (useSigned r))

/-- Emit a record of a context: its interval ends at `t1` and the next starts at `t2` with cleared counters; the store holds 4,096 records,
and one that finds no place is lost (R388, R390, R391). -/
def useEmit (s : State) (k kind flags t1 t2 : Nat) (stepped : Bool) : State :=
  let u := useOf s k
  let g := s.gth
  let r : UseRec :=
    { kind := kind, flags := flags ||| (if s.alm.unset then fUnset else 0) ||| (if u.stepped then fStep else 0)
      part := k / 64, ctx := k % 64, seq := g.seq, serial := u.serial, tenant := u.tenant, t0 := u.t0, t1 := t1
      coreNs := u.coreNs, stack := u.stack, host := u.host, trellis := u.trellis, energy := u.energy
      prev := match u.last with
        | some p => natBe 48 (Config.sha384 (useBytes p))
        | none => List.replicate 48 0 }
  let s := { s with gth := { g with store := if g.store.length < 4096 then g.store ++ [r] else g.store, seq := (g.seq + 1) % 2 ^ 64 } }
  setUse s k { isOpen := true, serial := u.serial, tenant := u.tenant, t0 := t2, stepped := stepped, last := some r }

/-- Close the usage interval of a context, with the flags of its end (R390 points 3 and 5). -/
def usageClose (s : State) (k flags : Nat) : State :=
  if (useOf s k).isOpen then
    let s := useEmit s k 3 flags s.alm.time s.alm.time false
    setUse s k { useOf s k with isOpen := false }
  else s

/-- Records in the store that occupy places not reserved for CLOSE records: all others, and the CLOSE records beyond the 1,024
that have a reserved place (R391). -/
def unreserved (s : State) : Nat :=
  (s.gth.store.filter (fun r => r.kind != 3)).length + ((s.gth.store.filter (fun r => r.kind == 3)).length - 1024)

/-- Whether the store has no unreserved place (R391). -/
def storeFull (s : State) : Bool := decide (3072 ≤ unreserved s)

/-- A record of a context is not emitted for want of a place, and its interval runs on (R391). -/
def skipRecord (s : State) (k : Nat) : State :=
  { s with gth := { s.gth with skips := Tbl.upd 0 s.gth.skips (s.entry (k / 64)).port inc32 } }

/-- Open the usage interval of a context at its OPEN (R390 point 1); without a place for its record there is none (DESIGN CHOICE, log 78). -/
def usageOpen (s : State) (k tenant : Nat) : State :=
  let n := s.gth.opens + 1
  let s := { s with gth := { s.gth with opens := n } }
  let s := setUse s k { isOpen := true, serial := n, tenant := tenant, t0 := s.alm.time }
  if storeFull s then skipRecord s k else useEmit s k 1 0 s.alm.time s.alm.time false

/-- A boundary: an INTERVAL record of one context, or a counted skip (R390 point 2, R391). -/
def usageBoundary (s : State) (k t : Nat) : State :=
  if !(useOf s k).isOpen then s else if storeFull s then skipRecord s k else useEmit s k 2 0 t t false

/-- The step of the clock at TIME_SET, which a record without a place makes a skip too, its interval carrying the step (R390 point 4;
DESIGN CHOICE, log 78). -/
def usageStep (s : State) (k old new : Nat) : State :=
  if !(useOf s k).isOpen then s
  else if storeFull s then skipRecord (setUse s k { useOf s k with stepped := true }) k
  else useEmit s k 2 0 old new true

/-! ### Grants (R407) -/

/-- Whether an opcode is of a core-class command. -/
def coreOpcode (op : Nat) : Bool := op == 0x10 || op == 0x11 || op == 0x12

/-- An estimate clipped to DEPTH_J (R408). -/
def clipEst (s : State) (e : Nat) : Nat := min e (1000 * s.alm.pw.depthJ)

/-- Estimate and planned duration of a command that is not core-class: of an update or a rebuild those of the image, and for the estimate the
descriptor's ENERGY where it is not zero (R359, R408). -/
def engEnergy (s : State) (k : Nat) (m : Cmd) : Nat × Nat :=
  let img := (s.ctx k).image.getD {}
  let op := m.desc.opcode
  let (est, plan) := if op == 0x34 then (img.rbEst, img.rbDur) else if op == 0x20 || op == 0x21 then (img.updEst, img.updDur) else (0, 0)
  (clipEst s (if m.desc.energy ≠ 0 then m.desc.energy else est), plan)

/-- A command that is not core-class completes: its energy estimate is charged to its context, unless it has not started (R389). -/
def chargeEst (s : State) (k : Nat) (m : Cmd) (notStarted : Bool) : State :=
  if coreOpcode m.desc.opcode || notStarted then s else useEnergy s k (engEnergy s k m).1

/-- A heavy start has been granted, or its command has ended: it waits for its home slot anew (R403). -/
def notEligible (s : State) (x : Nat) : State := { s with alm := { s.alm with eligible := s.alm.eligible.filter (· != x) } }

/-- The eligibility of the heavy start of an issued command that ends (R403). -/
def endEligible (s : State) (k : Nat) (m : Cmd) : State :=
  if m.phase != .issued then s
  else if m.desc.opcode == 0x11 then notEligible s (2 * k)
  else if m.desc.opcode == 0x20 || m.desc.opcode == 0x21 then notEligible s (2 * k + 1)
  else s

/-- A command or pass completes: its grant is settled, the frame credit taking back its estimate less what was metered, up to
DEPTH_J; what the next tick meters to it is still to be taken (R407). -/
def settleGrant (s : State) (k id : Nat) : State :=
  let a := s.alm
  match a.grants.find? (fun g => g.key == k && g.cmd == id) with
  | none => s
  | some g =>
    let b : Rat := a.bfr + (g.est : Rat) - (g.met : Rat)
    let cap : Rat := (1000 * a.pw.depthJ : Nat)
    { s with alm := { a with bfr := if cap < b then cap else b, late := (k, id) :: a.late.filter (· != (k, id))
                             grants := a.grants.filter (fun x => !(x.key == k && x.cmd == id)) } }

end Sys2Proof.Machine
end

