-- ==== Sys2Proof/Machine/StackOps.lean ====
section
/-! DEFINITION. Sys2Proof/Machine/StackOps.lean: stack-physical addresses, translation, error correction and the stack cache, and
the reads of streams that a stop ends (R194, R216 to R235). -/

namespace Sys2Proof.Machine

/-! ### Addresses (R216 to R220) -/

/-- Valid bit of a page entry (R220). -/
def peV (e : Nat) : Bool := bit e 63
/-- Write permission of a page entry. -/
def peW (e : Nat) : Bool := bit e 62
/-- HUGE or LARGE. -/
def peBig (e : Nat) : Bool := bit e 61
/-- Page size of an entry (R219, R220). -/
def peSize (host : Bool) (e : Nat) : Nat :=
  if host then (if peBig e then mib2 else 65536) else (if peBig e then 1073741824 else mib2)
/-- Width of a translation space in bits (R219). -/
def spaceBits (host : Bool) : Nat := if host then 48 else 40
/-- What an entry names: its first partition frame, or its host bus address (R220). -/
def peTarget (host : Bool) (e : Nat) : Nat := if host then bits e 0 48 * 65536 else bits e 0 19

/-- The page tables of one space. -/
def pageTab (x : Xlate) (host : Bool) : Tbl Nat := if host then x.host else x.stack

/-- The valid entry that covers a virtual address (R219, R221). -/
def findPage (x : Xlate) (host : Bool) (va : Nat) : Option (Nat × Nat) :=
  if va ≥ 2 ^ spaceBits host then none
  else (pageTab x host).find? (fun e => decide (e.1 ≤ va) && decide (va < e.1 + peSize host e.2))

/-- A walk of one address (R179, R221). -/
def walkPage (s : State) (p : Nat) (host : Bool) (va : Nat) : Option TEntry :=
  (findPage (s.xlate p) host va).map (fun e =>
    { host := host, va := e.1, size := peSize host e.2, tgt := peTarget host e.2, w := peW e.2 })

/-- The stack-physical address of a virtual address in a page of a partition (R216, R218). -/
def spaOf (s : State) (p : Nat) (t : TEntry) (va : Nat) : Nat :=
  ((s.entry p).firstFrame + t.tgt + (va - t.va) / mib2) * mib2 + (va - t.va) % mib2

/-- The physical address a page gives: stack-physical, or host bus (R218, R220). -/
def physOf (s : State) (p : Nat) (t : TEntry) (va : Nat) : Nat := if t.host then t.tgt + (va - t.va) else spaOf s p t va

/-- The die of a stack-physical address (R216). -/
def dieOfSpa (v : Variant) (spa : Nat) : Nat := spa / mib2 % dieCount v

/-- The stack controller of a stack-physical address (R217). -/
def ctlOfSpa (v : Variant) (spa : Nat) : Nat :=
  let die := dieOfSpa v spa
  let g := spa / mib2 / dieCount v * 8192 + spa % mib2 / 256
  let es := (upto 3).filter (fun l => bit (stackMask v) (3 * die + l))
  3 * die + es.getD (g % stacksPerDie v) 0

/-! ### Contents and error correction (R224 to R230) -/

/-- A byte of stack memory: what was written, or an unpredictable value (R230). -/
def stkByte (s : State) (spa : Nat) : Byte := (Tbl.find s.mems.stk.bytes spa).getD (Config.freeByte s.freeCount spa)

/-- `n` bytes from a stack-physical address; the count of free values advances. -/
def stkRead (s : State) (spa n : Nat) : Bytes × State :=
  ((upto n).map (fun i => stkByte s (spa + i)), { s with freeCount := s.freeCount + 1 })

/-- A read of a codeword treats what it finds: damage the code corrects is corrected and counted, other damage poisons it
(R225, R226). The event of a codeword found poisoned names the partition, and context 0 (DESIGN CHOICE, log 84). -/
def checkCw (s : State) (p cw : Nat) : State :=
  let m := s.mems.stk
  let k := ctlOfSpa s.var (64 * cw)
  let c := s.stkCtl k
  if m.damaged.contains cw then
    let c1 := { c with ue := inc32 c.ue }
    let c2 := if c1.lastValid then c1 else { c1 with lastValid := true, lastSpa := 64 * cw }
    let s := (s.setStkCtl k c2).setStk { m with damaged := m.damaged.filter (· != cw), poisoned := cw :: m.poisoned.filter (· != cw) }
    report s (16 + k) (evtPart 0x010 1 k p (64 * cw / 2 ^ 18 % 2 ^ 22))
  else if m.soft.contains cw then
    (s.setStkCtl k { c with ce := inc32 c.ce }).setStk { m with soft := m.soft.filter (· != cw) }
  else s

/-- Whether a codeword is poisoned (R225). -/
def poisonedCw (s : State) (cw : Nat) : Bool := s.mems.stk.poisoned.contains cw

/-- The codewords of a byte range. -/
def cwsOf (spa n : Nat) : List Nat := if n = 0 then [] else (upto ((spa + n - 1) / 64 - spa / 64 + 1)).map (· + spa / 64)

/-- Read a range: its codewords are checked; whether one is poisoned (R225, R227). -/
def checkRange (s : State) (p spa n : Nat) : Bool × State :=
  let s := (cwsOf spa n).foldl (fun s cw => checkCw s p cw) s
  ((cwsOf spa n).any (poisonedCw s), s)

/-- Put bytes into a table at rising addresses. -/
def putBytes (t : Tbl Byte) (a : Nat) : Bytes → Tbl Byte
  | [] => t
  | b :: bs => putBytes (Tbl.set t a b) (a + 1) bs

/-- A core of a partition after a write to granules lo to hi: the requests in flight to them no longer install a line (R234). -/
def staleFills (c : Core) (lo hi : Nat) : Core :=
  { c with slots := c.slots.map (fun y =>
      (y.1, { y.2 with stale := y.2.stale ++ (y.2.fly.filter (fun f => dKind y.2.desc == 1 && decide (lo ≤ f.2 / 256) &&
        decide (f.2 / 256 ≤ hi) && !y.2.stale.contains f.1)).map Prod.fst })) }

/-- Remove granules from every stack cache of a partition, and keep the line fills in flight from installing them (R234). -/
def uncache (s : State) (p spa n : Nat) : State :=
  if !(s.entry p).cached || n = 0 then s
  else
    let x := s.xlate p
    let lo := spa / 256
    let hi := (spa + n - 1) / 256
    let keep (g : Nat) : Bool := decide (g < lo) || decide (hi < g)
    onCores (s.setXlate p { x with cache := x.cache.map (fun l => (l.1, l.2.filter keep))
                                   badLn := x.badLn.filter (fun b => keep (b % 2 ^ 34)) }) p (fun c => staleFills c lo hi)

/-- Write a range of stack memory: a write of part of a codeword merges, one of all of it stores a fresh codeword
(R226, R229, R234). -/
def stkWrite (s : State) (p spa : Nat) (bs : Bytes) : State :=
  let n := bs.length
  let whole (cw : Nat) : Bool := decide (spa ≤ 64 * cw) && decide (64 * cw + 64 ≤ spa + n)
  let cws := cwsOf spa n
  let s := (cws.filter (fun c => !whole c)).foldl (fun s cw => checkCw s p cw) s
  let m := s.mems.stk
  let fresh (c : Nat) : Bool := !(cws.contains c && whole c)
  let s := s.setStk { bytes := putBytes m.bytes spa bs, poisoned := m.poisoned.filter fresh,
                      damaged := m.damaged.filter fresh, soft := m.soft.filter fresh }
  uncache s p spa n

/-! ### The stack cache (R231 to R235) -/

/-- Beds of a partition on a die. -/
def bedsOnDie (s : State) (p die : Nat) : Nat := ((upto 4).filter (fun b => bit (s.entry p).beds (4 * die + b))).length

/-- First pool byte of a partition's share on a die (R231). -/
def shareBase (s : State) (p die : Nat) : Nat :=
  67108864 * (((upto p).filter (fun q => (s.entry q).used)).map (fun q => bedsOnDie s q die)).foldl (· + ·) 0

/-- Bytes of a share that streams of kind 0x3 see (R231, R232). -/
def shareBytes (s : State) (p die : Nat) : Nat :=
  let b := 67108864 * bedsOnDie s p die
  if (s.entry p).cached then b / 2 else b

/-- Sets of a die's stack cache of a partition: half the share, 16 ways of 256 B. -/
def cacheSets (s : State) (p die : Nat) : Nat := 8192 * bedsOnDie s p die

/-- The key of a cache set: die and set. -/
def cacheKey (s : State) (p die g : Nat) : Nat := die * 2 ^ 20 + g % max 1 (cacheSets s p die)

/-- A lookup by a core of a die for a granule, with hit and miss counts; a missed line is installed unless `bad`, and a line that
leaves the set takes its parity mark with it (R233, R235). Nothing is looked up in explicit mode. -/
def cacheLook (s : State) (p die g : Nat) (bad : Bool) : State :=
  if !(s.entry p).cached then s
  else
    let x := s.xlate p
    let key := cacheKey s p die g
    let set := Tbl.get [] x.cache key
    let line (g : Nat) : Nat := die * 2 ^ 34 + g
    if set.contains g && !x.badLn.contains (line g) then
      s.setXlate p { x with chit := satAdd 64 x.chit 1, cache := Tbl.set x.cache key (g :: set.filter (· != g)) }
    else
      let x := if set.contains g then { x with cperr := inc32 x.cperr } else x
      let set := set.filter (· != g)
      let out := g :: (if bad then [] else set.drop 15)
      s.setXlate p { x with cmiss := satAdd 64 x.cmiss 1, cache := Tbl.set x.cache key (if bad then set else (g :: set).take 16)
                            badLn := x.badLn.filter (fun b => !out.any (fun g => line g == b)) }

/-- Whether a core of a die reads a granule from the stack cache: a hit does not read the stack (R233). -/
def cacheHit (s : State) (p die g : Nat) : Bool :=
  let x := s.xlate p
  (s.entry p).cached && (Tbl.get [] x.cache (cacheKey s p die g)).contains g && !x.badLn.contains (die * 2 ^ 34 + g)

/-! ### Reads of streams (R173, R226, R236) -/

/-- Group requested pieces that are contiguous in one granule: sequence offset, physical address and length. -/
def pieceRuns : List (Nat × Nat) → List (Nat × Nat × Nat)
  | [] => []
  | (q, a) :: t =>
    match pieceRuns t with
    | (q2, a2, l2) :: u => if q2 = q + 16 && a2 = a + 16 && a2 / 256 = a / 256 then (q, a, l2 + 16) :: u else (q, a, 16) :: (q2, a2, l2) :: u
    | [] => [(q, a, 16)]

/-- Read stack bytes of one granule for a core of a die through its partition's stack cache: whether bytes asked for are poisoned,
the bytes, the state. A read that misses in cached mode reads and checks the whole line, and installs it unless a write has overtaken
it or a codeword of it is poisoned; what is read from the stack is metered to the context (R225 to R227, R233, R234, R389). -/
def readStackAt (s : State) (key die spa len : Nat) (fill : Bool) : Bool × Bytes × State :=
  let p := keyPart key
  let g := spa / 256
  let hit := cacheHit s p die g
  let line := (s.entry p).cached
  let (a, n) := if hit then (spa, 0) else if line then (256 * g, 256) else (spa, len)
  let (bad, s1) := checkRange (if hit then s else useStack s key n) p a n
  let s2 := cacheLook s1 p die g (bad || !fill)
  let (bs, s3) := stkRead s2 spa len
  (!hit && (cwsOf spa len).any (poisonedCw s1), bs, s3)

/-- Whether no write has overtaken the n bytes that a slot has in flight at a sequence offset (R234). -/
def fillOk (x : Slot) (q n : Nat) : Bool := !x.stale.any (fun o => decide (q ≤ o) && decide (o < q + n))

/-- Marks a requester's offset as an index read. -/
def idxMark : Nat := 2 ^ 60
/-- Marks an index read as one of the second block of a word that straddles two (R170, R236). -/
def idxNext : Nat := 2 ^ 59

/-- The first byte of the block an index read names: that of the word's first byte, or the next (R236). -/
def idxBlock (x : Slot) (off : Nat) : Nat :=
  let i := off - idxMark
  (dWord x.desc 7 + 4 * (i % idxNext)) / 64 * 64 + (if idxNext ≤ i then 64 else 0)

/-- Whether the requester of an entry still waits: its command runs and its slot holds the same stream. -/
def reqLive (s : State) (r : Nat × Nat × Nat) : Bool :=
  let x := (s.core r.1).slot (r.2.1 % 8)
  (s.core r.1).cmd.isSome && x.active && x.seq == r.2.1 / 8

/-- The pieces of a row request that its slot has in flight to a granule. -/
def rowPieces (x : Slot) (granule off : Nat) : List (Nat × Nat) :=
  let lim := min (256 - slotAddr x off % 256) (dExtent x.desc 0 - off % dExtent x.desc 0)
  x.fly.filter (fun f => decide (off ≤ f.1) && decide (f.1 < off + lim) && decide (f.2 / 256 = granule))

/-- The stack-physical bytes a live requester asks of an entry: first byte and length. -/
def reqSpan (s : State) (e : SortEnt) (r : Nat × Nat × Nat) : Nat × Nat :=
  let x := (s.core r.1).slot (r.2.1 % 8)
  if idxMark ≤ r.2.2 then (256 * e.granule + idxBlock x r.2.2 % 256, 64)
  else let ps := rowPieces x e.granule r.2.2; ((ps.headD (0, 0)).2, 16 * ps.length)

/-- The stack is read once for an entry: what its live requesters ask is checked, and its bytes are metered to the context of the
first (R226, R238, R389). -/
def entryRead (s : State) (e : SortEnt) : State :=
  match e.reqs.filter (reqLive s) with
  | [] => s
  | r :: rs =>
    let spans := (r :: rs).map (reqSpan s e)
    let pieces := (upto 16).filter (fun j => spans.any (fun x =>
      decide (x.1 < 256 * e.granule + 16 * j + 16) && decide (256 * e.granule + 16 * j < x.1 + x.2)))
    let s := match (s.core r.1).cmd with
      | some m => useStack s m.key (16 * pieces.length)
      | none => s
    (spans.flatMap (fun x => cwsOf x.1 x.2)).eraseDups.foldl (fun s cw => checkCw s e.part cw) s

/-! ### Reads in flight at a stop (R194) -/

/-- The runs of stack bytes that a slot of a contiguous or strided ST.IN has in flight, each with whether its line may be installed. -/
def flyRuns (x : Slot) : List (Nat × Nat × Bool) :=
  if x.active && x.op == .stIn && dKind x.desc == 1 then (pieceRuns x.fly).map (fun r => (r.2.1, r.2.2, fillOk x r.1 r.2.2)) else []

/-- The reads in flight of a stopped core complete into discard, at the stop: what they read is checked and metered, and what its
gathers asked leaves the sorters (R194, R226, R389; DESIGN CHOICE, log 68). -/
def discardReads (s : State) (key n : Nat) : State :=
  let c := s.core n
  let s := (c.slots.flatMap (fun y => flyRuns y.2)).foldl (fun s r =>
    (readStackAt s key (n / 64) r.1 r.2.1 r.2.2).2.2) s
  let s := c.slots.foldl (fun s y => if y.2.active && y.2.op == .stIn && dKind y.2.desc == 2 then useHost s key (16 * y.2.fly.length) else s) s
  let mine (r : Nat × Nat × Nat) : Bool := r.1 == n
  let es := s.units.stkCtl.flatMap (fun k => k.2.sorter.filter (fun e => e.reqs.any mine))
  let s := es.foldl (fun s e => entryRead s { e with reqs := e.reqs.filter mine }) s
  let keep (e : SortEnt) : Option SortEnt :=
    let rs := e.reqs.filter (fun r => !mine r)
    if rs.isEmpty && !e.reqs.isEmpty then none else some { e with reqs := rs }
  { s with units := { s.units with stkCtl := s.units.stkCtl.map (fun k => (k.1, { k.2 with sorter := k.2.sorter.filterMap keep })) } }

/-- The walks of stopped cores leave the walker of their partition (R194, R221). -/
def dropWalks (s : State) (p : Nat) (cores : List Nat) : State :=
  let x := s.xlate p
  s.setXlate p { x with walks := x.walks.filter (fun w => !cores.contains w.1) }

end Sys2Proof.Machine
end

