-- ==== Sys2Proof/Machine/CtxOps.lean ====
section
/-! DEFINITION. Sys2Proof/Machine/CtxOps.lean: stopping a command on its cores (R161, R194, R212), completing commands
(R360, R369 to R371), tearing contexts down (R356) and ending them without records (R351). -/

namespace Sys2Proof.Machine

/-! ### Completion statuses (R371) -/

/-- OK. -/
def stOk : Nat := 0x00
/-- UNIT_ABSENT. -/
def stUnitAbsent : Nat := 0x01
/-- IMAGE_REJECTED. -/
def stImageRejected : Nat := 0x02
/-- REGION_TOO_SMALL. -/
def stRegionTooSmall : Nat := 0x03
/-- LANTERN_SHORTAGE. -/
def stLanternShortage : Nat := 0x04
/-- COMMAND_MALFORMED. -/
def stMalformed : Nat := 0x05
/-- PARAM_UNMAPPED. -/
def stParamUnmapped : Nat := 0x06
/-- INTEGRITY_FAILED. -/
def stIntegrity : Nat := 0x07
/-- TENANT_MISMATCH. -/
def stTenant : Nat := 0x08
/-- QUEUE_FETCH_ERROR. -/
def stFetchError : Nat := 0x09
/-- CANCELLED. -/
def stCancelled : Nat := 0x0A
/-- ABORTED_BY_FAULT. -/
def stAborted : Nat := 0x0B
/-- PARITY_ABORT. -/
def stParity : Nat := 0x0C
/-- STACK_UNCORRECTABLE. -/
def stStackUnc : Nat := 0x0D
/-- PAGE_FAULT_UNSERVICED. -/
def stPageFault : Nat := 0x0E
/-- TABLE_UNAVAILABLE. -/
def stTable : Nat := 0x0F
/-- WATCHDOG_EXPIRED. -/
def stWatchdog : Nat := 0x10
/-- BED_WITHDRAWN. -/
def stBedWithdrawn : Nat := 0x11
/-- JOB_HALTED. -/
def stJobHalted : Nat := 0x12
/-- RESERVATION_TOO_LARGE. -/
def stReservation : Nat := 0x13
/-- UPDATE_UNMAPPED. -/
def stUpdUnmapped : Nat := 0x14
/-- GRADIENT_INCOMPLETE. -/
def stGradIncomplete : Nat := 0x15
/-- CONTRIBUTOR_RANGE. -/
def stContrib : Nat := 0x16
/-- GRADIENT_NONFINITE. -/
def stNonfinite : Nat := 0x17
/-- UPDATE_STATE_LOST. -/
def stStateLost : Nat := 0x18
/-- JOB_AUTH_FAILED. -/
def stJobAuth : Nat := 0x19
/-- EPOCH_ORDER. -/
def stEpochOrder : Nat := 0x1A
/-- VARIANT_MISMATCH. -/
def stVariant : Nat := 0x1B
/-- RESUME_STATE. -/
def stResume : Nat := 0x1C
/-- REBUILD_GROUP_ABSENT. -/
def stGroupAbsent : Nat := 0x1D
/-- REBUILD_SOURCE_LOST. -/
def stSourceLost : Nat := 0x1E
/-- REBUILD_CHECK_FAILED. -/
def stCheckFailed : Nat := 0x1F
/-- REPLAY_MISMATCH. -/
def stReplayMismatch : Nat := 0x20
/-- REPLAY_NO_REFERENCE. -/
def stNoReference : Nat := 0x21
/-- LAYOUT_BUSY. -/
def stLayoutBusy : Nat := 0x22
/-- SIGNATURE_FAILED. -/
def stSignature : Nat := 0x23
/-- GATHERER_FULL. -/
def stGathererFull : Nat := 0x24

/-- Whether a status stops its context (R371). -/
def stops (st : Nat) : Bool := [0x07, 0x08, 0x0C, 0x0D, 0x0E, 0x0F, 0x10, 0x11].contains st

/-- The host-write frontier a completion reports (R369, R370). -/
structure Front where
  valid  : Bool := false
  slot   : Nat := 0
  desc   : Nat := 0
  core   : Nat := 0
  cut    : Nat := 0
  offset : Nat := 0
  deriving DecidableEq, Repr

/-- What a completion carries beside its command's own flags (R369). -/
structure Compl where
  status  : Nat
  result  : Nat := 0
  result2 : Nat := 0
  notStarted : Bool := false
  front   : Front := {}
  deriving DecidableEq, Repr

/-- The 24 bytes of a completion record before its TAG (R369). -/
def recordHead (c : Cmd) (phase : Bool) (x : Compl) : Bytes :=
  let st := b2n phase * 2 ^ 31 + b2n c.formula * 2 ^ 30 + b2n x.notStarted * 2 ^ 29 + b2n x.front.valid * 2 ^ 28 +
    flagBits c.flags * 2 ^ 23 + x.front.slot % 8 * 2 ^ 20 + x.front.desc % 4096 * 2 ^ 8 + x.status % 256
  natLe 4 c.desc.cmdId ++ natLe 4 st ++ natLe 4 x.result ++ natLe 4 x.result2 ++
    natLe 8 (x.front.core % 256 * 2 ^ 56 + min x.front.cut 255 * 2 ^ 48 + x.front.offset % 2 ^ 48)

/-- Whether two records differ from free: records in a completion ring of a queue (R360). -/
def cqSize (q : Queue) : Nat := 2 ^ q.cqLog2

/-- Unread records of a completion ring (R360). -/
def cqUnread (q : Queue) : Nat := (q.tail + cqSize q - q.head) % cqSize q

/-- Free records of a completion ring (R360). -/
def cqFree (q : Queue) : Nat := cqSize q - 1 - cqUnread q

/-- The queue after one record has been written (R360, R369). -/
def cqPush (q : Queue) : Queue :=
  if q.tail + 1 = cqSize q then { q with tail := 0, phase := !q.phase } else { q with tail := q.tail + 1 }

/-- TAG of a record: keyed QF2 queues carry the leftmost 64 bits of the CMAC, first byte first (R369). -/
def recordTag (q : Queue) (keyed : Bool) (key : Nat) (head : Bytes) : Bytes :=
  natBe 8 (if q.sqFmt = 2 && keyed then Config.cmac key head / 2 ^ 64 else 0)

/-- Change an uncompleted command. -/
def updCmd (s : State) (k id : Nat) (f : Cmd → Cmd) : State :=
  let c := s.ctx k
  s.setCtx k { c with q := { c.q with cmds := c.q.cmds.map (fun m => if m.id = id then f m else m) } }

/-- Complete a command of a context: its record, its flags, its event, and the effect on the context (R53, R360, R369,
R371, R373). A command that is not outstanding completes nothing, and one of a context that a reset ends, or that a
warm restart stops, leaves no record (R351, R446). -/
def complete (s : State) (k id : Nat) (x : Compl) : State :=
  let s := settleGrant s k id
  let s := { s with alm := { s.alm with dueQ := s.alm.dueQ.filter (· != (k, id)) } }
  let c := s.ctx k
  match c.q.cmds.find? (fun m => m.id == id) with
  | none => s
  | some m =>
    let s := endEligible (chargeEst s k m x.notStarted) k m
    if c.td.any Teardown.reset || s.boot.warming then s.setCtx k { c with q := { c.q with cmds := c.q.cmds.filter (fun n => n.id != id) } }
    else
    let head := recordHead m c.q.phase x
    let bytes := head ++ recordTag c.q c.keyed c.key head
    let s := s.hostWrite (s.entry (keyPart k)).port (c.q.cqBase + 32 * c.q.tail) bytes
    let q := cqPush { c.q with cmds := c.q.cmds.filter (fun n => n.id != id) }
    let staged := (m.desc.opcode == 0x11 || m.desc.opcode == 0x12) && m.phase == .issued
    let st := if staged then { c.stage with run := false, ask := .waiting } else c.stage
    let s := s.setCtx k { c with q := q, flags := orFlags c.flags m.flags, stage := st }
    let s := if m.desc.irq then ctxEvent s k 0 else s
    if stops x.status && (c.state == .open || c.state == .stopped) then
      let s := s.setCtx k { s.ctx k with stopStat := x.status }
      setCtxState s k .stopped
    else s

/-- Complete a command of the management queue of a port (R362). -/
def completeMgmt (s : State) (n id : Nat) (x : Compl) : State :=
  let q := s.mq n
  match q.cmds.find? (fun m => m.id == id) with
  | none => s
  | some m =>
    let head := recordHead m q.phase x
    let s := s.hostWrite n (q.cqBase + 32 * q.tail) (head ++ natLe 8 0)
    let s := s.setMq n (cqPush { q with cmds := q.cmds.filter (fun c => c.id != id) })
    if m.desc.irq then sendIrq s n 0 q.cqVec else s

/-! ### Stopping a command on its cores -/

/-- The waiter-mask bit of a core's task at a lantern (R196). -/
def waitBit (scope core task : Nat) : Nat :=
  match scope with
  | 0 => task
  | 1 => 4 * (core % 16) + task
  | 2 => 16 * (core / 16 % 4) + core % 16
  | _ => core / 16

/-- The lantern number a task is held on. -/
def heldOn : Hold → Option Nat
  | .wait l _ _ => some l
  | .consume l _ _ => some l
  | _ => none

/-- The waiter mask of a lantern from the tasks that are held on it. -/
def maskOf (s : State) (e : Lantern) : Nat :=
  ((logicalCores s e.part).flatMap (fun n =>
    ((s.core n).tasks.filter (fun t => heldOn t.2.hold == some e.num)).map (fun t => waitBit e.scope n t.1))).foldl
    (fun m b => m ||| 2 ^ b) 0

/-- Recompute the waiter masks of a partition's lanterns (R196, R212). -/
def refreshMasks (s : State) (p : Nat) : State :=
  { s with units := { s.units with
      lnt := s.units.lnt.map (fun x => if x.2.alloc && x.2.part == p then (x.1, { x.2 with mask := maskOf s x.2 }) else x) } }

/-- Drop the consume requests of some cores (R212). -/
def dropWaiters (s : State) (p : Nat) (cores : List Nat) : State :=
  { s with units := { s.units with
      lnt := s.units.lnt.map (fun x =>
        if x.2.alloc && x.2.part == p then
          (x.1, { x.2 with queue := x.2.queue.filter (fun w => !cores.contains w.core),
                           held := x.2.held.filter (fun w => !cores.contains w.core) })
        else x) } }

/-- The unique number of one opening of a context (R158). -/
def openingId (s : State) (k : Nat) : Nat := k * 2 ^ 32 + (s.ctx k).opening

/-- Whether a slot is a host-kind ST.OUT that has not completed (R370). -/
def hostCut (x : Slot) : Bool := x.active && x.op == .stOut && dKind x.desc == 2

/-- The frontier of the lowest cut slot of one core (R370). -/
def coreFront (c : Core) (lcore : Nat) : Front :=
  match c.slots.find? (fun x => hostCut x.2) with
  | none => {}
  | some (i, x) => { valid := true, slot := i, desc := x.descNo, core := lcore, offset := x.issued }

/-- Cut-off host streams of a core. -/
def coreCuts (c : Core) : Nat := (c.slots.filter (fun x => hostCut x.2)).length

/-- Discard a slot's prefetch buffer, counted as waste (R184, R194). -/
def wasteOf (x : Slot) : Nat := (x.pf.map (fun y => y.2.length)).foldl (· + ·) 0

/-- A core whose command has stopped or ended with a status: nothing waits or runs any more; its slots are released, whose
registers keep their record (R161, R181, R194, R212). The window and region registers keep VALID and their values until the next
start resets them (R156; DESIGN CHOICE, log 62). -/
def quietCore (c : Core) (opening status : Nat) : Core :=
  { c with
    cmd := none
    tasks := c.tasks.map (fun t => (t.1, { t.2 with hold := .none }))
    q := {}
    lnOut := []
    shadow := none
    slots := c.slots.map (fun x => (x.1, { x.2 with active := false, stopped := x.2.active, pf := [], fly := [], chain := [], walking := false }))
    cnt := { c.cnt with pfWaste := satAdd 64 c.cnt.pfWaste ((c.slots.map (fun x => wasteOf x.2)).foldl (· + ·) 0) }
    last := some (opening, status) }

/-- The logical cores, in increasing order, of the physical cores that still run a command. -/
def runCores (s : State) (p : Nat) : List (Nat × Nat) :=
  match (s.sched p).run with
  | none => []
  | some r => r.cores.map (fun n => (logicalOf s p n, n))

/-- The frontier a stop reports: lowest logical core and lowest slot, with the number of streams cut (R369, R370). -/
def stopFront (s : State) (p : Nat) : Front :=
  let cs := runCores s p
  let cut := (cs.map (fun x => coreCuts (s.core x.2))).foldl (· + ·) 0
  match (cs.map (fun x => coreFront (s.core x.2) x.1)).find? Front.valid with
  | none => {}
  | some f => { f with cut := cut }

/-- Add the flags and the formula-mode indication of a core to the command that ran on it (R53, R136). -/
def gatherFlags (s : State) (k id : Nat) (c : Core) : State :=
  updCmd s k id (fun m => { m with flags := orFlags m.flags c.flags, formula := m.formula || c.formula })

/-- End the running command of a partition on every core it still runs on, recording the status for the clear rule. -/
def quietRun (s : State) (p status : Nat) : State :=
  match (s.sched p).run with
  | none => s
  | some r =>
    let s := r.cores.foldl (fun s n => discardReads s r.key n) s
    let s := r.cores.foldl (fun s n =>
      (gatherFlags s r.key r.cmd (s.core n)).setCore n (quietCore (s.core n) (openingId s r.key) status)) s
    let s := r.all.foldl (fun s n => s.setCore n { s.core n with last := some (openingId s r.key, status) }) s
    let s := dropWalks (dropWaiters s p r.cores) p r.cores
    refreshMasks (s.setSched p { s.sched p with run := none }) p

/-- STEP of PT_STG_STAT: n of the running or last STAGE (R289). -/
def shownStep (t : StageState) : Nat := if t.probe then t.lastStep else t.step

/-- ENTRY of PT_STG_POS: the head entry of the running or last STAGE (R289). -/
def shownEntry (t : StageState) : Nat := if t.probe then t.lastEntry else t.entry

/-- The index of the entry that an issued STAGE stands at, for RESULT2; zero for any other command (R288, R369). -/
def stageResult2 (s : State) (k : Nat) (m : Cmd) : Nat :=
  if m.desc.opcode = 0x11 && m.phase = .issued then (s.ctx k).stage.entry else 0

/-- What the record of a command carries that ends with a status before its own end: NOT_STARTED if it had not issued, the
entry of a STAGE (R288, R369). -/
def cutCompl (s : State) (k status : Nat) (m : Cmd) : Compl :=
  { status := status, notStarted := m.phase != .issued, result2 := stageResult2 s k m }

/-- What the record of the running core-class command of a partition carries when it stops (R288, R369, R370). -/
def stopCompl (s : State) (p status result : Nat) (r : Running) : Compl :=
  let r2 := match (s.ctx r.key).q.cmds.find? (fun m => m.id == r.cmd) with
    | some m => stageResult2 s r.key m
    | none => 0
  { status := status, result := result, result2 := r2, front := stopFront s p }

/-- Stop the running core-class command of a partition and complete it with a status (R161, R194, R288). -/
def stopRun (s : State) (p status result : Nat) : State :=
  match (s.sched p).run with
  | none => s
  | some r => complete (quietRun s p status) r.key r.cmd (stopCompl s p status result r)

/-! ### Teardown -/

/-- A free lantern entry (R213). -/
def freeLanterns (s : State) (k : Nat) : State :=
  { s with units := { s.units with
      lnt := s.units.lnt.filter (fun x => !(x.2.alloc && x.2.part == keyPart k && x.2.ctx == keyCtx k)) } }

/-- Remove a context's decode sets with their reservations (R356 action 5). -/
def dropSets (s : State) (k : Nat) : State :=
  { s with units := { s.units with dsets := s.units.dsets.filter (fun x => x.2.key != k) } }

/-- Unload the image of a context and free its lanterns (R213, R362). -/
def unloadImage (s : State) (k : Nat) : State :=
  let c := s.ctx k
  let s := match c.image with
    | some img => if img.prot.isSome then s.setProt (keyPart k) { s.prot (keyPart k) with valid := false } else s
    | none => s
  freeLanterns (s.setCtx k { c with image := none }) k

/-- Whether an engine-class command keeps running through a teardown or JOB_HALT: an update whose norm target event has
fired (R334, R356 action 3). -/
def sweepRuns (s : State) (k id : Nat) : Bool :=
  let u := s.upd (keyPart k)
  u.cmd == some (k, id) && u.normSeen

/-- Every engine's norm accumulator starts at zero again: an UPDATE has completed (R253). -/
def clearAcc (u : UpdPart) : UpdPart := { u with eng := u.eng.map (fun x => (x.1, { x.2 with acc := 0, nonfin := false })) }

/-- End an engine-class command at its record boundary: an UPDATE leaves its norm accumulators cleared, and pages whose lost records no
engine has written stay update-pending (R27, R253, R356 action 3). -/
def stopEngine (s : State) (p : Nat) : State :=
  let u := s.upd p
  let y := s.prot p
  let s := s.setUpd p { (if u.cmd.isSome then clearAcc u else u) with cmd := none, phase := .idle, xlat := [], ask := .waiting }
  (s.setProt p { y with rb := none, rebuilding := false }).setSched p { s.sched p with eng := none }

/-- Whether an opcode is of an engine-class command (R362). -/
def engOpcode (op : Nat) : Bool := op == 0x20 || op == 0x21 || op == 0x34

/-- The commands of a context in submission order, each completed with one status: the issued core-class, gatherer-class and
control-class ones first, of which `core` names the one that ran on the cores and what its record carries, then those that
have not issued, then the engine-class one that has stopped (R356 actions 2 to 4). -/
def completeAll (s : State) (k status : Nat) (core : Option (Nat × Compl)) : State :=
  let cmds := (s.ctx k).q.cmds
  let go (s : State) (m : Cmd) : State :=
    if sweepRuns s k m.id then s
    else complete s k m.id (match core with
      | some (id, x) => if id = m.id then x else cutCompl s k status m
      | none => cutCompl s k status m)
  let eng (m : Cmd) : Bool := engOpcode m.desc.opcode
  let s := (cmds.filter (fun m => m.phase == .issued && !eng m)).foldl go s
  let s := (cmds.filter (fun m => m.phase != .issued)).foldl go s
  (cmds.filter (fun m => m.phase == .issued && eng m)).foldl go s

/-- Stop what runs of a context on the cores, and its engine-class command unless its sweep goes on: the state, and the
command that ran on the cores with what its record carries (R356 actions 2 and 3). -/
def stopCtx (s : State) (k status : Nat) : State × Option (Nat × Compl) :=
  let p := keyPart k
  let (s, core) := match (s.sched p).run with
    | some r => if r.key = k then (quietRun s p status, some (r.cmd, stopCompl s p status 0 r)) else (s, none)
    | none => (s, none)
  let s := match (s.sched p).eng with
    | some (k', id) => if k' = k && !sweepRuns s k id then stopEngine s p else s
    | none => s
  (s, core)

/-- Actions 1 to 4 of R356, as far as the fetched commands go. Actions 5 and 6 are a command of their own, once the remaining
submitted descriptors have been fetched and completed. -/
def teardown (s : State) (k status cause core cmdId : Nat) (fault : Bool) : State :=
  let c := s.ctx k
  if c.state = .open || c.state = .stopped then
    let s := s.setCtx k { c with
      td := some { status := status, fault := fault }
      fltValid := c.fltValid || fault
      fltCause := if fault then cause else c.fltCause
      fltCore := if fault then core else c.fltCore
      fltCmd := if fault then cmdId else c.fltCmd }
    let s := setCtxState s k .tearingDown
    let s := report s 55 (evtOf 0x007 1 0xFF k cause)
    let (s, core) := stopCtx s k status
    completeAll s k status core
  else s

/-- Descriptors submitted and not yet fetched (R357, R358). -/
def unfetched (q : Queue) : Nat :=
  if q.sqFmt = 1 then (q.sub + 2 ^ q.sqLog2 - q.pos) % 2 ^ q.sqLog2
  else if q.sqFmt = 2 then (q.sub + 2 ^ 32 - q.fetch % 2 ^ 32) % 2 ^ 32 else 0

/-- The submitted descriptors of a context that are not yet fetched, and that nothing has ended before, complete with a status
as they are fetched (R334, R344, R355). -/
def cutRest (s : State) (k status : Nat) : State :=
  let c := s.ctx k
  let n := unfetched c.q - (c.cut.map Prod.fst).foldl (· + ·) 0
  if n = 0 then s else s.setCtx k { c with cut := c.cut ++ [(n, status)] }

/-- The same of those submitted before the doorbell write number `no` (R364). -/
def cutBefore (s : State) (k status no : Nat) : State :=
  let c := s.ctx k
  let n := ((c.q.subs.filter (fun x => decide (x.2 < no))).map Prod.fst).foldl (· + ·) 0 - (c.cut.map Prod.fst).foldl (· + ·) 0
  if n = 0 then s else s.setCtx k { c with cut := c.cut ++ [(n, status)] }

/-- The runs of ended, or of submitted, descriptors after one has been fetched. -/
def cutNext : List (Nat × Nat) → List (Nat × Nat)
  | [] => []
  | (n, st) :: l => if n ≤ 1 then l else (n - 1, st) :: l

/-- The commands of a context end without records, but for an update whose sweep goes on: their grants are settled (R351, R356, R407). -/
def dropCmds (s : State) (k : Nat) : State :=
  let gone := (s.ctx k).q.cmds.filter (fun m => !sweepRuns s k m.id)
  let s := gone.foldl (fun s m => endEligible (settleGrant s k m.id) k m) s
  let s := { s with alm := { s.alm with dueQ := s.alm.dueQ.filter (fun d => d.1 != k || !gone.any (fun m => m.id == d.2)) } }
  let c := s.ctx k
  s.setCtx k { c with q := { c.q with cmds := c.q.cmds.filter (fun m => !gone.any (fun x => x.id == m.id)) } }

/-- A context ends as R351 gives: no records, everything of it stopped, its usage record closed with some flags, CLOSED,
both blocks at their reset values. -/
def endContext (s : State) (k flags : Nat) : State :=
  let c := s.ctx k
  if c.state = .closed then s
  else
    let p := keyPart k
    let s := match (s.sched p).run with
      | some r => if r.key = k then quietRun s p stAborted else s
      | none => s
    let s := match (s.sched p).eng with
      | some (k', _) => if k' = k then stopEngine s p else s
      | none => s
    let s := unloadImage (dropSets (dropCmds s k) k) k
    let s := usageClose s k (flags ||| (if c.td.any Teardown.fault then fFault else 0))
    s.setCtx k { opening := c.opening + 1 }

/-- A function-level reset ends a context: at once, or when the sweep of an UPDATE whose norm target event has fired has
ended; the Belvedere and PT_CTX_FAULT record its teardown with cause TDISP (R350, R351, R356 actions 1 and 3). -/
def resetContext (s : State) (k : Nat) : State :=
  let p := keyPart k
  let u := s.upd p
  let c := s.ctx k
  let s := if c.state = .open || c.state = .stopped then report s 55 (evtOf 0x007 1 0xFF k 5) else s
  if c.state = .closed then s
  else if u.normSeen && u.cmd.map Prod.fst == some k then
    let s := match (s.sched p).run with
      | some r => if r.key = k then quietRun s p stAborted else s
      | none => s
    let s := dropCmds s k
    let s := setCtxState s k .tearingDown
    let c := s.ctx k
    s.setCtx k { c with td := some { status := stAborted, fault := false, reset := true }
                        fltValid := true, fltCause := 5, fltCore := 0, fltCmd := 0 }
  else endContext s k fReset

end Sys2Proof.Machine
end

