-- ==== Sys2Proof/Machine/UpdPlan.lean ====
section
/-! DEFINITION. Sys2Proof/Machine/UpdPlan.lean: the fields of an update plan and of a step parameter block (R244 to
R248). -/

namespace Sys2Proof.Machine

/-- Word k of a plan entry. -/
def gWord (g : List Nat) (k : Nat) : Nat := g.getD k 0
/-- OPT. -/
def gOpt (g : List Nat) : Nat := bits (gWord g 0) 60 4
/-- MODE: compact. -/
def gCompact (g : List Nat) : Bool := bit (gWord g 0) 59
/-- HSET. -/
def gHset (g : List Nat) : Nat := bits (gWord g 0) 55 4
/-- DFWD. -/
def gDfwd (g : List Nat) : Bool := bit (gWord g 0) 54
/-- DBWD. -/
def gDbwd (g : List Nat) : Bool := bit (gWord g 0) 53
/-- DFMT. -/
def gDfmt (g : List Nat) : Nat := bits (gWord g 0) 49 4
/-- DSAT. -/
def gDsat (g : List Nat) : Nat := bits (gWord g 0) 48 1
/-- TILED. -/
def gTiled (g : List Nat) : Bool := bit (gWord g 0) 47
/-- PARAM_BASE. -/
def gBase (g : List Nat) : Nat := gWord g 1
/-- Tile rows. -/
def gTr (g : List Nat) : Nat := bits (gWord g 2) 32 16
/-- Tile columns. -/
def gTc (g : List Nat) : Nat := bits (gWord g 2) 16 16
/-- Parameter count. -/
def gCount (g : List Nat) : Nat := if gTiled g then gTr g * gTc g * 16384 else bits (gWord g 2) 0 40
/-- Records of a segment (R244). -/
def gRecs (g : List Nat) : Nat := gCount g / 64
/-- W_VA. -/
def gW (g : List Nat) : Nat := gWord g 3
/-- L_VA. -/
def gL (g : List Nat) : Nat := gWord g 4
/-- M_VA. -/
def gM (g : List Nat) : Nat := gWord g 5
/-- S_VA. -/
def gS (g : List Nat) : Nat := gWord g 6
/-- G_VA. -/
def gG (g : List Nat) : Nat := gWord g 7
/-- C_VA. -/
def gC (g : List Nat) : Nat := gWord g 8
/-- DF_VA. -/
def gDf (g : List Nat) : Nat := gWord g 9
/-- DB_VA. -/
def gDb (g : List Nat) : Nat := gWord g 10
/-- Landing blocks of a segment: 32,768 BF16 values each, the last the remainder (R250). -/
def gBlocks (g : List Nat) : Nat := cdiv (gCount g) 32768

/-- Bytes of one derived-copy record and the tiles it joins (R263): FP8 tiles carry no scales, MX tiles 512 B, and an
MXFP4 record joins two tiles with 1 KiB of scales. -/
def derRec (fmt : Nat) : Nat × Nat :=
  if fmt = 9 then (16384 + 1024, 2) else if isMx fmt then (16384 + 512, 1) else (16384, 1)
/-- Bytes of a derived copy. -/
def derBytes (g : List Nat) : Nat := gTr g * gTc g / (derRec (gDfmt g)).2 * (derRec (gDfmt g)).1

/-- Bytes of a moment area: elements, then one exponent byte per record (R246). -/
def momBytes (n : Nat) : Nat := n + n / 64
/-- Bytes of the second-moment area: of AdamW as of the first moment; factored, of row and then column statistics. -/
def sBytes (g : List Nat) : Nat :=
  if gOpt g = 4 then momBytes (128 * gTr g) + momBytes (128 * gTc g) else if gOpt g = 1 then momBytes (gCount g) else 0

/-- Every area a plan entry names, as first address, bytes, and whether it must be writable (R246, R249). -/
def gAreas (g : List Nat) : List (Nat × Nat × Bool) :=
  [(gW g, 2 * gCount g, true), (gM g, momBytes (gCount g), true), (gG g, 2 * gCount g, false), (gC g, 4 * gRecs g, true)] ++
  (if gCompact g then [] else [(gL g, 2 * gCount g, true)]) ++
  (if sBytes g = 0 then [] else [(gS g, sBytes g, true)]) ++
  (if gDfwd g then [(gDf g, derBytes g, true)] else []) ++
  (if gDbwd g then [(gDb g, derBytes g, true)] else [])

/-- The 2 MiB pages that a byte range touches. -/
def pagesOf (a n : Nat) : List Nat := if n = 0 then [] else (upto ((a + n - 1) / 2097152 - a / 2097152 + 1)).map (· + a / 2097152)

/-- The compute-region pages of a plan (R264). -/
def computePages (plan : List (List (List Nat))) : List Nat :=
  (plan.flatMap (fun segs => segs.flatMap (fun g =>
    pagesOf (gW g) (2 * gCount g) ++ (if gDfwd g then pagesOf (gDf g) (derBytes g) else []) ++
      (if gDbwd g then pagesOf (gDb g) (derBytes g) else [])))).eraseDups

/-- Landing blocks of a plan on all dies. -/
def planBlocks (plan : List (List (List Nat))) : Nat := ((plan.flatMap (fun segs => segs.map gBlocks))).foldl (· + ·) 0

/-- Present engines of a die, as local numbers in increasing order (R244). -/
def dieEngines (v : Variant) (d : Nat) : List Nat := (upto 3).filter (fun l => bit (stackMask v) (3 * d + l))

/-- Present engines of the module. -/
def presentEngines (v : Variant) : List Nat := (upto 12).filter (fun k => bit (stackMask v) k)

/-- The committed step that the stack controllers hold for a partition (R29). -/
def committedOf (s : State) (p : Nat) : Nat := Tbl.get 0 (s.stkCtl ((presentEngines s.var).headD 0)).committed p

/-- The engine of record r of a die (R244). -/
def recEngine (v : Variant) (d r : Nat) : Nat :=
  let es := dieEngines v d
  3 * d + es.getD (r % es.length) 0

/-- The 32-bit little-endian word at an offset of a block of bytes. -/
def le32 (bs : Bytes) (off : Nat) : Nat := leNat ((bs.drop off).take 4)
/-- The 64-bit little-endian word at an offset. -/
def le64 (bs : Bytes) (off : Nat) : Nat := leNat ((bs.drop off).take 8)

/-- A step parameter block from its 576 bytes (R248). -/
def parseBlock (bs : Bytes) : StepBlock :=
  { step := le32 bs 0
    expect := le32 bs 4 % 65536
    minCount := le32 bs 4 / 65536
    clip := le32 bs 8
    timeout := le32 bs 12
    normLnt := le32 bs 16 % 16384
    commitLnt := le32 bs 20 % 16384
    sets := (upto 16).map (fun h =>
      let o := 64 + 32 * h
      { lr := le32 bs o, b1 := le32 bs (o + 4), omb1 := le32 bs (o + 8), b2 := le32 bs (o + 12),
        omb2 := le32 bs (o + 16), eps := le32 bs (o + 20), wd := le32 bs (o + 24), bc1 := le32 bs (o + 28) }) }

/-- Byte offset of the first bad field of a step parameter block, if any (R248, R267); of a reserved byte, its own (DESIGN CHOICE, log
73). -/
def badBlock (bs : Bytes) : Option Nat :=
  let b := parseBlock bs
  if b.minCount = 0 || decide (b.minCount > b.expect) then some 4
  else if b.timeout = 0 || decide (b.timeout > 60000) then some 12
  else if le32 bs 16 / 16384 ≠ 0 then some 16
  else if le32 bs 20 / 16384 ≠ 0 then some 20
  else ((upto 40).map (· + 24)).find? (fun o => (bs.getD o 0) != 0)

/-- Whether a value is a zero. -/
def numIsZero (x : Num) : Bool := x matches .fin _ 0 _

/-- The clip factor of R255 with the flags of forming it: `c == 0` is a quiet predicate and `nrm <= c` a signalling one (R47,
R50); none is NONFINITE. -/
def clipFactor (s c : Nat) : Option Nat × FlagSet :=
  if !isFinite32 s then (none, noFlags)
  else
    let (x, fx) := readNum fp32 false c
    if numIsZero x || numIsZero (ofF32 s) then (some 0x3F800000, fx)
    else
      let (n, fn) := toF32 (sqrtNum (ofF32 s))
      let y := ofF32 n
      let nan := numIsNan x || numIsNan y
      let f := orFlags fx (orFlags fn (if nan then { invalid := true, nanSeen := true } else noFlags))
      if !nan && !numLt x y then (some 0x3F800000, f)
      else
        let (q, fq) := toF32 (divNum x y)
        (some q, orFlags f fq)

end Sys2Proof.Machine
end

