-- ==== Sys2Proof/Machine/Fabric.lean ====
section
/-! DEFINITION. Sys2Proof/Machine/Fabric.lean: the torus: ports and bundles, routes, and sending a packet (R293 to R303). -/

namespace Sys2Proof.Machine

/-! ### Ports (R293) -/

/-- The ports of a direction, by its DIR code (R293, R319). -/
def bundle (v : Variant) (is3d : Bool) (dir : Nat) : List Nat :=
  match dir with
  | 0 => match v, is3d with
    | .kt960, _ => [0, 4, 8, 12] | .kt640, false => [0, 4, 8] | .kt640, true => [0, 8] | .kt320, _ => [0, 4]
  | 1 => match v, is3d with
    | .kt960, _ => [1, 5, 9, 13] | .kt640, false => [1, 5, 9] | .kt640, true => [1, 9] | .kt320, _ => [1, 5]
  | 2 => match v, is3d with
    | .kt960, false => [3, 11] | .kt960, true => [3] | .kt640, false => [12] | .kt640, true => [4] | .kt320, _ => [3]
  | 3 => match v, is3d with
    | .kt960, false => [7, 15] | .kt960, true => [7] | .kt640, false => [13] | .kt640, true => [5] | .kt320, _ => [7]
  | 4 => match v, is3d with
    | .kt960, true => [11] | .kt640, true => [12] | _, _ => []
  | 5 => match v, is3d with
    | .kt960, true => [15] | .kt640, true => [13] | _, _ => []
  | 6 => [2]
  | 7 => [6]
  | 8 => if v = .kt320 then [] else [10]
  | 9 => if v = .kt320 then [] else [14]
  | _ => []

/-- The ports of a direction under the module's topology. -/
def dirPorts (s : State) (dir : Nat) : List Nat := if s.trl.topo = 0 then [] else bundle s.var (s.trl.topo == 2) dir

/-- UP or UP_HALF (R319). -/
def portUp (x : Port) : Bool := x.state == 4 || x.state == 5

/-- The members of a direction that carry traffic. -/
def upMembers (s : State) (dir : Nat) : List Nat := (dirPorts s dir).filter (fun n => portUp (s.tport n))

/-- DIR and MEMBER of a port (R319). -/
def dirOfPort (s : State) (n : Nat) : Nat × Nat :=
  match (upto 10).find? (fun d => (dirPorts s d).contains n) with
  | some d => (d, (dirPorts s d).findIdx (· == n))
  | none => (15, 0)

/-! ### Positions (R293) -/

/-- Positions of dimension 0 (X), 1 (Y) or 2 (Z). -/
def dimSize (t : Trellis) (d : Nat) : Nat := if d = 0 then t.nx + 1 else if d = 1 then t.ny + 1 else t.nz + 1
/-- Weight of a dimension in a position index. -/
def dimStep (t : Trellis) (d : Nat) : Nat := if d = 0 then 1 else if d = 1 then t.nx + 1 else (t.nx + 1) * (t.ny + 1)
/-- Coordinate of a position index. -/
def coord (t : Trellis) (pos d : Nat) : Nat := pos / dimStep t d % dimSize t d
/-- A position with one coordinate moved by n places in + direction. -/
def movePos (t : Trellis) (pos d n : Nat) : Nat :=
  pos - coord t pos d * dimStep t d + (coord t pos d + n) % dimSize t d * dimStep t d
/-- The position n places away in a direction (plus or minus). -/
def stepPos (t : Trellis) (pos d : Nat) (minus : Bool) (n : Nat) : Nat :=
  movePos t pos d (if minus then dimSize t d * n - n else n)

/-- Hops from a position to a coordinate of one dimension in a direction, a bypass hop over a skipped position counted as
one hop (R295). -/
def hopsTo (t : Trellis) (pos d dst : Nat) (minus : Bool) : Nat :=
  let n := dimSize t d
  let dist := if minus then (coord t pos d + n - dst) % n else (dst + n - coord t pos d) % n
  dist - ((upto (dist - 1)).filter (fun i => t.skip.contains (stepPos t pos d minus (i + 1)))).length

/-- The ROUTE field of a packet from this module (R295, R301): bit 2 X, bit 1 Y, bit 0 Z, 1 for minus. -/
def routeOf (t : Trellis) (src dst : Nat) : Nat :=
  let b (pos d : Nat) : Nat :=
    if hopsTo t pos d (coord t dst d) true < hopsTo t pos d (coord t dst d) false then 1 else 0
  let p1 := movePos t src 0 (coord t dst 0 + dimSize t 0 - coord t src 0)
  let p2 := movePos t p1 1 (coord t dst 1 + dimSize t 1 - coord t src 1)
  4 * b src 0 + 2 * b p1 1 + b p2 2

/-- The dimension a packet travels next: the first whose coordinate differs (R295). -/
def nextDim (t : Trellis) (pos dst : Nat) : Option Nat := (upto 3).find? (fun d => coord t pos d != coord t dst d)

/-- Where a packet leaves a module (R295): the direction code, whether the hop crosses the dateline (R296), or the blocked
direction. `back` is whether it came over a bypass past its coordinate and makes its one hop back. -/
inductive Hop where
  | eject
  | out (dir : Nat) (wrap : Bool)
  | blocked (dir : Nat)
  deriving DecidableEq, Repr

/-- DIR of a dimension and sign. -/
def dirCode (d : Nat) (minus : Bool) : Nat := 2 * d + b2n minus

/-- Whether a move of n places crosses the wrap link (R296). -/
def crosses (t : Trellis) (pos d : Nat) (minus : Bool) (n : Nat) : Bool :=
  if minus then decide (coord t pos d < n) else decide (dimSize t d ≤ coord t pos d + n)

/-- The forwarding choice (R295). `arrDir` is the direction of travel in which the packet arrived, 15 at its source. -/
def nextHop (s : State) (arrDir dst route : Nat) : Hop :=
  let t := s.trl
  match nextDim t t.pos dst with
  | none => .eject
  | some d =>
    let minus := bit route (2 - d)
    let arrivedBy := decide (6 ≤ arrDir) && decide (arrDir ≤ 9) && decide ((arrDir - 6) / 2 = d)
    if arrivedBy && stepPos t t.pos d (!minus) 1 == t.pos - coord t t.pos d * dimStep t d + coord t dst d * dimStep t d then
      (if (upMembers s (dirCode d (!minus))).isEmpty then .blocked (dirCode d (!minus))
       else .out (dirCode d (!minus)) (crosses t t.pos d (!minus) 1))
    else
      let dir := dirCode d minus
      if !t.skip.contains (stepPos t t.pos d minus 1) && !(upMembers s dir).isEmpty then .out dir (crosses t t.pos d minus 1)
      else if d = 2 || (upMembers s (6 + dir)).isEmpty then .blocked dir
      else .out (6 + dir) (crosses t t.pos d minus 2)

/-! ### Sending -/

/-- Whether a unit of a VC has credit (R300). -/
def hasCredit (x : Port) (vc : Nat) : Bool :=
  decide (Tbl.get 0 x.out vc < Tbl.get 0 x.cred vc + (if vc < 2 then 64 else 256))

/-- The time of a unit in ps: 1.28 ns, and 2.56 ns in UP_HALF (R292, R298). -/
def unitPs (x : Port) : Nat := if x.state = 5 then 2560 else 1280

/-- Send units of one VC while the port is up, the retry buffer has room and the VC has credit: the units left, and the port
(R299, R300). -/
def sendUnits (vc : Nat) : Nat → Port → Nat × Port
  | 0, x => (0, x)
  | n + 1, x =>
    if portUp x && decide (x.retry.length < 512) && hasCredit x vc then
      sendUnits vc n { x with
        retry := x.retry ++ [{ vc := vc, seq := x.sent }]
        sent := (x.sent + 1) % 1024, txu := satAdd 64 x.txu 1, busyPs := x.busyPs + unitPs x, out := Tbl.upd 0 x.out vc (· + 1) }
    else (n + 1, x)

/-- Send what waits at a port, in order on each VC; a VC without credit holds no other (R299, R300). -/
def drainPort : List Outgoing → Port → Port
  | [], x => { x with sendq := [] }
  | o :: os, x =>
    let (n, x) := sendUnits o.vc o.units x
    let y := drainPort os x
    if n = 0 then y else { y with sendq := { o with units := n } :: y.sendq }

/-- Hand a packet to a port. -/
def queueUnits (s : State) (n : Nat) (o : Outgoing) : State :=
  let x := s.tport n
  s.setTport n (drainPort (x.sendq ++ [o]) x)

/-- Units of a packet (R301): DATA and REDUCE are data packets, the others control packets. -/
def isData (ty : Nat) : Bool := ty == 1 || ty == 2
/-- Units of a packet. -/
def unitsOf (ty : Nat) : Nat := if isData ty then 16 else 1

/-- The partition of a job tag on this module. -/
def jobPart (s : State) (tag : Nat) : Option Nat :=
  (upto 16).find? (fun p => (s.entry p).used && (s.job p).valid && (s.job p).tag == tag)

/-- Raise the job alert of a partition (R323): ALERT, a Belvedere event and the interrupt of each of its contexts. -/
def jobAlert (s : State) (p : Nat) : State :=
  let s := s.setProt p { s.prot p with alert := true }
  (upto ((s.entry p).maxCtxM1 + 1)).foldl (fun s c =>
    if (s.ctx (64 * p + c)).state = .closed then s else ctxEvent s (64 * p + c) 3) s

/-- Drop a packet that no port can take: counted, reported, and its job alerted (R295, R321). -/
def unroute (s : State) (dir dst job : Nat) : State :=
  let n := (dirPorts s dir).headD 0
  let s := report { s with trl := { s.trl with unroute := inc32 s.trl.unroute } } (32 + n) (evtNone 0x022 1 n (dst % 1024))
  match jobPart s job with
  | some p => jobAlert s p
  | none => s

/-- The dimension of a DIR code; none of 15. -/
def dirDim (dir : Nat) : Option Nat := if dir < 6 then some (dir / 2) else if dir < 10 then some ((dir - 6) / 2) else none

/-- The port by which a packet leaves, if its direction is open: the member of its flow (R297). -/
def flowPort (s : State) (o : Outgoing) : Option Nat :=
  match nextHop s o.arr o.dest o.route with
  | .out dir _ => let ms := upMembers s dir; some (ms.getD (o.flow % ms.length) 0)
  | _ => none

/-- Forward or inject a packet, or move what is left of one to another member (R295 to R297): it leaves on its flow's member,
on the high VC from the hop on that crosses the dateline of its dimension, and on the low VC again in the next. -/
def launchOut (s : State) (o : Outgoing) : State :=
  match nextHop s o.arr o.dest o.route with
  | .eject => s
  | .blocked dir => unroute s dir o.dest o.job
  | .out dir wrap =>
    let ms := upMembers s dir
    let high := wrap || (o.high && dirDim o.arr == dirDim dir)
    queueUnits s (ms.getD (o.flow % ms.length) 0) { o with vc := (if o.data then 2 else 0) + b2n high }

/-- A packet as it is to be sent on. -/
def outgoing (arrDir : Nat) (k : Packet) : Outgoing :=
  { units := unitsOf k.ty, data := isData k.ty, high := k.high, arr := arrDir, flow := k.src + k.dest + k.chan, dest := k.dest
    route := k.route, job := k.job }

/-- Forward or inject a packet. -/
def launch (s : State) (arrDir : Nat) (k : Packet) : State := launchOut s (outgoing arrDir k)

/-- Position of a rank of a job's membership; none for an absent rank (R306). -/
def rankPos (j : Job) (r : Nat) : Option Nat :=
  let e := j.mem.ranks.getD r 0
  if bit e 15 then some (e % 1024) else none

/-- Bytes extended with zeros, or cut, to a length. -/
def padTo (n : Nat) (bs : Bytes) : Bytes := bs.take n ++ List.replicate (n - bs.length) 0

/-- VALID_M1 and the body of a data packet that carries some bytes: the rest of the body is zero (R302). -/
def fillBody (k : Packet) : Packet :=
  if isData k.ty then { k with validM1 := (k.body.length + 15) / 16 - 1, body := padTo 4096 k.body } else k

/-- Send a packet of a partition's job to a rank (R301 to R303, R309): the next PCTR of the sending epoch, dropped at the
source when the position is skipped (R295); without a job there is no traffic key and no packet (R303, R386). -/
def sendPkt (s : State) (p rank : Nat) (k : Packet) : State :=
  let j := s.job p
  match (if j.valid then rankPos j rank else none) with
  | none => s
  | some dst =>
    let k := { fillBody k with dest := dst, job := j.tag, epoch := j.sendEp, src := s.trl.pos, pctr := j.pctr
                               route := routeOf s.trl s.trl.pos dst }
    let s := s.setJob p { j with pctr := j.pctr + 1 }
    if s.trl.skip.contains dst then unroute s (dirCode ((nextDim s.trl s.trl.pos dst).getD 0) false) dst j.tag
    else launch { s with trl := { s.trl with outPkts := k :: s.trl.outPkts } } 15 k

/-- Whether a packet to a rank leaves the module: its position is not skipped and a direction towards it is open (R295). -/
def pktLeaves (s : State) (p rank : Nat) : Bool :=
  match (if (s.job p).valid then rankPos (s.job p) rank else none) with
  | none => false
  | some dst =>
    !s.trl.skip.contains dst && (match nextHop s 15 dst (routeOf s.trl s.trl.pos dst) with
      | .out _ _ => true
      | _ => false)

/-- Send a packet for a command of context `key`, which is charged with the packet's body where it leaves the module (R389); log 26. -/
def sendFor (s : State) (p key rank : Nat) (k : Packet) : State :=
  sendPkt (if pktLeaves s p rank then useTrellis s key (if isData k.ty then 4096 else 256) else s) p rank k

/-- Send a packet for the command of context `key`, if for one (R389). -/
def sendPaid (s : State) (p : Nat) (key : Option Nat) (rank : Nat) (k : Packet) : State :=
  match key with
  | some x => sendFor s p x rank k
  | none => sendPkt s p rank k

/-- Whether the member by which a flow leaves has no room in its retry buffer, or sends others first: a stream engine that sends
on it waits under fabric-credit (R299). -/
def flowBusy (s : State) (p rank chan : Nat) : Bool :=
  match rankPos (s.job p) rank with
  | none => false
  | some dst =>
    match flowPort s (outgoing 15 { ty := 1, chan := chan, src := s.trl.pos, dest := dst, route := routeOf s.trl s.trl.pos dst }) with
    | some n => decide (512 ≤ (s.tport n).retry.length) || !(s.tport n).sendq.isEmpty
    | none => false

/-- The collective entry of a channel in a context's image (R311). -/
def collOf (s : State) (k chan : Nat) : List Nat :=
  match (s.ctx k).image with
  | some img => img.colls.getD chan []
  | none => []

/-- TYPE of a collective entry. -/
def colType (e : List Nat) : Nat := bits (e.getD 0 0) 60 4
/-- ACC: FP32 addition. -/
def colAcc32 (e : List Nat) : Bool := bit (e.getD 0 0) 59
/-- LFMT: FP32 landing. -/
def colLand32 (e : List Nat) : Bool := bit (e.getD 0 0) 58
/-- Block-tree fanout. -/
def colFan (e : List Nat) : Nat := bits (e.getD 0 0) 55 3 + 1
/-- ARR_EN. -/
def colArrEn (e : List Nat) : Bool := bit (e.getD 0 0) 54
/-- ARR_LNT. -/
def colArr (e : List Nat) : Nat := bits (e.getD 0 0) 40 14
/-- L_EXP. -/
def colLexp (e : List Nat) : Nat := bits (e.getD 0 0) 27 13
/-- Rank of group member t. -/
def colRank (e : List Nat) (t : Nat) : Nat := bits (e.getD 1 0) 54 10 + t * bits (e.getD 1 0) 44 10
/-- Group size. -/
def colSize (e : List Nat) : Nat := bits (e.getD 1 0) 34 10 + 1
/-- PEER. -/
def colPeer (e : List Nat) : Nat := bits (e.getD 1 0) 24 10
/-- LAND_VA. -/
def colLand (e : List Nat) : Nat := e.getD 2 0
/-- WA_VA. -/
def colWa (e : List Nat) : Nat := e.getD 3 0
/-- WA_SIZE. -/
def colWaSize (e : List Nat) : Nat := e.getD 4 0
/-- BPO. -/
def colBpo (e : List Nat) : Nat := bits (e.getD 5 0) 32 32
/-- The group member of a rank, if it is one. -/
def colMember (e : List Nat) (r : Nat) : Option Nat := (upto (colSize e)).find? (fun t => colRank e t == r)

/-! ### Acceptance (R305, R309) -/

/-- Whether a position is that of a present member (R305, R309). -/
def memberAt (j : Job) (pos : Nat) : Bool := j.mem.ranks.any (fun e => bit e 15 && e % 1024 == pos)

/-- The rank at a position. -/
def rankAt (j : Job) (pos : Nat) : Option Nat :=
  (upto j.mem.ranks.length).find? (fun r => rankPos j r == some pos)

/-- Whether an epoch is accepted in the job's phase (R308). -/
def epochOk (j : Job) (e : Nat) : Bool :=
  e == j.epoch || (j.phase != .steady && e + 1 == j.epoch)

/-- Insert a counter into a falling list, keeping the 1,024 highest. -/
def insertCtr (n : Nat) : List Nat → List Nat
  | [] => [n]
  | x :: xs => if x ≤ n then n :: x :: xs else x :: insertCtr n xs

/-- Whether a counter is new (R305 check 5). -/
def freshCtr (l : List Nat) (n : Nat) : Bool := !l.contains n && (decide (l.length < 1024) || decide (l.getLastD 0 < n))

/-- A packet reaches its destination on a port: the partition of its job if it passes the checks in their order, and the
state with what a failed check counts (R301, R305). -/
def acceptPkt (s : State) (port : Nat) (k : Packet) : Option Nat × State :=
  match jobPart s k.job with
  | none => (none, { s with trl := { s.trl with nojob := inc32 s.trl.nojob } })
  | some p =>
    let j := s.job p
    if k.ty = 0 || 6 < k.ty then (none, { s with trl := { s.trl with nojob := inc32 s.trl.nojob } })
    else if !memberAt j k.src || !epochOk j k.epoch then
      let j := { j with fenced := inc32 j.fenced }
      (none, s.setJob p (if j.flast then j else { j with flast := true, flastSrc := k.src, flastEp := k.epoch }))
    else if !k.tagOk then
      (none, report (s.setJob p { j with authFail := inc32 j.authFail }) (32 + port)
        { code := 0x023, sev := 0, unit := port, part := p, ctx := j.ctx, detail := k.src % 1024 })
    else
      let key := k.epoch % 4294967296 * 1024 + k.src
      let l := Tbl.get [] j.rx key
      if freshCtr l k.pctr then (some p, s.setJob p { j with rx := Tbl.set j.rx key ((insertCtr k.pctr l).take 1024) })
      else (none, s.setJob p { j with replay := inc32 j.replay })

/-! ### Trees (R307, R313, R316) -/

/-- Children of a template position among the present ones, an absent child replaced by its own children in its place. -/
def treeKids (k r : Nat) (present : Nat → Bool) : Nat → Nat → List Nat
  | 0, _ => []
  | f + 1, t => ((upto k).map (fun i => k * t + 1 + i)).flatMap (fun c =>
      if c ≥ r then [] else if present c then [c] else treeKids k r present f c)

/-- Nearest present ancestor of a template position; none at the root, or when every ancestor is absent. -/
def treeParent (k : Nat) (present : Nat → Bool) : Nat → Nat → Option Nat
  | 0, _ => none
  | f + 1, t => if t = 0 then none else
      let u := (t - 1) / k
      if present u then some u else treeParent k present f u

/-- Whether a rank is present. -/
def rankHere (j : Job) (r : Nat) : Bool := (rankPos j r).isSome

/-- Children of this module in the job tree, as ranks in child order (R307). -/
def jobKids (j : Job) : List Nat := treeKids j.mem.jfan j.mem.ranks.length (rankHere j) 11 j.rank

/-- Parent of this module in the job tree. -/
def jobParent (j : Job) : Option Nat := treeParent j.mem.jfan (rankHere j) 11 j.rank

end Sys2Proof.Machine
end

