-- ==== Sys2Proof/Machine/Blocks.lean ====
section
/-! DEFINITION. Sys2Proof/Machine/Blocks.lean: the blocks of a collective: their trees and work areas, and what holds the bytes
of a kind-0x6 stream (R311 to R316). -/
namespace Sys2Proof.Machine

/-- Bytes of one value in the addition format. -/
def accBytes (e : List Nat) : Nat := if colAcc32 e then 4 else 2

/-- Bytes of one value in the landing format, which is the format of the transfer. -/
def landBytes (e : List Nat) : Nat := if colLand32 e then 4 else 2

/-- Bytes of one block's partial in the addition format: a block is 64 KiB of the transfer (R312). -/
def partialBytes (e : List Nat) : Nat := 65536 / landBytes e * accBytes e

/-- The key of a block's work. -/
def workKey (chan b : Nat) : Nat := chan * 2 ^ 32 + b

/-- The work of a block. -/
def blockWork (s : State) (p chan b : Nat) : BlockWork := Tbl.get {} (s.job p).work (workKey chan b)

/-- Whether a block has work in its work area: contributions, a child's packets, or a partial not yet acknowledged (R316). -/
def workLive (w : BlockWork) : Bool :=
  w.locals != 0 || !w.acc.isEmpty || !w.opened.isEmpty || !w.kids.isEmpty || w.kept.isSome

/-- The group member that owns a block (R311). -/
def blockOwner (e : List Nat) (b : Nat) : Nat := b / max 1 (colBpo e)

/-- Ranks of the block tree: the rank at template position t for owner member o (R313). -/
def treeRank (e : List Nat) (o t : Nat) : Nat := colRank e ((t + o) % colSize e)

/-- This module's template position in the tree of a block. -/
def treePos (s : State) (p : Nat) (e : List Nat) (b : Nat) : Option Nat :=
  (colMember e (s.job p).rank).map (fun m => (m + colSize e - blockOwner e b % colSize e) % colSize e)

/-- Children of this module in a block's tree, as ranks in child order; a rank of `held` stands in its place although it is
absent, because its partial is here (R313, R316). -/
def blockKidsOf (s : State) (p : Nat) (e : List Nat) (b : Nat) (held : List Nat) : List Nat :=
  match treePos s p e b with
  | none => []
  | some t =>
    let o := blockOwner e b % colSize e
    (treeKids (colFan e) (colSize e) (fun u => rankHere (s.job p) (treeRank e o u) || held.contains (treeRank e o u)) 11 t).map
      (treeRank e o)

/-- The present children of this module in a block's tree. -/
def blockKids (s : State) (p : Nat) (e : List Nat) (b : Nat) : List Nat := blockKidsOf s p e b []

/-- Parent of this module in a block's tree. -/
def blockParent (s : State) (p : Nat) (e : List Nat) (b : Nat) : Option Nat :=
  match treePos s p e b with
  | none => none
  | some t =>
    let o := blockOwner e b % colSize e
    (treeParent (colFan e) (fun u => rankHere (s.job p) (treeRank e o u)) 11 t).map (treeRank e o)

/-- Whether a new block finds no room in its work area (R316). -/
def workFull (s : State) (p chan b : Nat) (e : List Nat) : Bool :=
  let mine := (s.job p).work.filter (fun x => x.1 / 2 ^ 32 == chan && workLive x.2)
  !workLive (blockWork s p chan b) && decide (colWaSize e < (mine.length + 1) * partialBytes e)

/-- Where a member's all-gather stream begins in the transfer: at the first of the blocks that it owns (R311, R312); log 75. -/
def gatherBase (s : State) (p : Nat) (e : List Nat) : Nat := (colMember e (s.job p).rank).getD 0 * colBpo e * 65536

/-- Whether the local slice holds the next bytes of a kind-0x6 stream: a work area without room, or no room at a port that they
leave by (R299, R316). -/
def localHeld (s : State) (p chan q : Nat) (e : List Nat) : Bool :=
  match colType e with
  | 1 => flowBusy s p (colRank e (colPeer e)) chan
  | 3 => (blockKids s p e ((gatherBase s p e + q) / 65536)).any (fun r => flowBusy s p r chan)
  | _ => workFull s p chan (q / 65536) e

end Sys2Proof.Machine
end

