-- ==== Sys2Proof/Machine/EngMem.lean ====
section
/-! DEFINITION. Sys2Proof/Machine/EngMem.lean: the image that carries a partition's update plan and protection table, where the update
engines' accesses go, their writes (R249), and the delta maps' area (R327, R329). -/

namespace Sys2Proof.Machine

/-- The context keys of a partition. -/
def partKeys (s : State) (p : Nat) : List Nat := (upto ((s.entry p).maxCtxM1 + 1)).map (· + 64 * p)
/-- Whether a context's image carries a protection table. -/
def protImage (s : State) (k : Nat) : Bool := (s.ctx k).image.any (fun img => img.prot.isSome)
/-- The context whose image carries the partition's update plan and protection table: the one that runs the update, the job's, or,
while no job is admitted, the first whose image has a protection table. -/
def updKey (s : State) (p : Nat) : Nat :=
  let own := 64 * p + (s.job p).ctx
  match (s.upd p).cmd with
  | some (k, _) => k
  | none => if (s.job p).valid then own else ((partKeys s p).find? (protImage s)).getD own
/-- The update plan of a partition. -/
def updPlan (s : State) (p : Nat) : List (List SegWords) :=
  match (s.ctx (updKey s p)).image with
  | some img => img.plan
  | none => []
/-- The protection table of a partition. -/
def protTab (s : State) (p : Nat) : Option ProtTable :=
  match (s.ctx (updKey s p)).image with
  | some img => img.prot
  | none => none
/-- The stack-physical address of an engine's access: a held translation, or the page's entry (R249). -/
def engSpa (s : State) (p va : Nat) : Option Nat :=
  match Tbl.find (s.upd p).xlat (va / mib2) with
  | some spa => some (spa + va % mib2)
  | none => (walkPage s p false va).map (fun t => spaOf s p t va)
/-- Bytes of a range below the next page boundary. -/
def pagePart (va n : Nat) : Nat := min n (mib2 - va % mib2)
/-- Pages that a range of n bytes may touch. -/
def pageFuel (n : Nat) : Nat := n / mib2 + 2
/-- Write bytes within one page. -/
def pageWrite (s : State) (p va : Nat) (bs : Bytes) : State :=
  match engSpa s p va with
  | none => s
  | some a => if bs.isEmpty then s else stkWrite s p a bs
/-- Write a range page by page. -/
def writePages (p : Nat) : Nat → State → Nat → Bytes → State
  | 0, s, _, _ => s
  | f + 1, s, va, bs =>
    let k := pagePart va bs.length
    let s := pageWrite s p va (bs.take k)
    if bs.length ≤ k then s else writePages p f s (va + k) (bs.drop k)
/-- Write bytes at a virtual address. -/
def engWrite (s : State) (p va : Nat) (bs : Bytes) : State := writePages p (pageFuel bs.length) s va bs

/-! ### The delta maps' area (R327, R329) -/

/-- Bytes of one delta map: a bit for each parity unit of the table and each of its eight slots. -/
def mapBytes (x : ProtTable) : Nat := x.shards.foldl (fun n y => n + 2 * cdiv y.units 8) 0
/-- Clear the area of the delta map of a step. DESIGN CHOICE, log 87: the map of even steps lies first at MAP_VA. -/
def clearMapAt (s : State) (p step : Nat) : State :=
  match protTab s p with
  | some x => engWrite s p (x.mapVa + mapBytes x * (step % 2)) (List.replicate (mapBytes x) 0)
  | none => s
/-- Set the bit of a parity unit and slot in the area of the delta map of a step. DESIGN CHOICE, log 87: which bit of the map it is, is left
open, and the module discards a repeated DELTA by the bits it holds itself, not by what software may have written over the area. -/
def setMapAt (s : State) (p step key : Nat) : State :=
  match protTab s p with
  | some x =>
    if mapBytes x = 0 then s
    else
      let n := Config.mapBit key % (8 * mapBytes x)
      let va := x.mapVa + mapBytes x * (step % 2) + n / 8
      match engSpa s p va with
      | some a =>
        let (bs, s) := stkRead s a 1
        stkWrite s p a [bs.headD 0 ||| BitVec.ofNat 8 (2 ^ (n % 8))]
      | none => s
  | none => s

end Sys2Proof.Machine
end

