-- ==== Sys2Proof/Machine/LanternLib.lean ====
section
/-! DEFINITION. Sys2Proof/Machine/LanternLib.lean: lanterns (R195 to R213): the four operations at the home, target
events and their subscribers, ownership faults, notification, and allocation by a lantern table. -/

namespace Sys2Proof.Machine

/-- A lantern is reached by a value (R199). -/
def reachedBy (e : Lantern) (x : Nat) : Bool := decide ((e.count + two32 - x % two32) % two32 < 2147483648)

/-- The physical entry of a partition's lantern number. -/
def findLnt (s : State) (p num : Nat) : Option Nat :=
  (s.units.lnt.find? (fun x => x.2.alloc && x.2.part == p && x.2.num == num)).map Prod.fst

/-- Whether a job-scope lantern has its home on this module (R207). -/
def atHome (e : Lantern) : Bool := e.scope != 4 || e.root

/-! ### Job scope messages (R207 to R209) -/

/-- A lantern packet: `pidx` is the message (0 DELTA, 1 ARM, 2 COUNT, 3 REJECT), `chan` the lantern number, `contrib` the
arm generation or cause, `aux` the amount, target or count. -/
def lntMsg (msg num gen v : Nat) : Packet := { ty := 4, chan := num, pidx := msg, contrib := gen, aux := v % two32 }

/-- Send the newest count of a job-scope entry to each child where one is unsent (R208). -/
def flushCount (s : State) (n : Nat) : State :=
  let e := s.lnt n
  if e.alloc && e.scope == 4 && e.due then
    let s := s.setLnt n { e with due := false }
    (jobKids (s.job e.part)).foldl (fun s r => sendPkt s e.part r (lntMsg 2 e.num e.armGen e.count)) s
  else s

/-! ### Changes at the home -/

/-- Mark a consume of a core's task as granted. -/
def grantTask (s : State) (w : Waiter) : State :=
  let c := s.core w.core
  let t := c.task w.task
  match t.hold with
  | .consume l v _ => s.setCore w.core (c.setTask w.task { t with hold := .consume l v true })
  | _ => s

/-- Grant consume requests from the head of the queue while each is reached (R201): the count left, the queue left, the
granted. -/
def grantLoop : List Waiter → Nat → Nat × List Waiter × List Waiter
  | [], c => (c, [], [])
  | w :: ws, c =>
    if (c + two32 - w.v % two32) % two32 < 2147483648 then
      let (c', q, g) := grantLoop ws ((c + two32 - w.v % two32) % two32)
      (c', q, w :: g)
    else (c, w :: ws, [])

/-- Whether an entry that grants some consumes in turn is Reached after them: a consume that leaves it not reached by its
target opens it, and no later one closes it again (R202). -/
def stillReached (e : Lantern) : List Waiter → Bool
  | [] => e.reached
  | w :: ws =>
    let e' := { e with count := (e.count + two32 - w.v % two32) % two32 }
    stillReached { e' with reached := e.reached && reachedBy e' e'.target } ws

/-- Move held requests into the free places of the queue (R201). -/
def refill (e : Lantern) : Lantern :=
  let n := 64 - e.queue.length
  { e with queue := e.queue ++ e.held.take n, held := e.held.drop n }

/-- A task that waits at a lantern whose count now reaches its value is over its wait: the release is on its way (R196, R200). -/
def overTask (e : Lantern) (t : Task) : Task :=
  match t.hold with
  | .wait l v false => if l = e.num && reachedBy e v then { t with hold := .wait l v true } else t
  | _ => t

/-- A core's waits at a lantern, evaluated on its count (R196, R200). -/
def overCore (e : Lantern) (c : Core) : Core :=
  if c.cmd.any (fun m => keyPart m.key == e.part) then { c with tasks := c.tasks.map (fun t => (t.1, overTask e t.2)) } else c

/-- Every wait of the partition at an entry is evaluated on the count as it stands at the end of a change (R196, R200). -/
def noteWaits (s : State) (n : Nat) : State :=
  { s with units := { s.units with cores := s.units.cores.map (fun c => (c.1, overCore (s.lnt n) c.2)) } }

/-- After a change of count or target at a home, `e` being the entry with the state that its signal or arm gives it: consume
grants and what they leave of the state (R201, R202), waits evaluated (R200), and a COUNT to each child of a job's root
(R208). -/
def settleHome (s : State) (n : Nat) (e : Lantern) : State :=
  let (c, q, g) := grantLoop (e.queue ++ e.held) e.count
  let e' := refill { e with count := c, queue := q, held := [] }
  let e' := { e' with queue := e'.queue.take 64, held := e'.queue.drop 64 ++ e'.held }
  let e' := { e' with reached := stillReached e g, due := e.due || (e.scope == 4 && e.root) }
  flushCount (noteWaits (g.foldl grantTask (s.setLnt n e')) n) n

/-! ### Ownership (R210) -/

/-- The error line of an entry's home (R418, R423). -/
def entryLine (n : Nat) : Nat := if n < 8192 then n / 512 else if n < 12288 then 28 + (n - 8192) / 1024 else 54

/-- LNT_FAULT as a word (R214). -/
def lntFaultWord (cause part ctx n : Nat) : Nat :=
  2 ^ 31 + cause % 8 * 2 ^ 28 + part % 16 * 2 ^ 24 + ctx % 64 * 2 ^ 18 + n % 16384

/-- Record a lantern fault: the event always, LNT_FAULT for the first case only while it is empty (R210). -/
def lntFault (s : State) (cause part ctx n : Nat) (dropped : Bool) : State :=
  let r := s.units.lntRegs
  let r := if r.fltValid then r else { r with fltValid := true, fltWord := lntFaultWord cause part ctx n }
  let r := if dropped then { r with xdrop := inc32 r.xdrop } else r
  report { s with units := { s.units with lntRegs := r } } (entryLine n)
    { code := 0x005, sev := 1, unit := 0xFF, part := part, ctx := if part = 15 then 0 else ctx,
      detail := cause % 8 * 2 ^ 19 + n % 16384 }

/-- The CMD_ID[15:0] of a context's command. -/
def cmdIdOf (s : State) (k id : Nat) : Nat :=
  match (s.ctx k).q.cmds.find? (fun m => m.id == id) with
  | some m => m.desc.cmdId % 65536
  | none => 0

/-- Perform an operation of a context on lantern number `num`: on a free number it is dropped and counted; on another
context's entry the issuing context faults, `cid` being the CMD_ID of its command (R210, R372). DESIGN CHOICE, log 54: with no
entry for the number, ENTRY and the error line are those of the partition's lantern number. -/
def lntOpAs (s : State) (k cid lcore num : Nat) (op : State → Nat → State) : State :=
  match findLnt s (keyPart k) num with
  | none => lntFault s 3 (keyPart k) (keyCtx k) num true
  | some n =>
    let e := s.lnt n
    if e.ctx = keyCtx k then op s n
    else teardown (lntFault s 1 (keyPart k) (keyCtx k) n false) k stAborted 3 lcore cid true

/-! ### Effects of target events (R203) -/

/-- Raise flags into a command (R53). -/
def cmdFlags (s : State) (k id : Nat) (fl : FlagSet) : State := updCmd s k id (fun m => { m with flags := orFlags m.flags fl })

/-- Flags of the update engines go into the command they serve, and before it has issued they wait for it (R53). -/
def updFlags (s : State) (p : Nat) (fl : FlagSet) : State :=
  let u := s.upd p
  match u.cmd, u.serve with
  | some (k, id), _ => cmdFlags s k id fl
  | none, some (k, id) => cmdFlags s k id fl
  | none, none => s.setUpd p { u with early := orFlags u.early fl }

/-- The norm target event at the stack controllers: the evidence is set, and while an UPDATE runs its compute-region pages
become update-pending, beside those that a lost record has left so, and what streams hold of them is dropped (R27, R184, R249 action 6, R347). -/
def normMark (s : State) (p : Nat) : State :=
  let u := s.upd p
  let s := s.setProt p { s.prot p with evNorm := true, evStep := u.blk.step }
  match u.cmd with
  | none => s
  | some (k, _) =>
    let pages := match (s.ctx k).image with
      | some img => computePages img.plan
      | none => []
    let pend := if u.resume then u.pend else (pages ++ u.pend).eraseDups
    dropPending (s.setUpd p { u with normSeen := true, pend := pend }) p pend

/-- The norm target event at the update engines: the clip factor is formed and the sweep asks for its credit; a non-finite S
ends the UPDATE with nothing written and every mark released (R249 action 6, R255). -/
def normFactor (s : State) (p : Nat) : State :=
  let u := s.upd p
  let s := s.setProt p { s.prot p with evNorm := true, evStep := u.blk.step }
  match u.cmd with
  | none => s
  | some (k, id) =>
    let (f, fl) := clipFactor u.sSum u.blk.clip
    let s := updFlags s p fl
    match f with
    | none =>
      let s := s.setUpd p { clearAcc u with cmd := none, phase := .idle, xlat := [], pend := [], normSeen := true }
      let s := s.setSched p { s.sched p with eng := none }
      complete s k id { status := stNonfinite, result := u.sSum }
    | some f => s.setUpd p { u with normSeen := true, clip := f, hideNorm := false, ask := .asking }

/-- UPD_PT_EVID (R347): the evidence of the current step. -/
def evidWord (s : State) (p : Nat) : Nat :=
  let y := s.prot p
  b2n y.evNorm * 2 ^ 31 + b2n y.evDmap * 2 ^ 30 + b2n y.evSwept * 2 ^ 29 + y.evStep % 65536

/-- Actions 3 and 4 of R334: the collective work areas of the job are emptied, kept partials with them, and the JOB_HALT
commands of the partition complete with UPD_PT_EVID as it stands (R333). -/
def finishHalt (s : State) (p : Nat) : State :=
  let j := s.job p
  let s := s.setJob p { j with work := [], scalar := [] }
  (upto ((s.entry p).maxCtxM1 + 1)).foldl (fun s c =>
    let k := 64 * p + c
    ((s.ctx k).q.cmds.filter (fun m => m.desc.opcode == 0x32 && m.phase == .issued)).foldl (fun s m =>
      complete s k m.id { status := stOk, result := evidWord s p }) s) s

/-- The commit target event: each stack controller records the step, the delta map and the evidence of the step are cleared,
and a running UPDATE completes with OK and S, or with JOB_HALTED under a JOB_HALT (R29, R249 action 9, R267, R329, R334,
R347). -/
def commitEvent (s : State) (p : Nat) : State :=
  let u := s.upd p
  let n := u.blk.step
  let s := { s with units := { s.units with
    stkCtl := (presentEngines s.var).foldl (fun t k =>
      Tbl.upd {} t k (fun c => { c with committed := Tbl.set c.committed p n })) s.units.stkCtl } }
  let pr := s.prot p
  let pr := { pr with seen := [], changed := [], restored := false, evNorm := false, evDmap := false, evSwept := false, evStep := n + 1 }
  let s := clearMapAt (s.setProt p (if n % 2 = 0 then { pr with map0 := [] } else { pr with map1 := [] })) p n
  let s := s.setUpd p { u with commit := n }
  match u.cmd with
  | none => s
  | some (k, id) =>
    if u.phase = .acks then
      let v := { clearAcc u with commit := n, cmd := none, phase := .idle, xlat := [], pend := [], counts := u.next, next := []
                                 readBlk := [], rows := [], cols := [], rbar := [], ask := .waiting, halt := false, hideLanded := 0 }
      let s := s.setUpd p v
      let s := s.setSched p { s.sched p with eng := none }
      if u.halt then finishHalt (complete s k id { status := stJobHalted }) p
      else complete s k id { status := stOk, result := u.sSum }
    else s

/-- Which step lantern an entry is, by the running parameter block: 1 the norm lantern of step n, 2 its commit
lantern (R248). -/
def stepLantern (u : UpdPart) (num : Nat) : Nat :=
  if num = u.blk.normLnt + u.blk.step % 2 then 1 else if num = u.blk.commitLnt + u.blk.step % 2 then 2 else 0

/-- Arm an entry without an event of its own (R199): count 0, new target, next generation. -/
def armEntry (e : Lantern) (v : Nat) : Lantern :=
  { e with count := 0, target := v % two32, armGen := (e.armGen + 1) % 256 }

/-- The re-arming of the other parity's step lanterns at the root (R248): an operation of the context that runs the UPDATE, or of context
`k`, the norm lantern's owner, where none runs, checked as its own are (R210). -/
def rearmStep (s : State) (p k : Nat) : State :=
  let u := s.upd p
  let other := (u.blk.step + 1) % 2
  let (k, cid) := match u.cmd with
    | some (k, id) => (k, cmdIdOf s k id)
    | none => (k, 0)
  let arm (s : State) (n : Nat) : State :=
    let e := s.lnt n
    let e' := armEntry e e.target
    settleHome s n { e' with reached := reachedBy e' e'.target }
  lntOpAs (lntOpAs s k cid 0 (u.blk.normLnt + other) arm) k cid 0 (u.blk.commitLnt + other) arm

/-- A target event reaches the subscribers of an entry, once (R203). -/
def targetEvent (s : State) (n : Nat) : State :=
  let e := s.lnt n
  let k := 64 * e.part + e.ctx
  let w := stepLantern (s.upd e.part) e.num
  let s := if e.subStk && w == 1 then normMark s e.part else s
  let s := if e.subUpd && w == 1 then normFactor s e.part else s
  let s := if e.subStk && w == 2 then commitEvent s e.part else s
  let s := if e.root && w == 1 && e.scope == 4 then rearmStep s e.part k else s
  if e.subHost then ctxEvent s k 1 else s

/-! ### Signals and arms -/

/-- Signal-add V at an entry (R199, R202, R208): at a mirror it is added to the unsent delta. DESIGN CHOICE, log 54: the target
event fires when the signal reaches the target, although consumes granted with it open the entry again. -/
def signalEntry (s : State) (n v : Nat) : State :=
  let e := s.lnt n
  if v % two32 = 0 then s
  else if !atHome e then s.setLnt n { e with unsent := (e.unsent + v) % two32 }
  else
    let e1 := { e with count := (e.count + v) % two32 }
    let fires := !e.reached && reachedBy e1 e1.target
    let s := settleHome s n { e1 with reached := e.reached || fires }
    if fires then targetEvent s n else s

/-- Arm an entry with a target (R199, R202), at its home. -/
def armAt (s : State) (n v : Nat) : State :=
  let e1 := armEntry (s.lnt n) v
  let fires := reachedBy e1 e1.target
  let s := settleHome s n { e1 with reached := fires }
  if fires then targetEvent s n else s

/-! ### Operations of a context -/

/-- Perform an operation of a command of a context. -/
def lntOp (s : State) (k id lcore num : Nat) (op : State → Nat → State) : State := lntOpAs s k (cmdIdOf s k id) lcore num op

/-- A signal of a context (R177, R192, R199). -/
def lntSignal (s : State) (k id lcore num v : Nat) : State := lntOp s k id lcore num (fun s n => signalEntry s n v)

/-- A signal by the module itself, acting for a context, checked against the entry's owner as the context's own are (R210,
R249, R265, R284, R317); log 54. -/
def hubSignal (s : State) (k num v : Nat) : State := lntOpAs s k 0 0 num (fun s n => signalEntry s n v)

/-! ### Allocation (R198) -/

/-- Physical entries of the unit that holds a home: bed bank, die unit or hub (R197, R214). -/
def unitRange (scope bed : Nat) : Nat × Nat :=
  if scope ≤ 1 then (512 * bed, 512) else if scope = 2 then (8192 + 1024 * (bed / 4), 1024) else (12288, 4096)

/-- Entries of a unit that a partition may hold (R197). -/
def unitShare (s : State) (p scope bed : Nat) : Nat :=
  let beds := (upto 16).filter (fun b => bit (s.entry p).beds b)
  if scope ≤ 1 then 512
  else if scope = 2 then 256 * (beds.filter (fun b => b / 4 == bed / 4)).length
  else 256 * beds.length

/-- The lowest free entry of a range. -/
def lowestFree (s : State) (lo n : Nat) : Option Nat :=
  ((upto n).map (· + lo)).find? (fun i => !(s.lnt i).alloc)

/-- The physical bed of a lantern declaration's home (R198, R214). -/
def homeBed (s : State) (p : Nat) (d : LanternDecl) : Nat :=
  match d.scope with
  | 0 => (logicalCores s p).getD d.home 0 / 16
  | 1 => (usableBeds s p).getD d.home 0
  | 2 => (usableBeds s p).getD d.home 0
  | _ => 0

/-- Allocate one declared lantern; none when the partition has no free entry for it. Until JOB_ADMIT a job-scope lantern has its home
here, as in a job of rank 0 (DESIGN CHOICE, log 86). -/
def allocLantern (s : State) (k num : Nat) (d : LanternDecl) : Option State :=
  let p := keyPart k
  let bed := homeBed s p d
  let (lo, n) := unitRange d.scope bed
  let used := (s.units.lnt.filter (fun x => x.2.alloc && x.2.part == p && decide (lo ≤ x.1) && decide (x.1 < lo + n))).length
  if used ≥ unitShare s p d.scope bed then none
  else
    match lowestFree s lo n with
    | none => none
    | some i =>
      let e : Lantern :=
        { alloc := true, scope := d.scope, subStk := d.subStk, subUpd := d.subUpd, subHost := d.subHost
          hostSig := d.hostSig, root := d.scope == 4 && (s.job p).rank == 0, part := p, ctx := keyCtx k, num := num
          homeL := d.home, homeP := if d.scope = 0 then (logicalCores s p).getD d.home 0 else bed
          target := d.target % two32 }
      some (s.setLnt i { e with reached := reachedBy e e.target })

/-- Allocate a lantern table in increasing lantern number (R198). -/
def allocTable (k : Nat) : State → Nat → List LanternDecl → Option State
  | s, _, [] => some s
  | s, num, d :: ds =>
    match allocLantern s k num d with
    | none => none
    | some s' => allocTable k s' (num + 1) ds

end Sys2Proof.Machine
end

