-- ==== Sys2Proof/Machine/CoreSeq.lean ====
section
/-! DEFINITION. Sys2Proof/Machine/CoreSeq.lean: the core sequencer's shared operations (R95 to R102, R117, R121, R152,
R161): fetching a word, dispatching it to an engine's queue, stepping the program counter, and taking the head of a
queue. -/

namespace Sys2Proof.Machine

/-- The partition of the command a core runs. -/
def cmdPart (m : CoreCmd) : Nat := keyPart m.key

/-- A scalar register; s0 reads zero (R102). -/
def scalar (t : Task) (r : Nat) : Nat := if r = 0 then 0 else Tbl.get 0 t.regs r

/-- Write a scalar register; a write to s0 is discarded (R102). -/
def setScalar (t : Task) (r v : Nat) : Task := if r = 0 then t else { t with regs := Tbl.set t.regs r (v % two32) }

/-- Scratchpad address of the instruction at a task's program counter (R95, R151). -/
def fetchAddr (c : Core) (t pc : Nat) : Nat := (c.win t).base * 4096 + 8 * pc

/-- The instruction word at a task's program counter. -/
def fetchWord (c : Core) (t pc : Nat) : Nat := leNat (Mem.rdN c.scratch (fetchAddr c t pc) 8)

/-- Whether the instruction word has bad parity (R160). -/
def fetchBad (c : Core) (t pc : Nat) : Bool := let a := fetchAddr c t pc; c.badPar.any (fun q => q == a / 4 || q == a / 4 + 1)

/-- Where the program counter goes when `pc` is next: back to the start of a loop whose body has ended and that has
iterations left, or past it (R117). -/
def stepLoops : List Loop → Nat → Tbl Nat → List Loop × Nat × Tbl Nat
  | [], pc, r => ([], pc, r)
  | l :: ls, pc, r =>
    if pc = l.last + 1 then
      if l.iter + 1 < l.count then
        ({ l with iter := l.iter + 1 } :: ls, l.first, if l.idx = 0 then r else Tbl.set r l.idx (l.iter + 1))
      else stepLoops ls pc r
    else (l :: ls, pc, r)

/-- Move a task to its next instruction. -/
def gotoPc (t : Task) (pc : Nat) : Task :=
  let (l, p, r) := stepLoops t.loops pc t.regs
  { t with loops := l, pc := p % 65536, regs := r, hold := .none, idleNs := 0 }

/-- The issue queue of an engine. -/
def queueOf (c : Core) : Eng → List QInstr
  | .mx => c.q.mx
  | .vx => c.q.vx
  | .fx => c.q.fx
  | .st => c.q.st
  | .ln => c.q.ln
  | .seq => []

/-- Replace the issue queue of an engine. -/
def setQueue (c : Core) (e : Eng) (l : List QInstr) : Core :=
  match e with
  | .mx => { c with q := { c.q with mx := l } }
  | .vx => { c with q := { c.q with vx := l } }
  | .fx => { c with q := { c.q with fx := l } }
  | .st => { c with q := { c.q with st := l } }
  | .ln => { c with q := { c.q with ln := l } }
  | .seq => c

/-- The stall-counter number of an engine (R430). -/
def engNo : Eng → Nat
  | .mx => 0
  | .vx => 1
  | .fx => 2
  | _ => 3

/-- Places in use of an engine's queue: held LN.WAIT and LN.WTC occupy places of the LN queue (R97, R115). -/
def queueUsed (c : Core) (e : Eng) : Nat :=
  (queueOf c e).length +
    (if e = .ln then (c.tasks.filter (fun t => heldOn t.2.hold != none)).length else 0)

/-- Sequence length of the stream an ST instruction names. -/
def streamDesc (c : Core) (w : Nat) : List Nat := c.descs.getD (stDesc w) []

/-- The instruction's readers in each region: the amounts it will release (R77, R100, R174). -/
def addReaders (c : Core) (t seq : Nat) (us : List (Nat × Nat)) : Core :=
  us.foldl (fun c u =>
    let r := c.region t u.1
    c.setRegion t u.1 { r with readers := r.readers ++ [{ seq := seq, rel := u.2, got := 0, fin := false }] }) c

/-- The instruction's place in the reservation order of each region it writes (R100). -/
def addWriters (c : Core) (t seq : Nat) (gs : List Nat) : Core :=
  gs.foldl (fun c g =>
    let r := c.region t g
    c.setRegion t g { r with writers := r.writers ++ [seq] }) c

/-- Regions an instruction reads with what it will release, streams included. -/
def declaredReads (c : Core) (op : Op) (w fmt : Nat) : List (Nat × Nat) :=
  match op with
  | .stOut => [(stReg w, if stRel w then wordsOf (dLen (streamDesc c w)) else 0)]
  | _ => (readsOf op w fmt).map (fun u => (u.g, if u.rel then useWords u else 0))

/-- Regions an instruction writes, streams included. -/
def declaredWrites (op : Op) (w fmt : Nat) : List Nat :=
  match op with
  | .stIn => [stReg w]
  | _ => (writesOf op w fmt).map Prod.fst

/-- The queue entry of an instruction at its dispatch (R98, R106, R120). -/
def captured (t : Nat) (k : Task) (seq w : Nat) (op : Op) : QInstr :=
  let rs := scalarsOf op w
  { seq := seq, task := t, word := w, fmt := k.fmtAt.getD 0
    s1 := scalar k (rs.getD 0 0), s2 := scalar k (rs.getD 1 0), base := k.cursor, rng := k.rng }

/-- Dispatch an instruction of an engine into its queue (R97, R98, R120). -/
def dispatchEng (c : Core) (t w : Nat) (op : Op) : Core :=
  let k := c.task t
  let qi := captured t k c.nextSeq w op
  let k1 := if op = .mxFmt then { k with fmtAt := some w } else k
  let k2 := { k1 with cursor := (k.cursor + stoElems op w qi.fmt) % 2 ^ 51 }
  let c := c.setTask t (gotoPc k2 (k.pc + 1))
  let c := addReaders c t qi.seq (declaredReads c op w qi.fmt)
  let c := addWriters c t qi.seq (declaredWrites op w qi.fmt).eraseDups
  let c := setQueue c (engOf op) (queueOf c (engOf op) ++ [qi])
  { c with nextSeq := c.nextSeq + 1, lastTask := t }

/-! ### Which task dispatches (R97, R101, R119) -/

/-- Whether a dispatched, incomplete instruction of task `t` names descriptor `g` in any field (R119). -/
def namesRegion (c : Core) (t g : Nat) : Bool :=
  let inQ (q : QInstr) : Bool := q.task == t &&
    match opOf q.word with
    | some op => (namedRegions op q.word q.fmt).contains g
    | none => false
  (c.q.mx ++ c.q.vx ++ c.q.fx ++ c.q.st ++ c.q.ln).any inQ ||
    c.slots.any (fun y => y.2.active && y.2.task == t && (y.2.op == .stIn || y.2.op == .stOut) && stReg y.2.word == g)

/-- Whether a task runs: started and not ended. -/
def taskRuns (k : Task) : Bool := k.run && !k.ended

/-- Whether the instruction `w`, of operation `op`, of a task that is not held at a lantern can dispatch: its engine's queue has a
place, and no rule of a CF instruction holds it (R97, R119). A CF.WIN or CF.TASK for an ended task does not wait for what that task left
incomplete (DESIGN CHOICE, log 82). -/
def canDispatch (c : Core) (t w : Nat) (op : Op) : Bool :=
  match op with
  | .cfReg => !namesRegion c t (cfG w)
  | .cfWin | .cfTask => t == 0 && !taskRuns (c.task (cfW w))
  | _ => engOf op == .seq || decide (queueUsed c (engOf op) < 8)

/-- Whether the fetch at a task's program counter lies in its window, a valid one (R151, R152). -/
def fetchIn (c : Core) (t : Nat) : Bool := (c.win t).valid && decide (8 * (c.task t).pc < ((c.win t).sizeM1 + 1) * 4096)

/-- Whether a task has an instruction to dispatch and may go on: it runs and is not held at a lantern (R95, R101). -/
def taskGoes (c : Core) (t : Nat) : Bool := let k := c.task t; k.run && !k.ended && heldOn k.hold == none

/-- Whether the word `w` spells an operation that task `t` may dispatch at some time: CF.WIN and CF.TASK are task 0's alone (R118). -/
def spellsOwn (t w : Nat) : Bool :=
  match opOf w with
  | some .cfWin | some .cfTask => t == 0
  | some _ => true
  | none => false

/-- Whether task `t`'s next word is refused as it is, whatever operation it spells: its fetch lies outside the window (R152), or it
has bad parity and spells nothing the task may dispatch, so that no hold keeps it from its check (R160). -/
def badFetch (c : Core) (t : Nat) : Bool :=
  !fetchIn c t || (fetchBad c t (c.task t).pc && !spellsOwn t (fetchWord c t (c.task t).pc))

/-- Whether the sequencer, considering task `t`, would take its next instruction (R97). -/
def taskReady (c : Core) (t : Nat) : Bool :=
  taskGoes c t && (badFetch c t ||
    (let w := fetchWord c t (c.task t).pc
     match opOf w with
     | some op => canDispatch c t w op
     | none => false))

/-- Whether it is task `t`'s turn: of the tasks considered before it, from the one after the task that dispatched last, none can
dispatch (R97). -/
def turnOf (c : Core) (t : Nat) : Bool :=
  (upto ((t + 3 - c.lastTask % 4) % 4)).all (fun i => !taskReady c ((c.lastTask + 1 + i) % 4))

/-- A cycle in which a task is held under R119. -/
def cfHold (c : Core) (t : Nat) (k : Task) : Core :=
  { c.setTask t { k with hold := .cf } with cnt := { c.cnt with seqHold := satAdd 32 c.cnt.seqHold 1 } }

/-- A cycle in which a task cannot dispatch its next instruction: under a hold of R119, or for a full queue. A CF.WIN or CF.TASK
outside task 0 is none of the task's to execute and holds nothing. -/
def holdTask (c : Core) (t : Nat) (op : Op) : Core :=
  match op with
  | .cfReg => cfHold c t (c.task t)
  | .cfWin | .cfTask => if t = 0 then cfHold c t (c.task t) else c
  | _ => c.setTask t { c.task t with hold := .queue }

/-! ### Errors found on a core -/

/-- SCP_RPFAULT of a window or region check (R152, R167). -/
def rpWordOf (reader writer t g word : Nat) : Nat :=
  2 ^ 31 + reader * 2 ^ 28 + writer * 2 ^ 25 + t % 4 * 2 ^ 23 + g % 16 * 2 ^ 19 + word % 2 ^ 18

/-- A region-protocol fault on core n (R152, R166, R372). For a window check REGION names the region of the refused access, and is 0
for an instruction fetch, which names none (DESIGN CHOICE, log 69). -/
def regionFault (s : State) (n : Nat) (m : CoreCmd) (reader writer t g word : Nat) : State :=
  let c := s.core n
  let s := s.setCore n { c with cnt := { c.cnt with rpValid := true, rpWord := rpWordOf reader writer t g word } }
  let s := report s (n / 16) (evtOf 0x004 1 n m.key (word % 2 ^ 18))
  teardown s m.key stAborted 1 m.lcore (cmdIdOf s m.key m.cmd) true

/-- A parity error that core n detects (R161, R162, R164): counted, reported, and the command stops with PARITY_ABORT.
`loc` is LOCATION of the result word, `phys` of the event. An access with several bad words counts one error (DESIGN CHOICE, log
63). -/
def parityAbort (s : State) (n : Nat) (m : CoreCmd) (source loc phys : Nat) : State :=
  let c := s.core n
  let s := if source ≤ 3 then s.setCore n { c with cnt := { c.cnt with perr := inc32 c.cnt.perr } } else s
  let s := report s (n / 16) (evtOf 0x003 1 n m.key (source % 16 * 2 ^ 18 + phys % 2 ^ 18))
  stopRun s (cmdPart m) stParity (source % 16 * 2 ^ 28 + m.lcore % 256 * 2 ^ 20 + loc % 2 ^ 18)

/-- The next word of task `t`, refused as it is: a region-protocol fault outside the window, else a parity abort (R152, R160). -/
def refuseFetch (s : State) (n t : Nat) (m : CoreCmd) : State :=
  let c := s.core n
  let a := fetchAddr c t (c.task t).pc / 16
  if !fetchIn c t then regionFault s n m 5 6 t 0 a else parityAbort s n m 2 a a

/-- Run a dispatch of operation `op` from a task of core `n`: nothing where the task is held at a lantern, its next instruction is
another, or an earlier task in the rotating order can dispatch; a held cycle where it cannot dispatch; a parity abort where the word
that dispatches is bad (R95, R97, R101, R152, R160). A word that is refused as it is meets its check at a dispatch of any operation
from its task (DESIGN CHOICE, log 82). -/
def withDispatch (s : State) (n t : Nat) (op : Op) (f : CoreCmd → Core → Nat → State) : State :=
  let c := s.core n
  match c.cmd with
  | none => s
  | some m =>
    let pc := (c.task t).pc
    let w := fetchWord c t pc
    if !taskGoes c t then s
    else if badFetch c t then if turnOf c t then refuseFetch s n t m else s
    else if opOf w != some op then s
    else if !canDispatch c t w op then s.setCore n (holdTask c t op)
    else if !turnOf c t then s
    else if fetchBad c t pc then refuseFetch s n t m
    else f m c w

/-- Dispatch of an engine instruction. -/
def dispatchOp (s : State) (n t : Nat) (op : Op) : State :=
  withDispatch s n t op (fun _ c w => s.setCore n (dispatchEng c t w op))

/-- Whether a task held at a lantern has an instruction of operation `op` next (R101). -/
def lanternWaits (c : Core) (op : Op) : Bool :=
  c.tasks.any (fun t => heldOn t.2.hold != none && opOf (fetchWord c t.1 t.2.pc) == some op)

/-- Run an issue attempt of operation `op` on core `n`: the head of its engine's queue, or the lantern-wait accounting
of an empty queue: LN.ARM and LN.SIG have none, and the stream engine's counts while no slot is active (R98, R101, R121, R186). -/
def withHead (s : State) (n : Nat) (op : Op) (f : CoreCmd → Core → QInstr → State) : State :=
  let c := s.core n
  match c.cmd with
  | none => s
  | some m =>
    match queueOf c (engOf op) with
    | [] => if engOf op != .ln && !(engOf op == .st && c.slots.any (fun y => y.2.active)) && lanternWaits c op then s.setCore n (c.stall (engNo (engOf op)) 2) else s
    | q :: _ => if opOf q.word = some op then f m c q else s

/-- Remove the head of an engine's queue. -/
def popQueue (c : Core) (e : Eng) : Core := setQueue c e ((queueOf c e).drop 1)

/-- The first region an instruction names that is undefined or leaves its task's window (R152), by the window and the descriptors at the
time it issues (DESIGN CHOICE, log 82). -/
def badRegion (c : Core) (op : Op) (q : QInstr) : Option Nat :=
  (regionsOf op q.word q.fmt).find? (fun g => let r := c.region q.task g; !r.valid || !regionInWin c q.task r)

/-- The scratchpad word at which an instruction's access through region `g` begins (R167): where it reads, or where its reservation
would start. -/
def accessWord (c : Core) (op : Op) (q : QInstr) (g : Nat) : Nat :=
  let r := c.region q.task g
  let pos := match (readsOf op q.word q.fmt).find? (fun u => u.g == g) with
    | some u => readBase r q.seq + u.off / 16
    | none => if op = .stOut then readBase r q.seq else r.tail + r.rsv
  regionByteAddr c q.task r pos 0 / 16

/-- The refused access of the head instruction through a region that is undefined or leaves its window (R152, R167). -/
def refusedAccess (s : State) (n : Nat) (m : CoreCmd) (op : Op) (q : QInstr) (g : Nat) : State :=
  regionFault s n m 5 6 q.task g (accessWord (s.core n) op q g)

/-- Whether every operand is present: occupancy covers offset plus footprint (R74, R121). -/
def operandsReady (c : Core) (op : Op) (q : QInstr) : Bool :=
  (readsOf op q.word q.fmt).all (fun u => decide (useWords u ≤ readAvail (c.region q.task u.g) q.seq))

/-- Words an instruction reserves in region `g` in all (R109: a result and its scales may share a region). -/
def writeWords (op : Op) (q : QInstr) (g : Nat) : Nat :=
  (((writesOf op q.word q.fmt).filter (fun x => x.1 == g)).map (fun x => wordsOf x.2)).foldl (· + ·) 0

/-- Whether every result can be reserved (R74, R100, R121). -/
def resultsFree (c : Core) (op : Op) (q : QInstr) : Bool :=
  (writesOf op q.word q.fmt).all (fun x => canReserve (c.region q.task x.1) q.seq (writeWords op q x.1))

/-- The word address of the first bad-parity word in the operand footprints (R160). -/
def operandBad (c : Core) (op : Op) (q : QInstr) : Option Nat :=
  ((readsOf op q.word q.fmt).filterMap (fun u =>
    let r := c.region q.task u.g
    badWord c q.task r (readBase r q.seq + u.off / 16) (wordsOf u.len))).head?

/-- Word offset of an operand in its region. -/
def usePos (c : Core) (q : QInstr) (u : RUse) : Nat := readBase (c.region q.task u.g) q.seq + u.off / 16

/-- Reserve, write and advance one result (R75, R77, R154): the bytes go to the new reservation, which starts past all older ones,
and whose tail advance takes effect or is deferred. -/
def putResult (c : Core) (q : QInstr) (g : Nat) (n : Nat) (bs : Bytes) : Core :=
  let r0 := c.region q.task g
  let r := reserve r0 q.seq (wordsOf n)
  let c := c.setRegion q.task g r
  let c := regionWrite q.task r (r0.tail + r0.rsv) c 0 bs
  c.setRegion q.task g (doneWriter (tailAdvance r q.seq) q.seq)

/-- Finish the reads of an instruction: heads advance by what was declared (R77, R100). -/
def finishReads (c : Core) (op : Op) (q : QInstr) : Core :=
  ((readsOf op q.word q.fmt).map RUse.g).eraseDups.foldl (fun c g =>
    c.setRegion q.task g (finishRead (c.region q.task g) q.seq)) c

/-- An engine instruction that reads region operands, computes and writes region results in one step: the issue
conditions and stall causes of R121, the parity of port B (R160), then the work. -/
def issueCompute (s : State) (n : Nat) (op : Op) (f : CoreCmd → Core → QInstr → List (Nat × Nat × Bytes) × FlagSet) : State :=
  withHead s n op (fun m c q =>
    match badRegion c op q with
    | some g => refusedAccess s n m op q g
    | none =>
      if !operandsReady c op q then s.setCore n (c.stall (engNo (engOf op)) 0)
      else if !resultsFree c op q then s.setCore n (c.stall (engNo (engOf op)) 1)
      else
        match operandBad c op q with
        | some w => parityAbort s n m 2 w w
        | none =>
          let (outs, fl) := f m c q
          let c := popQueue { c with flags := orFlags c.flags fl } (engOf op)
          let c := outs.foldl (fun c o => putResult c q o.1 o.2.1 o.2.2) c
          s.setCore n ((finishReads c op q).busyCycle (engNo (engOf op))))

end Sys2Proof.Machine
end

