-- ==== Sys2Proof/Machine/Array.lean ====
section
/-! DEFINITION. Sys2Proof/Machine/Array.lean: the matrix array: MX.MM, MX.CV, MX.DR, MX.FMT and the tile load (R65 to
R82, R105, R106). -/

namespace Sys2Proof.Machine

/-- A task's random coordinate as the draw of R269 takes it. -/
def coordOf (r : RngAt) : Coord := { step := r.step, mb := r.mb, layer := r.layer }

/-- The job seed of a command's partition (R268). -/
def seedOf (s : State) (m : CoreCmd) : Nat := (s.job (cmdPart m)).seed

/-- The draw of element e of a stochastic conversion (R120, R269). -/
def drawAt (seed stream : Nat) (q : QInstr) (e : Nat) : Nat := draw seed stream (coordOf q.rng) ((q.base + e) % 2 ^ 51)

/-- The accumulator half an instruction names. -/
def halfOf (c : Core) (h : Nat) : AccHalf := if h = 0 then c.acc0 else c.acc1
/-- Replace an accumulator half. -/
def setHalf (c : Core) (h : Nat) (a : AccHalf) : Core := if h = 0 then { c with acc0 := a } else { c with acc1 := a }

/-- The bits a pass reads from entry (t, j) of a half: +0 for an entry not written or of the other mode (R79, R80). -/
def accBits (a : AccHalf) (int : Bool) (t j : Nat) : Nat := if a.int = int then Tbl.get 0 a.cells (128 * t + j) else 0

/-- Reduction count of a pass (R61, R69). -/
def redOf (op : Op) (w : Nat) : Nat := if op = .mxCv then mxS w * mxCg w else mxK w

/-- Position of reduction index k of token t in the streamed operand, in elements and in block scales (R69, R72). -/
def opndPos (op : Op) (w t k : Nat) : Nat × Nat :=
  if op = .mxCv then
    let cg := mxCg w
    ((t + k / cg) * cg + k % cg, (t + k / cg) * cdiv cg 32 + k % cg / 32)
  else (t * mxK w + k, t * cdiv (mxK w) 32 + k / 32)

/-- The operands of a pass as it reads them: A from its regions at the read position, B from the shadow registers
(R71, R72, R74, R263). -/
def passIn (c : Core) (m : CoreCmd) (q : QInstr) (op : Op) (sh : Shadow) : PassIn :=
  let w := q.word
  let f := q.fmt
  let ra := c.region q.task (mxOpnd w)
  let pa := readBase ra q.seq + mxOff w
  let rs := c.region q.task (afScaleG f)
  let ps := readBase rs q.seq + afScaleOff f
  { fa := afA f, fb := afB f, flush := m.flush, red := redOf op w
    perElem := op == .mxCv && isMx (afA f) && mxCg w % 32 != 0
    ea := fun t k => elemAt (regionByte c q.task ra pa) (codeBits (afA f)) (opndPos op w t k).1
    xa := fun t k => regionByte c q.task rs ps (opndPos op w t k).2
    eb := fun k j => elemAt (fun i => (Mem.rd sh.tile i).toNat) (codeBits (afB f)) (128 * k + j)
    xb := fun k j => (Mem.rd sh.scales (128 * (k / 32) + j)).toNat }

/-- The entries (t, j) of tokens below M and columns below N, in drain order (R80, R81). -/
def passCells (w : Nat) : List (Nat × Nat) := (upto (mxM w)).flatMap (fun t => (upto (mxN w)).map (fun j => (t, j)))

/-- A half after a pass, with the flags of its chunk stages: entries the pass does not write keep their bits, whatever mode wrote
them (R61 to R63, R80). -/
def runPass (a : AccHalf) (init : Bool) (w : Nat) (p : PassIn) : AccHalf × FlagSet :=
  let int := p.fa == 11
  let start (t j : Nat) : Nat := if init then 0 else accBits a int t j
  let outs := (passCells w).map (fun x => (x, passPoint p x.1 x.2 (start x.1 x.2)))
  ({ int := int, cells := outs.foldl (fun t o => Tbl.set t (128 * o.1.1 + o.1.2) o.2.1) a.cells },
    outs.foldl (fun f o => orFlags f o.2.2) noFlags)

/-- One accumulator value as the drain reads it (R81, R82). -/
def accNum (a : AccHalf) (flush : Bool) (t j : Nat) : Num × FlagSet :=
  let v := Tbl.get 0 a.cells (128 * t + j)
  if a.int then (ofInt (sext 32 v), noFlags) else readNum fp32 flush v

/-- The bytes of a drain and its flags (R81): values in token then column order; an MX store's groups along columns or
tokens, its scales after its elements (R72). -/
def drainBytes (a : AccHalf) (flush : Bool) (seed : Nat) (q : QInstr) : Bytes × FlagSet :=
  let w := q.word
  let f := q.fmt
  let n := mxN w
  let cm := afCmode f
  let dr (e : Nat) : Nat := drawAt seed (afStream f) q e
  if !isMx (afR f) then
    let outs := (passCells w).map (fun x =>
      let (v, fl) := accNum a flush x.1 x.2
      let (o, fo) := convert (afR f) cm (dr (x.1 * n + x.2)) flush v
      (o, orFlags fl fo))
    (packElems (codeBits (afR f)) (outs.map Prod.fst), outs.foldl (fun g o => orFlags g o.2) noFlags)
  else if !afBlk f then
    let groups := (upto (mxM w)).flatMap (fun t => (upto (cdiv n 32)).map (fun g =>
      let js := (upto (min 32 (n - 32 * g))).map (· + 32 * g)
      mxStore (afR f) cm (js.map (fun j => accNum a flush t j)) (js.map (fun j => dr (t * n + j)))))
    (packElems (codeBits (afR f)) (groups.flatMap (fun g => g.2.1)) ++ groups.map (fun g => BitVec.ofNat 8 g.1),
      groups.foldl (fun fl g => orFlags fl g.2.2) noFlags)
  else
    let blocks := (upto (mxM w / 32)).flatMap (fun b => (upto n).map (fun j =>
      let ts := (upto 32).map (· + 32 * b)
      mxStore (afR f) cm (ts.map (fun t => accNum a flush t j)) (ts.map (fun t => dr (t * n + j)))))
    let elem (t j : Nat) : Nat := ((blocks.getD (t / 32 * n + j) (0, [], noFlags)).2.1).getD (t % 32) 0
    (packElems (codeBits (afR f)) ((passCells w).map (fun x => elem x.1 x.2)) ++ blocks.map (fun g => BitVec.ofNat 8 g.1),
      blocks.foldl (fun fl g => orFlags fl g.2.2) noFlags)

/-- The stationary operand takes two slots (R138). -/
def wideTile (f : Nat) : Bool := is16 (afB f)

/-- Slots of a tile. -/
def tileSlots (w f : Nat) : List Nat := if wideTile f then [mxTile w, mxTile w + 1] else [mxTile w]

/-- Whether the named tile is valid in the named order (R74 condition 4, R139). -/
def tileValid (c : Core) (w f : Nat) : Bool :=
  (tileSlots w f).all (fun i => bit (if mxOrder w then c.wbuf.validT else c.wbuf.validS) i)

/-- Drain a half into the result region when the instruction drains (R75, R77, R81). -/
def drainTo (c : Core) (seed : Nat) (m : CoreCmd) (q : QInstr) (op : Op) : Core :=
  if drains op q.word then
    let (bs, fl) := drainBytes (halfOf c (mxHalf q.word)) m.flush seed q
    putResult { c with flags := orFlags c.flags fl } q (mxRes q.word) (resultBytes q.word q.fmt) bs
  else c

/-- Issue of an array pass: the conditions of R74 in their order, the parity of port A (R160), then the pass and its
drain. -/
def issuePass (s : State) (n : Nat) (op : Op) : State :=
  withHead s n op (fun m c q =>
    match badRegion c op q with
    | some g => refusedAccess s n m op q g
    | none =>
      if !operandsReady c op q then s.setCore n (c.stall 0 0)
      else
        match c.shadow with
        | none => s.setCore n (c.stall 0 0)
        | some sh =>
          if sh.seq ≠ q.seq || !tileValid c q.word q.fmt then s.setCore n (c.stall 0 0)
          else if !resultsFree c op q then s.setCore n (c.stall 0 1)
          else
            match operandBad c op q with
            | some w => parityAbort s n m 1 w w
            | none =>
              let h := mxHalf q.word
              let (a, fl) := runPass (halfOf c h) (mxInit q.word) q.word (passIn c m q op sh)
              let c := finishReads c op q
              let c := setHalf { c with flags := orFlags c.flags fl, shadow := none } h a
              let c := drainTo c (seedOf s m) m q op
              s.setCore n ((popQueue c .mx).busyCycle 0))

/-- Issue of MX.DR (R81): only room for the result is needed. -/
def issueDrain (s : State) (n : Nat) : State :=
  withHead s n .mxDr (fun m c q =>
    match badRegion c .mxDr q with
    | some g => refusedAccess s n m .mxDr q g
    | none =>
      if !resultsFree c .mxDr q then s.setCore n (c.stall 0 1)
      else s.setCore n ((popQueue (drainTo c (seedOf s m) m q .mxDr) .mx).busyCycle 0))

/-- MX.MM: matrix pass (R74, R105). -/
def execMxMm (core : Nat) (ev : EngEv) (s : State) : Res :=
  match ev with
  | .dispatch t => .next (dispatchOp s core t .mxMm)
  | .issue => .next (issuePass s core .mxMm)

/-- MX.CV: convolution pass (R69, R74). -/
def execMxCv (core : Nat) (ev : EngEv) (s : State) : Res :=
  match ev with
  | .dispatch t => .next (dispatchOp s core t .mxCv)
  | .issue => .next (issuePass s core .mxCv)

/-- MX.DR: drain only (R81). -/
def execMxDr (core : Nat) (ev : EngEv) (s : State) : Res :=
  match ev with
  | .dispatch t => .next (dispatchOp s core t .mxDr)
  | .issue => .next (issueDrain s core)

/-- MX.FMT: at the queue head it sets its task's array format, in a busy cycle (R106, R427). -/
def execMxFmt (core : Nat) (ev : EngEv) (s : State) : Res :=
  match ev with
  | .dispatch t => .next (dispatchOp s core t .mxFmt)
  | .issue => .next (withHead s core .mxFmt (fun _ c q =>
      s.setCore core ((popQueue (c.setTask q.task { c.task q.task with fmt := some q.word }) .mx).busyCycle 0)))

/-- The slots an ST.TIL writes (R113). -/
def tilSlots (w : Nat) : List Nat := if tilWide w then [tilTile w, tilTile w + 1] else [tilTile w]

/-- The first tile of a delivery that its head keeps in one of some slots (R189): the slots of successive tiles repeat after
32. -/
def headTile (d : List Nat) (slots : List Nat) : Option Nat :=
  if wchFirst d ≠ 0 then none
  else
    let n := if wchDist d then wchLast d + 1 else 1
    ((upto 32).map (· * n)).find? (fun t => decide (t < dLen d / wchRecBytes d) && (wchSlots d t).any (fun i => slots.contains i))

/-- Whether an ST.WCH that its core dispatched before an array instruction has still to write the tile it names there (R140). -/
def deliveryPending (c : Core) (q : QInstr) : Bool :=
  let slots := tileSlots q.word q.fmt
  c.q.st.any (fun y => decide (y.seq < q.seq) && opOf y.word == some .stWch && (headTile (streamDesc c y.word) slots).isSome) ||
  c.slots.any (fun y => y.2.active && y.2.op == .stWch && decide (y.2.seq < q.seq) &&
    (match headTile y.2.desc slots with
     | some t => decide (y.2.run < (t + 1) * wchRecBytes y.2.desc)
     | none => false))

/-- Whether an ST.TIL or ST.WCH that its core dispatched before an array instruction has still to write the tile it names
(R140): by dispatch order the instruction reads that later tile. -/
def writePending (c : Core) (q : QInstr) : Bool :=
  deliveryPending c q ||
    c.q.st.any (fun y => decide (y.seq < q.seq) && opOf y.word == some .stTil &&
      (tilSlots y.word).any (fun i => (tileSlots q.word q.fmt).contains i))

/-- The tile load of the head array instruction: a valid tile enters free shadow registers, its words checked for
parity (R74, R142). -/
def execTileLoad (core : Nat) (s : State) : Res :=
  let c := s.core core
  match c.cmd, c.q.mx with
  | some m, q :: _ =>
    let op := opOf q.word
    if (op = some .mxMm || op = some .mxCv) && c.shadow.isNone && tileValid c q.word q.fmt &&
        !writePending c q then
      let o := b2n (mxOrder q.word)
      match (tileSlots q.word q.fmt).find? (fun i => c.wbuf.bad.contains (2 * i + o)) with
      | some i => .next (parityAbort s core m 5 (32 * o + i) (32 * o + i))
      | none =>
        let a := 16384 * mxTile q.word
        let n := if wideTile q.fmt then 32768 else 16384
        let sh : Shadow :=
          { seq := q.seq, tile := Mem.slice (if mxOrder q.word then c.wbuf.trans else c.wbuf.stored) a n
            scales := Mem.slice c.wbuf.scales (1024 * mxTile q.word) 1024 }
        .next (s.setCore core { c with shadow := some sh })
    else .next s
  | _, _ => .next s

end Sys2Proof.Machine
end

