-- ==== Sys2Proof/Machine/Vector.lean ====
section
/-! DEFINITION. Sys2Proof/Machine/Vector.lean: the vector unit: VX.B, VX.T and VX.U (R107 to R110, R121). -/

namespace Sys2Proof.Machine

/-- The element format of a 2-bit FMT field. -/
def fmtOf2 (code : Nat) : Fmt := (fmtOfCode code).getD fp32

/-- Raw bits of element i of an operand. -/
def opElem (c : Core) (q : QInstr) (u : RUse) (code i : Nat) : Nat :=
  elemAt (regionByte c q.task (c.region q.task u.g) (usePos c q u)) (codeBits code) i

/-- An FP32 operand value converted to the operation's format by round to nearest even (R108). -/
def toFmt (f : Fmt) (flush : Bool) (v : Nat) : Nat × FlagSet :=
  if f = fp32 then (v, noFlags)
  else
    let (x, fl) := readNum fp32 flush v
    let (o, fo) := deliver f .rne false flush x
    (o, orFlags fl fo)

/-- Element i of operand B or C in its form (R108): one value per element, row or column, or the scalar. -/
def formElem (c : Core) (q : QInstr) (g : Nat) (off form s : Nat) (f : Fmt) (code cols i : Nat) (flush : Bool) : Nat × FlagSet :=
  let u : RUse := { g := g, off := off, len := 0, rel := false }
  match form with
  | 0 => (opElem c q u code i, noFlags)
  | 1 => toFmt f flush (opElem c q u 0 (i / cols))
  | 2 => toFmt f flush (opElem c q u 0 (i % cols))
  | _ => toFmt f flush s

/-- Join per-element results into bytes and flags. -/
def packOut (code : Nat) (outs : List (Nat × FlagSet)) : Bytes × FlagSet :=
  (packElems (codeBits code) (outs.map Prod.fst), outs.foldl (fun f o => orFlags f o.2) noFlags)

/-- One VX.B operation (R108). -/
def vxbOp (f : Fmt) (flush : Bool) (funct a b : Nat) : Nat × FlagSet :=
  match funct with
  | 0 => addBits f flush false a b
  | 1 => addBits f flush true a b
  | 2 => mulBits f flush a b
  | 3 => minmaxBits f flush true false a b
  | 4 => minmaxBits f flush false false a b
  | 5 => minmaxBits f flush true true a b
  | _ => minmaxBits f flush false true a b

/-- The result of VX.B. -/
def vxbWork (m : CoreCmd) (c : Core) (q : QInstr) : List (Nat × Nat × Bytes) × FlagSet :=
  let w := q.word
  let code := fmt2 w
  let f := fmtOf2 code
  let n := vRows w * vWidth w * 64
  let ua : RUse := { g := vA w, off := vAOff w * 1024, len := 0, rel := false }
  let outs := (upto n).map (fun i =>
    let (b, fb) := formElem c q (vB w) (vBOff w * 1024) (vBForm w) q.s1 f code (vWidth w * 64) i m.flush
    let (o, fo) := vxbOp f m.flush (vFunct w) (opElem c q ua code i) b
    (o, orFlags fb fo))
  let (bs, fl) := packOut code outs
  ([(vD w, elemBytes code n, bs)], fl)

/-- The result of VX.T: a fused multiply-add rounded once (R108). -/
def vxtWork (m : CoreCmd) (c : Core) (q : QInstr) : List (Nat × Nat × Bytes) × FlagSet :=
  let w := q.word
  let code := fmt2 w
  let f := fmtOf2 code
  let n := vRows w * vWidth w * 64
  let cols := vWidth w * 64
  let ua : RUse := { g := vA w, off := 0, len := 0, rel := false }
  let sc := if tBForm w = 3 then q.s2 else q.s1
  let outs := (upto n).map (fun i =>
    let (b, fb) := formElem c q (tB w) 0 (tBForm w) q.s1 f code cols i m.flush
    let (d, fd) := formElem c q (tC w) 0 (tCForm w) sc f code cols i m.flush
    let (o, fo) := fmaBits f m.flush (vFunct w == 2) (vFunct w == 1) (opElem c q ua code i) b d
    (o, orFlags fb (orFlags fd fo)))
  let (bs, fl) := packOut code outs
  ([(tD w, elemBytes code n, bs)], fl)

/-- The source operand of VX.U. -/
def uSrc (w : Nat) : RUse := { g := uA w, off := uAOff w * 1024, len := 0, rel := false }

/-- The result of CVT (R109): conversion under R55 to R60, MX scales through the array format's scale region. -/
def cvtWork (seed : Nat) (m : CoreCmd) (c : Core) (q : QInstr) : List (Nat × Nat × Bytes) × FlagSet :=
  let w := q.word
  let n := uRows w * uWidth w * 64
  let rs := c.region q.task (afScaleG q.fmt)
  let ps := readBase rs q.seq + afScaleOff q.fmt
  let rd (i : Nat) : Num × FlagSet :=
    let v := opElem c q (uSrc w) (uFmtS w) i
    if isMx (uFmtS w) then readScaled (uFmtS w) m.flush v (regionByte c q.task rs ps (i / 32)) else readElem (uFmtS w) m.flush v
  let dr (i : Nat) : Nat := if uCmode w ≥ 2 then drawAt seed (uStream w) q i else 0
  if !isMx (uFmtR w) then
    let outs := (upto n).map (fun i =>
      let (x, fx) := rd i
      let (o, fo) := convert (uFmtR w) (uCmode w) (dr i) m.flush x
      (o, orFlags fx fo))
    let (bs, fl) := packOut (uFmtR w) outs
    ([(uD w, elemBytes (uFmtR w) n, bs)], fl)
  else
    let groups := (upto (n / 32)).map (fun g =>
      let is := (upto 32).map (· + 32 * g)
      mxStore (uFmtR w) (uCmode w) (is.map rd) (is.map dr))
    ([(uD w, elemBytes (uFmtR w) n, packElems (codeBits (uFmtR w)) (groups.flatMap (fun g => g.2.1))),
      (afScaleG q.fmt, n / 32, groups.map (fun g => BitVec.ofNat 8 g.1))],
      groups.foldl (fun fl g => orFlags fl g.2.2) noFlags)

/-- The result of COPY, NEG, ABS and TRN: bit operations on elements in a new order, with no flag (R109). -/
def moveWork (q : QInstr) (c : Core) (src : Nat → Nat) (bitop : Nat → Nat) : List (Nat × Nat × Bytes) × FlagSet :=
  let w := q.word
  let n := uRows w * uWidth w * 64
  let es := (upto n).map (fun i => bitop (opElem c q (uSrc w) (uFmtS w) (src i)))
  ([(uD w, elemBytes (uFmtR w) n, packElems (codeBits (uFmtR w)) es)], noFlags)

/-- The sign bit of a format code. -/
def signBit (code : Nat) : Nat := 2 ^ (codeBits code - 1)

/-- Source element of output element i of a transpose: output rows are the WIDTH × 64 source columns (R109). -/
def trnSrc (w i : Nat) : Nat := i % uRows w * (uWidth w * 64) + i / uRows w

/-- Combine neighbours 2i and 2i + 1 (R110). -/
def pairUp (op : Nat → Nat → Nat × FlagSet) : List Nat → List Nat × FlagSet
  | a :: b :: xs =>
    let (o, f) := op a b
    let (os, g) := pairUp op xs
    (o :: os, orFlags f g)
  | xs => (xs, noFlags)

/-- A balanced binary tree over 2^k terms (R110). -/
def treeUp (op : Nat → Nat → Nat × FlagSet) : Nat → List Nat → Nat × FlagSet
  | 0, xs => (xs.headD 0, noFlags)
  | k + 1, xs =>
    let (ys, f) := pairUp op xs
    let (o, g) := treeUp op k ys
    (o, orFlags f g)

/-- Combine terms in the fixed order of R110: trees over groups of 64, then the groups in increasing order. -/
def reduceRow (op : Nat → Nat → Nat × FlagSet) (terms : List Nat) : Nat × FlagSet :=
  let gs := (upto (terms.length / 64)).map (fun g => treeUp op 6 ((terms.drop (64 * g)).take 64))
  match gs with
  | [] => (0, noFlags)
  | g :: rest => rest.foldl (fun a x => let (o, f) := op a.1 x.1; (o, orFlags a.2 (orFlags x.2 f))) g

/-- The result of a row reduction: terms widened to FP32 under the flush bit, `pre` applied, then combined (R110). -/
def rowWork (m : CoreCmd) (c : Core) (q : QInstr) (pre : Nat → Nat × FlagSet) (op : Nat → Nat → Nat × FlagSet) :
    List (Nat × Nat × Bytes) × FlagSet :=
  let w := q.word
  let cols := uWidth w * 64
  let f := fmtOf2 (uFmtS w)
  let outs := (upto (uRows w)).map (fun r =>
    let terms := (upto cols).map (fun i =>
      let (x, fx) := readNum f m.flush (opElem c q (uSrc w) (uFmtS w) (r * cols + i))
      let (v, fv) := deliver fp32 .rne false false x
      let (t, ft) := pre v
      (t, orFlags fx (orFlags fv ft)))
    let (o, fo) := reduceRow op (terms.map Prod.fst)
    (o, terms.foldl (fun g t => orFlags g t.2) fo))
  let (bs, fl) := packOut 0 outs
  ([(uD w, uRows w * 4, bs)], fl)

/-- A vector instruction: its dispatch, or its issue with the given work. -/
def vxStep (s : State) (core : Nat) (ev : EngEv) (op : Op)
    (f : CoreCmd → Core → QInstr → List (Nat × Nat × Bytes) × FlagSet) : State :=
  match ev with
  | .dispatch t => dispatchOp s core t op
  | .issue => issueCompute s core op f

/-- The seed of the command a core runs. -/
def coreSeed (s : State) (core : Nat) : Nat :=
  match (s.core core).cmd with
  | some m => seedOf s m
  | none => 0

/-- VX.B: two-operand operation (R107, R108). -/
def execVxB (core : Nat) (ev : EngEv) (s : State) : Res := .next (vxStep s core ev .vxB vxbWork)

/-- VX.T: fused three-operand operation (R107, R108). -/
def execVxT (core : Nat) (ev : EngEv) (s : State) : Res := .next (vxStep s core ev .vxT vxtWork)

/-- VX.U CVT: conversion (R109). -/
def execVxUCvt (core : Nat) (ev : EngEv) (s : State) : Res := .next (vxStep s core ev .vxCvt (cvtWork (coreSeed s core)))

/-- VX.U COPY (R109). -/
def execVxUCopy (core : Nat) (ev : EngEv) (s : State) : Res :=
  .next (vxStep s core ev .vxCopy (fun _ c q => moveWork q c (fun i => i) (fun v => v)))

/-- VX.U NEG (R109). -/
def execVxUNeg (core : Nat) (ev : EngEv) (s : State) : Res :=
  .next (vxStep s core ev .vxNeg (fun _ c q => moveWork q c (fun i => i) (fun v => v ^^^ signBit (uFmtS q.word))))

/-- VX.U ABS (R109). -/
def execVxUAbs (core : Nat) (ev : EngEv) (s : State) : Res :=
  .next (vxStep s core ev .vxAbs (fun _ c q => moveWork q c (fun i => i) (fun v => v % signBit (uFmtS q.word))))

/-- VX.U TRN: transpose (R109). -/
def execVxUTrn (core : Nat) (ev : EngEv) (s : State) : Res :=
  .next (vxStep s core ev .vxTrn (fun _ c q => moveWork q c (trnSrc q.word) (fun v => v)))

/-- VX.U RSUM: one sum per row (R110). -/
def execVxURsum (core : Nat) (ev : EngEv) (s : State) : Res :=
  .next (vxStep s core ev .vxRsum (fun m c q => rowWork m c q (fun v => (v, noFlags)) (addBits fp32 m.flush false)))

/-- VX.U RMAX: one maximum per row, under the maximum of R48 (R109, R110). -/
def execVxURmax (core : Nat) (ev : EngEv) (s : State) : Res :=
  .next (vxStep s core ev .vxRmax (fun m c q => rowWork m c q (fun v => (v, noFlags)) (minmaxBits fp32 m.flush true false)))

/-- VX.U RSUMSQ: one sum of squares per row (R110). -/
def execVxURsumsq (core : Nat) (ev : EngEv) (s : State) : Res :=
  .next (vxStep s core ev .vxRsumsq (fun m c q => rowWork m c q (fun v => mulBits fp32 m.flush v v) (addBits fp32 m.flush false)))

end Sys2Proof.Machine
end

