-- ==== Sys2Proof/Machine/FuncUnit.lean ====
section
/-! DEFINITION. Sys2Proof/Machine/FuncUnit.lean: the function unit: tables, special values, derivative modes and output
formulas, and FX.FWD, FX.BWI and FX.BWO (R111, R127 to R137). -/

namespace Sys2Proof.Machine

/-! ### Functions (R127) -/

/-- EXP. -/
def fnExp : Nat := 0
/-- LOG. -/
def fnLog : Nat := 1
/-- SIGMOID. -/
def fnSigmoid : Nat := 2
/-- TANH. -/
def fnTanh : Nat := 3
/-- GELU. -/
def fnGelu : Nat := 4
/-- SILU. -/
def fnSilu : Nat := 5
/-- RELU. -/
def fnRelu : Nat := 6
/-- RECIP. -/
def fnRecip : Nat := 7
/-- RSQRT. -/
def fnRsqrt : Nat := 8
/-- SQRT. -/
def fnSqrt : Nat := 9

/-- Whether a function's tables are segmented on x itself (R127). -/
def fnDirect (func : Nat) : Bool := decide (2 ≤ func) && decide (func ≤ 5)

/-- Sign of a number. -/
def numSign : Num → Bool
  | .nan _ => false
  | .inf n => n
  | .fin n _ _ => n

/-- Magnitude of a number. -/
def numAbs : Num → Num
  | .nan s => .nan s
  | .inf _ => .inf false
  | .fin _ m e => .fin false m e

/-! ### Table evaluation (R130) -/

/-- A fused multiply-add of FP32 words, rounded once (R130: steps 3 and 4 of R132 keep gradual underflow). -/
def fma32 (a b c : Nat) : Nat × FlagSet := fmaBits fp32 false false false a b c

/-- `tail` of R130. -/
def fxTail (a b x : Nat) : Nat × FlagSet := if a % 2147483648 = 0 then (b, noFlags) else fma32 a x b

/-- The entry read of R130 at a positive finite argument m * 2^e. -/
def fxEntry (tb : FnTable) (s : Nat) (m : Nat) (e : Int) : Nat × FlagSet :=
  let x := expOf m e
  let f := (if log2 m ≤ 23 then m * 2 ^ (23 - log2 m) else m / 2 ^ (log2 m - 23)) % 2 ^ 23
  let sh := 23 - tb.l
  let j := f / 2 ^ sh
  let t := (toF32 (.fin false (f % 2 ^ sh) (-(sh : Int)), noFlags)).1
  let nB := (tb.emax - tb.emin + 1).toNat
  let (c0, c1, c2) := tb.ents.getD ((s * nB + (x - tb.emin).toNat) * 2 ^ tb.l + j) (0, 0, 0)
  let (i, fi) := fma32 t c2 c1
  let (o, fo) := fma32 t i c0
  (o, orFlags fi fo)

/-- `tab_eval` of R130 for a direct table at an FP32 argument that is not NaN. -/
def fxDirect (tb : FnTable) (xb : Nat) : Nat × FlagSet :=
  let x := ofF32 xb
  let hi := if numSign x then fxTail tb.hinA tb.hinB xb else fxTail tb.hipA tb.hipB xb
  match x with
  | .fin n m e =>
    if m = 0 || decide (expOf m e < tb.emin) then fxTail tb.lowA tb.lowB xb
    else if tb.emax < expOf m e then hi
    else fxEntry tb (b2n n) m e
  | _ => hi

/-- Scaling by a power of two, rounded only outside the normal range (R129). FP32 spans 2^-149 to 2^128, so a shift beyond 1,000
gives what 1,000 gives. -/
def fxScale (v : Nat) (k : Int) : Nat × FlagSet :=
  match ofF32 v with
  | .fin n m e => toF32 (.fin n m (e + max (-1000) (min 1000 k)), noFlags)
  | _ => (v, noFlags)

/-- log2 e rounded to nearest to 48 significant bits, as a multiple of 2^-47 (R129). -/
def log2eM : Nat := 203041276517400

/-- ln 2 rounded to FP32 (R129). -/
def ln2F32 : Nat := 0x3F317218

/-- The reduced argument of EXP (R129): n and u for finite x. -/
def expReduce (neg : Bool) (m : Nat) (e : Int) : Int × Nat :=
  let p : Int := if neg then -((m * log2eM : Nat) : Int) else ((m * log2eM : Nat) : Int)
  let pe := e - 47
  let (n, fr, fe) : Int × Nat × Int :=
    if 0 ≤ pe then (p * 2 ^ pe.toNat, 0, 0)
    else
      let d : Int := (2 ^ (-pe).toNat : Nat)
      (p / d, (p % d).toNat, pe)
  let u := (toF32 (addFin false 1 0 false fr fe, noFlags)).1
  if u = 0x40000000 then (n + 1, 0x3F800000) else (n, u)

/-- Canonical NaN with invalid set (R132). -/
def fxInvalid : Nat × FlagSet := (canonNaN fp32, { invalid := true, nanSeen := true })

/-- +infinity. -/
def infP : Nat := 0x7F800000
/-- -infinity. -/
def infN : Nat := 0xFF800000
/-- -0. -/
def zeroN : Nat := 0x80000000

/-- The special values of R132 for f (deriv false) and for the derivative factor, as +0, -0, +infinity, -infinity; none
where the table path is taken. A finite x < 0 is invalid as -infinity is, except for EXP and RECIP. -/
def fxSpecial (func : Nat) (deriv : Bool) : Num → Option (Nat × FlagSet)
  | .nan _ => some (canonNaN fp32, { nanSeen := true })
  | .inf false =>
    some (if func = fnExp || (!deriv && (func = fnLog || func = fnSqrt)) then infP
          else if deriv && (func = fnRecip || func = fnRsqrt) then zeroN else 0, noFlags)
  | .inf true =>
    if func = fnExp then some (0, noFlags)
    else if func = fnRecip then some (zeroN, noFlags)
    else some fxInvalid
  | .fin neg 0 _ =>
    if func = fnExp then none
    else
      let v :=
        if func = fnLog then (if deriv && !neg then infP else infN)
        else if func = fnRecip then (if deriv || neg then infN else infP)
        else if func = fnRsqrt then (if deriv then (if neg then infP else infN) else (if neg then infN else infP))
        else (if deriv then (if neg then infN else infP) else (if neg then zeroN else 0))
      some (v, noFlags)
  | .fin neg _ _ => if neg && (func = fnLog || func = fnRsqrt || func = fnSqrt) then some fxInvalid else none

/-- The table path of a reduced function at a finite x (R129). -/
def fxReduced (func : Nat) (deriv : Bool) (tb : FnTable) (neg : Bool) (m : Nat) (e : Int) : Nat × FlagSet :=
  let x := expOf m e
  if func = fnExp then
    let (n, u) := expReduce neg m e
    match ofF32 u with
    | .fin _ um ue =>
      let (t, ft) := fxEntry tb 0 um ue
      let (r, fr) := fxScale t n
      (r, orFlags ft fr)
    | _ => fxInvalid
  else if func = fnLog || func = fnRecip then
    let (t, ft) := fxEntry tb 0 m (e - x)
    let (r, fr) :=
      if func = fnLog then
        if deriv then fxScale t (-x)
        else
          let (p, _) := mulNum (ofInt x) (ofF32 ln2F32)
          toF32 (addNum p (ofF32 t))
      else
        let (r, fr) := fxScale t (if deriv then -2 * x else -x)
        (if !deriv && neg then r ^^^ zeroN else r, fr)
    (r, orFlags ft fr)
  else
    let k := if x % 2 = 0 then x else x - 1
    let (t, ft) := fxEntry tb 0 m (e - k)
    let (r, fr) := fxScale t (if func = fnRsqrt then (if deriv then -3 * (k / 2) else -(k / 2)) else (if deriv then -(k / 2) else k / 2))
    (r, orFlags ft fr)

/-- f(x), or f'(x), through a table, at FP32 x (R129, R130, R132). -/
def fxTable (func : Nat) (deriv : Bool) (tb : FnTable) (xb : Nat) : Nat × FlagSet :=
  match ofF32 xb with
  | .nan _ => (canonNaN fp32, { nanSeen := true })
  | x =>
    if fnDirect func then fxDirect tb xb
    else
      match fxSpecial func deriv x with
      | some r => r
      | none =>
        match x with
        | .fin n m e => fxReduced func deriv tb n m e
        | _ => fxInvalid

/-- Whether an FP32 word is above zero (R132: RELU gives 0 at both zeros). -/
def posF32 (x : Nat) : Bool := decide (0 < x) && decide (x ≤ infP)

/-- f(x) from the forward table, or RELU (R127). -/
def fxForward (func : Nat) (tb : FnTable) (x : Nat) : Nat × FlagSet :=
  if func = fnRelu then
    (if numIsNan (ofF32 x) then (canonNaN fp32, { nanSeen := true }) else if posF32 x then (x, noFlags) else (0, noFlags))
  else fxTable func false tb x

/-- The output formulas of R137, of a y that a zero slope's intercept may give as a signalling NaN (R50, R130). -/
def fxFormula (func y : Nat) : Nat × FlagSet :=
  let yn := y ^^^ zeroN
  if numIsNan (ofF32 y) then (canonNaN fp32, (readNum fp32 false y).2)
  else if func = fnExp then (y, noFlags)
  else if func = fnRelu then (if posF32 y then 0x3F800000 else 0, noFlags)
  else if func = fnSigmoid then fma32 yn y y
  else if func = fnTanh then fma32 yn y 0x3F800000
  else if func = fnRecip then
    let (p, f) := mulBits fp32 false y y
    (if numIsNan (ofF32 p) then p else p ^^^ zeroN, f)
  else if func = fnRsqrt then
    let (a, fa) := mulBits fp32 false 0xBF000000 y
    let (b, fb) := mulBits fp32 false y y
    let (c, fc) := mulBits fp32 false a b
    (c, orFlags fa (orFlags fb fc))
  else
    let neg := numLt (ofF32 y) (ofF32 zeroN)
    if neg then
      let (v, f) := fma32 (if func = fnGelu then 0x40400000 else 0x3FE66666) y 0x3F000000
      ((minmaxBits fp32 false true false v 0).1, f)
    else
      let (v, f) := if func = fnGelu then addBits fp32 false false y 0x3F000000 else fma32 0x3F000000 y 0x3F000000
      ((minmaxBits fp32 false false false v 0x3F800000).1, f)

/-! ### Modes (R133 to R136) -/

/-- How an FX instruction evaluates, from the valid bits of its function (R135). -/
inductive FxMode where
  | forward | table | formula | output | notIssued
  deriving DecidableEq, Repr

/-- Whether a table is valid; RELU's bits read 1 (R133). -/
def fxValid (fx : FxState) (func : Nat) (deriv : Bool) : Bool :=
  func == fnRelu || bit (if deriv then fx.drv else fx.fwd) func

/-- The mode of an FX instruction (R135). -/
def fxMode (fx : FxState) (op : Op) (func : Nat) : FxMode :=
  let fo := fxValid fx func false
  let dv := fxValid fx func true
  match op with
  | .fxFwd => if fo then .forward else .notIssued
  | .fxBwo => .output
  | _ => if dv then .table else if fo && func != fnLog && func != fnSqrt then .formula else .notIssued

/-- The tables an evaluation reads, as 2 × FUNC + DERIV. -/
def fxReads (func : Nat) : FxMode → List Nat
  | .forward => if func = fnRelu then [] else [2 * func]
  | .table => if func = fnRelu then [] else [2 * func + 1]
  | .formula => if func = fnRelu then [] else [2 * func]
  | _ => []

/-- The derivative factor in a mode (R127, R135). -/
def fxFactor (fx : FxState) (mode : FxMode) (func x : Nat) : Nat × FlagSet :=
  match mode with
  | .table =>
    if func = fnRelu then
      (if numIsNan (ofF32 x) then (canonNaN fp32, { nanSeen := true }) else if posF32 x then (0x3F800000, noFlags) else (0, noFlags))
    else fxTable func true (Tbl.get {} fx.tabs (2 * func + 1)) x
  | .formula =>
    let (y, fy) := fxForward func (Tbl.get {} fx.tabs (2 * func)) x
    let (d, fd) := fxFormula func y
    (d, orFlags fy fd)
  | _ => fxFormula func x

/-- One element of an FX instruction (R132): widen and flush, evaluate, multiply, round to FMT. The rounding reads a table's result as
any conversion reads its input (R50). -/
def fxElem (fx : FxState) (flush : Bool) (mode : FxMode) (func : Nat) (f : Fmt) (x g : Nat) : Nat × FlagSet :=
  let (xn, f1) := readNum f flush x
  let (xv, _) := deliver fp32 .rne false false xn
  let (r, f2) :=
    match mode with
    | .forward => fxForward func (Tbl.get {} fx.tabs (2 * func)) xv
    | _ =>
      let (gn, fg) := readNum f flush g
      let (gv, _) := deliver fp32 .rne false false gn
      let (d, fd) := fxFactor fx mode func xv
      let (p, fp) := mulBits fp32 false gv d
      (p, orFlags fg (orFlags fd fp))
  let (rn, f3) := readNum fp32 false r
  let (o, f4) := deliver f .rne false flush rn
  (o, orFlags f1 (orFlags f2 (orFlags f3 f4)))

/-- The result of an FX instruction. -/
def fxWork (mode : FxMode) (m : CoreCmd) (c : Core) (q : QInstr) : List (Nat × Nat × Bytes) × FlagSet :=
  let w := q.word
  let code := fmt2 w
  let f := fmtOf2 code
  let n := vRows w * vWidth w * 64
  let ux : RUse := { g := vA w, off := vAOff w * 1024, len := 0, rel := false }
  let ug : RUse := { g := vB w, off := vBOff w * 1024, len := 0, rel := false }
  let outs := (upto n).map (fun i =>
    fxElem c.fx m.flush mode (vFunct w) f (opElem c q ux code i) (if mode = .forward then 0 else opElem c q ug code i))
  let (bs, fl) := packOut code outs
  ([(fxD w, elemBytes code n, bs)], fl)

/-- A table's bad parity: its bit clears, SCP_FXPERR counts, and the command stops with PARITY_ABORT (R134, R161). -/
def fxParity (s : State) (n : Nat) (m : CoreCmd) (key : Nat) : State :=
  let c := s.core n
  let func := key / 2
  let fx := if key % 2 = 0 then { c.fx with fwd := if bit c.fx.fwd func then c.fx.fwd - 2 ^ func else c.fx.fwd }
            else { c.fx with drv := if bit c.fx.drv func then c.fx.drv - 2 ^ func else c.fx.drv }
  let s := s.setCore n { c with fx := { fx with perr := inc32 fx.perr } }
  let loc := key % 2 * 64 + func
  parityAbort s n m 4 loc loc

/-- An FX instruction: dispatch, or issue under its mode (R135: one that does not issue stops the command with
TABLE_UNAVAILABLE as soon as it is the head). -/
def fxStep (s : State) (n : Nat) (ev : EngEv) (op : Op) : State :=
  match ev with
  | .dispatch t => dispatchOp s n t op
  | .issue =>
    let c := s.core n
    match c.cmd, c.q.fx with
    | some m, q :: _ =>
      if opOf q.word != some op then s
      else
        let func := vFunct q.word
        let mode := fxMode c.fx op func
        if mode = .notIssued then stopRun s (cmdPart m) stTable (func % 64)
        else
          let ready := (badRegion c op q).isNone && operandsReady c op q && resultsFree c op q
          match (fxReads func mode).find? (fun k => c.fx.bad.contains k) with
          | some k =>
            if ready && (operandBad c op q).isNone then fxParity s n m k else issueCompute s n op (fxWork mode)
          | none =>
            issueCompute (if ready && mode = .formula then s.setCore n { c with formula := true } else s) n op (fxWork mode)
    | _, _ => issueCompute s n op (fxWork .output)

/-- FX.FWD: f(x) through the forward table (R130, R135). -/
def execFxFwd (core : Nat) (ev : EngEv) (s : State) : Res := .next (fxStep s core ev .fxFwd)

/-- FX.BWI: g times f'(x) from the saved input (R135, R136). -/
def execFxBwi (core : Nat) (ev : EngEv) (s : State) : Res := .next (fxStep s core ev .fxBwi)

/-- FX.BWO: g times the derivative factor from the saved output (R137). -/
def execFxBwo (core : Nat) (ev : EngEv) (s : State) : Res := .next (fxStep s core ev .fxBwo)

end Sys2Proof.Machine
end

