-- ==== Sys2Proof/Machine/Stack.lean ====
section
/-! DEFINITION. Sys2Proof/Machine/Stack.lean: the map and scrub commands (R221 to R223, R226). -/

namespace Sys2Proof.Machine

/-! ### The map registers (R221 to R223, R242) -/

/-- Entries in use. -/
def mapUsed (x : Xlate) : Nat := x.stack.length + x.host.length

/-- Whether reserved fields of an entry are clear and V is 1 (R222). -/
def peFormatOk (host : Bool) (e : Nat) : Bool := peV e && (if host then bits e 48 13 == 0 else bits e 19 42 == 0)

/-- Whether address and target are aligned to the page size (R220, R222). -/
def peAligned (host : Bool) (va e : Nat) : Bool :=
  va % peSize host e == 0 && (if host then peTarget host e % peSize host e == 0 else !peBig e || peTarget host e % 512 == 0)

/-- Whether the page lies in its space and in the partition's frames (R222). -/
def peInRange (host : Bool) (va e frames : Nat) : Bool :=
  decide (va + peSize host e ≤ 2 ^ spaceBits host) && (host || decide (peTarget host e + peSize host e / mib2 ≤ frames))

/-- The refusal of a MAP, or 0: the first check that applies (R222). -/
def mapResult (x : Xlate) (host : Bool) (frames quota : Nat) : Nat :=
  let e := x.mapEnt
  if !peFormatOk host e then 6
  else if !peAligned host x.mapVa e then 1
  else if !peInRange host x.mapVa e frames then 2
  else if (pageTab x host).any (fun y => decide (y.1 < x.mapVa + peSize host e) && decide (x.mapVa < y.1 + peSize host y.2)) then 3
  else if mapUsed x ≥ quota then 4
  else 0

/-- MAP: a write of STM_MAP_CMD with OP 0b01 (R222). Only the partition's own function reaches the register (R221). -/
def execMap (fn : Fn) (host : Bool) (s : State) : Res :=
  match partOfFn s fn with
  | none => .next s
  | some p =>
    let x := s.xlate p
    if x.busy then .next s
    else
      let r := mapResult x host (s.entry p).frameCount (s.entry p).tsQuota
      if r ≠ 0 then .next (s.setXlate p { x with result := r })
      else if host then .next (s.setXlate p { x with result := 0, host := Tbl.set x.host x.mapVa x.mapEnt })
      else .next (s.setXlate p { x with result := 0, stack := Tbl.set x.stack x.mapVa x.mapEnt })

/-- UNMAP: a write of STM_MAP_CMD with OP 0b10 (R222, R223). -/
def execUnmap (fn : Fn) (host : Bool) (s : State) : Res :=
  match partOfFn s fn with
  | none => .next s
  | some p =>
    let x := s.xlate p
    if x.busy then .next s
    else
      match Tbl.find (pageTab x host) x.mapVa with
      | none => .next (s.setXlate p { x with result := 5 })
      | some e =>
        let x := { x with result := 0, busy := true, unmap := some (host, x.mapVa, peSize host e) }
        .next (s.setXlate p (if host then { x with host := Tbl.del x.host x.mapVa } else { x with stack := Tbl.del x.stack x.mapVa }))

/-- Whether a sequence offset of a slot lies in a removed page. -/
def slotIn (x : Slot) (host : Bool) (va n q : Nat) : Bool :=
  let a := slotAddr x q
  (dKind x.desc == 2) == host && dKind x.desc != 3 && dKind x.desc != 5 && dKind x.desc != 6 && decide (va ≤ a) && decide (a < va + n)

/-- The range of a slot's sequence offsets requested and not yet visible (R176, R223): of an ST.IN past the region's tail, of a
delivery from the start of the tile that is not yet complete, of an ST.OUT past the visible bytes. -/
def openBytes (c : Core) (x : Slot) : Nat × Nat :=
  match x.op with
  | .stIn => (tailedBytes x (c.region x.task (stReg x.word)), x.issued)
  | .stWch => (x.run / wchRecBytes x.desc * wchRecBytes x.desc, x.issued)
  | _ => (x.vis, x.issued)

/-- Whether a slot has a request translated through a removed page that is not yet visible (R223). -/
def slotFlies (c : Core) (x : Slot) (host : Bool) (va n : Nat) : Bool :=
  let (a, b) := openBytes c x
  x.active && (upto ((b - a) / 16)).any (fun i => slotIn x host va n (a + 16 * i))

/-- Whether an index read of a live gather through a removed stack page waits in a sorter (R223). -/
def idxFlies (s : State) (p va n : Nat) : Bool :=
  s.units.stkCtl.any (fun k => k.2.sorter.any (fun e => e.part == p && e.reqs.any (fun r =>
    let x := (s.core r.1).slot (r.2.1 % 8)
    x.active && x.seq == r.2.1 / 8 && decide (idxMark ≤ r.2.2) && decide (va ≤ idxBlock x r.2.2) && decide (idxBlock x r.2.2 < va + n))))

/-- A core after the invalidation of a removed page (R184, R223). -/
def unmapCore (c : Core) (host : Bool) (va n : Nat) : Core :=
  dropPieces { c with tcache := c.tcache.filter (fun t => !(t.host == host && decide (va ≤ t.va) && decide (t.va < va + n))) }
    (fun x q => slotIn x host va n q)

/-- UNMAP_COMPLETE: once every request translated through the removed page is visible, derived cache entries and
prefetched bytes go and BUSY clears (R223); a page that a running UPDATE holds keeps BUSY set (R249). -/
def execUnmapComplete (p : Nat) (s : State) : Res :=
  let x := s.xlate p
  match x.unmap with
  | none => .next s
  | some (host, va, n) =>
    if (!host && (s.upd p).xlat.any (fun t => decide (va ≤ t.1 * mib2) && decide (t.1 * mib2 < va + n))) ||
        (logicalCores s p).any (fun c => (s.core c).slots.any (fun y => slotFlies (s.core c) y.2 host va n)) ||
        (!host && idxFlies s p va n) then .next s
    else
      let s := onCores s p (fun c => unmapCore c host va n)
      .next (s.setXlate p { x with busy := false, unmap := none })

/-- The partition whose frames hold a stack-physical address; 15 for none. -/
def partOfSpa (s : State) (spa : Nat) : Nat :=
  ((upto 16).find? (fun p =>
    let e := s.entry p
    e.used && decide (e.firstFrame * mib2 ≤ spa) && decide (spa < (e.firstFrame + e.frameCount) * mib2))).getD 15

/-- PATROL_SCRUB: a pass of stack controller k over every codeword of its stack (R226); the pass is counted. -/
def execPatrolScrub (k : Nat) (s : State) : Res :=
  if !bit (stackMask s.var) k then .next s
  else
    let m := s.mems.stk
    let cws := (m.damaged ++ m.soft).filter (fun cw => ctlOfSpa s.var (64 * cw) == k)
    let s := cws.foldl (fun s cw => checkCw s (partOfSpa s (64 * cw)) cw) s
    let c := s.stkCtl k
    .next (s.setStkCtl k { c with scrub := inc32 c.scrub })

end Sys2Proof.Machine
end

