-- ==== Sys2Proof/Machine/StreamLib.lean ====
section
/-! DEFINITION. Sys2Proof/Machine/StreamLib.lean: stream slots: addresses and translation, chunk delivery into a region,
sending from a region, halting (R170 to R186). -/

namespace Sys2Proof.Machine

/-- Chunk size of a slot's stream in bytes (R112). -/
def slotChunk (x : Slot) : Nat := stChunk x.word
/-- Sequence length of a slot's stream. -/
def slotLen (x : Slot) : Nat := dLen x.desc
/-- Kind of a slot's stream. -/
def slotKind (x : Slot) : Nat := dKind x.desc
/-- Whether a slot's stream reads or writes host memory. -/
def slotHost (x : Slot) : Bool := slotKind x == 2

/-- The translation-cache entry that covers an address (R179). -/
def tcFind (c : Core) (host : Bool) (va : Nat) : Option TEntry :=
  c.tcache.find? (fun t => t.host == host && decide (t.va ≤ va) && decide (va < t.va + t.size))

/-- Fill the translation cache: 64 entries, the oldest leaves. -/
def tcFill (c : Core) (t : TEntry) : Core := { c with tcache := (t :: c.tcache).take 64 }

/-- Whether a stack page is update-pending (R27). -/
def pendingPage (s : State) (p va : Nat) : Bool := (s.upd p).pend.contains (va / mib2)

/-- What a request at an address finds: a physical address, an update-pending page, no translation held, or a pool
address outside the share. -/
inductive Target where
  | ok (phys : Nat)
  | hold
  | walk (va : Nat)
  | outside (off : Nat)
  deriving DecidableEq, Repr

/-- The target of a request of a core's slot (R27, R169, R179, R231). -/
def target (s : State) (p n : Nat) (kind va len : Nat) (write : Bool) : Target :=
  let c := s.core n
  if kind = 3 then
    if va + len ≤ shareBytes s p (n / 64) then .ok (shareBase s p (n / 64) + va) else .outside va
  else
    let host := kind == 2
    if !host && !write && pendingPage s p va then .hold
    else
      match tcFind c host va with
      | some t => if write && !t.w then .walk va else .ok (physOf s p t va)
      | none => .walk va

/-- Halt a slot at its next request (R180, R181): the record, and the page-fault event of its context. -/
def haltSlot (s : State) (n i : Nat) (m : CoreCmd) (cause va : Nat) : State :=
  let c := s.core n
  let x := c.slot i
  let idx := seqIndex x.desc x.issued
  let s := s.setCore n (c.setSlot i { x with
    halted := true, walking := false, cause := cause, va := va, host := slotHost x, dirW := x.op == .stOut
    front := (upto 5).map (fun k => idx.getD k 0) })
  if cause = 3 then s else ctxEvent s m.key 2

/-- The access of a core's stream is denied: ABORTED_BY_FAULT and the teardown of the context (R182, R372). -/
def denyStream (s : State) (m : CoreCmd) : State :=
  teardown s m.key stAborted 2 m.lcore (cmdIdOf s m.key m.cmd) true

/-- A pool address outside the share: the record, then as DENY at once (R182). -/
def poolFault (s : State) (n i : Nat) (m : CoreCmd) (off : Nat) : State := denyStream (haltSlot s n i m 3 off) m

/-- Start a walk for a slot: the partition's walker runs the first 16 of the walks asked of it, in the order asked (R179, R221). -/
def startWalk (s : State) (p n i va : Nat) : State :=
  let c := s.core n
  let s := s.setXlate p { s.xlate p with walks := (s.xlate p).walks ++ [(n, i)] }
  s.setCore n (c.setSlot i { c.slot i with walking := true, walkVa := va })

/-- Whether the walk of a slot is one of the 16 that its partition's walker runs (R221). -/
def walkRuns (s : State) (p n i : Nat) : Bool := ((s.xlate p).walks.take 16).contains (n, i)

/-- The walk of a slot is over. -/
def endWalk (s : State) (p n i : Nat) : State :=
  s.setXlate p { s.xlate p with walks := (s.xlate p).walks.filter (· != (n, i)) }

/-- Bytes of one request at offset q: within 64 B of address, the dimension-0 extent and a limit. -/
def reqLen (x : Slot) (q lim : Nat) : Nat :=
  min (min (64 - slotAddr x q % 64) (dExtent x.desc 0 - q % dExtent x.desc 0)) (lim - q)

/-! ### Into a region (R173) -/

/-- Extend the unbroken written run over the pieces written beyond it. -/
def growRun (wrote : List Nat) : Nat → Nat → Nat
  | 0, run => run
  | f + 1, run => if wrote.contains run then growRun wrote f (run + 16) else run

/-- Write bytes that are a multiple of 16 at sequence offset q of a slot's region, and advance the tail over the unbroken
run, in a busy cycle of the stream engine (R173 actions 3 and 4, R186). -/
def deliver16 (c : Core) (i q : Nat) (bs : Bytes) : Core :=
  let x := c.slot i
  let g := stReg x.word
  let r := c.region x.task g
  match resvPos x.seq r.tail ((q - tailedBytes x r) / 16) r.resv with
  | none => c
  | some pos =>
    let c := regionWrite x.task r pos c 0 bs
    let wrote := x.wrote ++ (upto (bs.length / 16)).map (fun j => q + 16 * j)
    let run := growRun wrote wrote.length x.run
    let r := settleTail { r with resv := markRun x.seq ((run - tailedBytes x r) / 16) r.resv }
    let c := c.setRegion x.task g r
    (c.setSlot i { x with wrote := wrote.filter (fun o => decide (run ≤ o)), run := run }).busyCycle 3

/-- Whether a stream's region lies in its task's window (R152). -/
def streamIn (c : Core) (x : Slot) : Bool := let r := c.region x.task (stReg x.word); r.valid && regionInWin c x.task r

/-- A stream's access at word offset `pos` of its region is refused (R152, R167). -/
def refusedStream (s : State) (n i : Nat) (m : CoreCmd) (pos : Nat) : State :=
  let c := s.core n
  let x := c.slot i
  let g := stReg x.word
  regionFault s n m 5 6 x.task g (regionByteAddr c x.task (c.region x.task g) pos 0 / 16)

/-- Deliver bytes at sequence offset q of a slot into its region, where that is still within the window (R152, R173). -/
def deliverAt (s : State) (n i : Nat) (m : CoreCmd) (q : Nat) (bs : Bytes) : State :=
  let c := s.core n
  let x := c.slot i
  if streamIn c x then s.setCore n (deliver16 c i q bs)
  else
    let r := c.region x.task (stReg x.word)
    refusedStream s n i m ((resvPos x.seq r.tail ((q - tailedBytes x r) / 16) r.resv).getD r.tail)

/-- The 32-bit quarters with bad parity among n pool bytes of a die (R160). -/
def poolBadAt (s : State) (die a n : Nat) : Bool :=
  (Tbl.get [] s.mems.poolBad die).any (fun q => decide (a / 4 ≤ q) && decide (q ≤ (a + n - 1) / 4))

/-- Pool data with bad parity reaches a region: the command stops (R160, R163). -/
def poolParity (s : State) (n : Nat) (m : CoreCmd) (off phys : Nat) : State :=
  parityAbort s n m 3 (bits off 10 18) (bits phys 10 18)

/-- Write pool bytes of a die with good parity (R160). -/
def poolWrite (s : State) (die a : Nat) (bs : Bytes) : State :=
  let s := s.setPool die (Mem.wrN (s.pool die) a bs)
  let keep (l : List Nat) : List Nat := l.filter (fun w => decide (w < a / 4) || decide ((a + bs.length - 1) / 4 < w))
  { s with mems := { s.mems with poolBad := Tbl.upd [] s.mems.poolBad die keep } }

/-- Write the prefetched bytes that begun chunks cover from the buffer, in sequence order, whatever the slot's requests wait for (R183
rule 7): the pieces at 16 B steps from offset `q`. -/
def drainPf (n i : Nat) (m : CoreCmd) : Nat → Nat → State → State
  | 0, _, s => s
  | f + 1, q, s =>
    let c := s.core n
    let x := c.slot i
    if c.cmd != some m || decide (x.begun ≤ q) then s
    else
      match Tbl.find x.pf q with
      | none => drainPf n i m f (q + 16) s
      | some bs =>
        let a := slotAddr x q
        let phys := shareBase s (cmdPart m) (n / 64) + a
        if slotKind x = 3 && poolBadAt s (n / 64) phys 16 then poolParity s n m a phys
        else drainPf n i m f (q + 16) (deliverAt (s.setCore n (c.setSlot i { x with pf := Tbl.del x.pf q })) n i m q bs)

/-- Whether the piece at offset q of a slot is written: in the unbroken run, or beyond it. -/
def pieceDone (x : Slot) (q : Nat) : Bool := decide (q < x.run) || x.wrote.contains q

/-- Issue an ST.IN's requests in sequence order while their pages are held; bytes that came from the prefetch buffer need none (R173
action 2, R183). -/
def pumpIn (n i : Nat) (m : CoreCmd) : Nat → State → State
  | 0, s => s
  | f + 1, s =>
    let c := s.core n
    let x := c.slot i
    let p := cmdPart m
    if c.cmd != some m || x.halted || x.walking || decide (x.begun ≤ x.issued) then s
    else
      let q := x.issued
      if pieceDone x q then pumpIn n i m f (s.setCore n (c.setSlot i { x with issued := q + 16 }))
      else
        match target s p n (slotKind x) (slotAddr x q) 16 false with
        | .ok phys => pumpIn n i m f (s.setCore n (c.setSlot i { x with issued := q + 16, fly := Tbl.set x.fly q phys }))
        | .hold => s
        | .walk va => startWalk s p n i va
        | .outside off => poolFault s n i m off

/-! ### Out of a region (R174) -/

/-- Words a reader has released and not yet applied to the head. -/
def ownGot (r : Region) (seq : Nat) : Nat := ((r.readers.filter (fun e => e.seq == seq)).map Reader.got).foldl (· + ·) 0

/-- Word offset in its region of sequence offset q of an ST.OUT. -/
def outPos (x : Slot) (r : Region) (q : Nat) : Nat :=
  if stRel x.word then readBase r x.seq + ownGot r x.seq + (q - x.vis) / 16 else readBase r x.seq + q / 16

/-- Whether occupancy covers the next chunk of n bytes (R174 action 1). -/
def outCovered (x : Slot) (r : Region) (n : Nat) : Bool :=
  if stRel x.word then decide ((x.begun - x.vis) / 16 + n / 16 ≤ readAvail r x.seq - ownGot r x.seq)
  else decide ((x.begun + n) / 16 ≤ readAvail r x.seq)

/-- Bytes of one channel packet at offset q: 4 KiB of the transfer (R302). -/
def packetLen (q lim : Nat) : Nat := min (4096 - q % 4096) (lim - q)

/-- The channel of a kind-0x5 or kind-0x6 stream (R168). -/
def slotChan (x : Slot) : Nat := dBase x.desc % 65536

/-- Send one channel packet to the peer within its credit (R302, R318). -/
def sendChannel (s : State) (p key : Nat) (chan q : Nat) (bs : Bytes) : State :=
  let e := collOf s key chan
  let j := s.job p
  let s := s.setJob p { j with credit := Tbl.upd 0 j.credit chan (fun v => v - bs.length) }
  sendFor s p key (colRank e (colPeer e)) { ty := 1, chan := chan, pidx := q / 4096, off := q % 4096, body := bs }

/-- Whether a channel's next packet waits: for credit of the receiver, or for room at the port it leaves by (R299, R318). -/
def channelHeld (s : State) (p key chan len : Nat) : Bool :=
  let e := collOf s key chan
  decide (Tbl.get 0 (s.job p).credit chan < len) || flowBusy s p (colRank e (colPeer e)) chan

/-- Send an ST.OUT's begun bytes in sequence order while their pages are held, each request in a busy cycle (R172, R174, R176, R186).
Bytes of kind 0x6 are taken by the local reduction engine. -/
def pumpOut (n i : Nat) (m : CoreCmd) : Nat → State → State
  | 0, s => s
  | f + 1, s =>
    let c := s.core n
    let x := c.slot i
    let p := cmdPart m
    if c.cmd != some m || x.halted || x.walking || decide (x.begun ≤ x.issued) || slotKind x = 6 then s
    else
      let q := x.issued
      let r := c.region x.task (stReg x.word)
      let len := if slotKind x = 5 then packetLen q x.begun else reqLen x q x.begun
      let pos := outPos x r q
      if !streamIn c x then refusedStream s n i m pos
      else if slotKind x = 5 && channelHeld s p m.key (slotChan x) len then s
      else
        let tg : Target := if slotKind x = 5 then .ok 0 else target s p n (slotKind x) (slotAddr x q) len true
        match tg with
        | .hold => s
        | .walk va => startWalk s p n i va
        | .outside off => poolFault s n i m off
        | .ok phys =>
          match badWord c x.task r pos (wordsOf len) with
          | some w => parityAbort s n m 2 w w
          | none =>
            let bs := regionBytes c x.task r pos len
            let s := s.setCore n ((c.setSlot i { x with issued := q + len }).busyCycle 3)
            let s := match slotKind x with
              | 1 => useStack (stkWrite s p phys bs) m.key len
              | 2 => useHost (s.hostWrite (s.entry p).port phys bs) m.key len
              | 3 => poolWrite s (n / 64) phys bs
              | _ => sendChannel s p m.key (slotChan x) q bs
            pumpOut n i m f s

/-- The receiver of a channel acknowledges the bytes of slot `i` that its region's tail has passed since it last did (R176, R317); log
75. -/
def ackTailed (s : State) (n i : Nat) (m : CoreCmd) : State :=
  let c := s.core n
  let x := c.slot i
  let e := collOf s m.key (slotChan x)
  let t := tailedBytes x (c.region x.task (stReg x.word))
  if x.op != .stIn || slotKind x != 5 || decide (t ≤ x.acked) then s
  else sendPkt (s.setCore n (c.setSlot i { x with acked := t })) (cmdPart m) (colRank e (colPeer e))
    { ty := 3, chan := slotChan x, pidx := x.acked / 4096, aux := t - x.acked }

/-- Issue what a slot can issue: an ST.IN first writes what it has prefetched, and one of a channel acknowledges instead. -/
def pumpSlot (s : State) (n i : Nat) (m : CoreCmd) : State :=
  let x := (s.core n).slot i
  let fuel := x.begun - x.issued + 1
  if x.op = .stOut then (if slotKind x = 4 then s else pumpOut n i m fuel s)
  else if x.op != .stIn || slotKind x = 4 then s
  else if slotKind x = 5 then ackTailed s n i m
  else pumpIn n i m fuel (drainPf n i m fuel (x.issued / 16 * 16) s)

/-! ### Chunks -/

/-- Whether chunk k of a slot is fully written: its bytes lie in the unbroken run or among the pieces written beyond it. -/
def chunkFull (x : Slot) (k : Nat) : Bool :=
  let lo := k * slotChunk x
  let hi := min (lo + slotChunk x) (slotLen x)
  let past := max lo (min x.run hi)
  decide (past + 16 * (x.wrote.filter (fun o => decide (past ≤ o) && decide (o < hi))).length = hi)

/-- Chunks of an ST.IN begun and not yet fully written (R173 action 1). -/
def openIn (x : Slot) : Nat :=
  let k0 := x.run / slotChunk x
  ((upto (cdiv x.begun (slotChunk x) - k0)).filter (fun j => !chunkFull x (k0 + j))).length
/-- Chunks of an ST.OUT begun and not yet visible (R174 action 2). -/
def openOut (x : Slot) : Nat := cdiv (x.begun - x.vis) (slotChunk x)
/-- Size of the next chunk (R172). -/
def nextChunk (x : Slot) : Nat := min (slotChunk x) (slotLen x - x.begun)

/-- The oldest active ST.IN or ST.OUT slot, with its number. -/
def oldestSlot (c : Core) : Option (Nat × Slot) :=
  (c.slots.filter (fun y => y.2.active && y.2.op != .stWch)).foldl
    (fun o y => match o with
      | none => some y
      | some z => if y.2.seq < z.2.seq then some y else some z) none

/-! ### Gathers in the sorters (R236 to R241) -/

/-- A request of a gather: sequence offset or index mark, virtual address, bytes (R236). -/
structure GatherReq where
  off : Nat
  va  : Nat
  len : Nat
  deriving DecidableEq, Repr

/-- INDEX_BASE of a descriptor (R168). -/
def indexBase (x : Slot) : Nat := dWord x.desc 7

/-- The next request of a gather's begun bytes: the index of a row not known yet, in the 64 B block of its first byte or, once that
has given its first bytes, the next one; or the part of a row in one granule (R170, R236). -/
def nextGather (x : Slot) : Option GatherReq :=
  let q := x.issued
  if x.begun ≤ q then none
  else
    let i1 := (seqIndex x.desc q).getD 1 0
    match Tbl.find x.rows i1 with
    | none =>
      let off := idxMark + i1 + (if (Tbl.find x.idxLow i1).isSome then idxNext else 0)
      some { off := off, va := idxBlock x off, len := 64 }
    | some _ =>
      let a := slotAddr x q
      let e := dExtent x.desc 0
      some { off := q, va := a, len := min (min (256 - a % 256) (e - q % e)) (x.begun - q) }

/-- Beds of a partition. -/
def bedCount (s : State) (p : Nat) : Nat := ((upto 16).filter (fun b => bit (s.entry p).beds b)).length

/-- Bank of an entry's granule (R237). -/
def bankOfEnt (e : SortEnt) : Nat := Config.bankOf (256 * e.granule) % 1024

/-- Outstanding entries of a bank. -/
def bankOut (c : StackCtl) (b : Nat) : Nat := (c.sorter.filter (fun e => e.out && bankOfEnt e == b)).length

/-- Whether a bank is hot (R241). -/
def bankHot (c : StackCtl) (b : Nat) : Bool := decide (128 ≤ bankOut c b)

/-- Whether a sorter has room for another entry of a partition (R236). -/
def sorterRoom (s : State) (c : StackCtl) (p : Nat) : Bool :=
  decide (c.sorter.length < 4096) && decide ((c.sorter.filter (fun e => e.part == p)).length < 256 * bedCount s p)

/-- The requester tag of a slot. -/
def reqTag (x : Slot) (i : Nat) : Nat := 8 * x.seq + i

/-- The stack controller whose sorter a gather's next request cannot enter, if it waits for that (R236). -/
def sorterWait (s : State) (p n : Nat) (x : Slot) : Option StackCtl :=
  match nextGather x with
  | none => none
  | some g =>
    match target s p n 4 g.va g.len false with
    | .ok spa =>
      let c := s.stkCtl (ctlOfSpa s.var spa)
      if sorterRoom s c p || c.sorter.any (fun e => e.part == p && e.granule == spa / 256 && !e.out) then none else some c
    | _ => none

/-- The entries that serve a slot, with their sorters. -/
def slotEntries (s : State) (n i : Nat) (x : Slot) : List (StackCtl × SortEnt) :=
  s.units.stkCtl.flatMap (fun k =>
    (k.2.sorter.filter (fun e => e.reqs.any (fun r => r.1 == n && r.2.1 == reqTag x i))).map (fun e => (k.2, e)))

/-- Whether a gather's request is held by the per-bank cap: it goes to a hot bank, or cannot enter a sorter with one (R241). -/
def gatherHeld (s : State) (p n i : Nat) (x : Slot) : Bool :=
  (slotEntries s n i x).any (fun e => bankHot e.1 (bankOfEnt e.2)) ||
    (match sorterWait s p n x with
     | some c => c.sorter.any (fun e => bankHot c (bankOfEnt e))
     | none => false)

/-- Whether a gather's request is in flight: issued to a bank that is not hot, or unable to enter a sorter none of whose banks is
(R186, R241). -/
def gatherInFlight (s : State) (p n i : Nat) (x : Slot) : Bool :=
  (slotEntries s n i x).any (fun e => e.2.out && !bankHot e.1 (bankOfEnt e.2)) ||
    (match sorterWait s p n x with
     | some c => !c.sorter.any (fun e => bankHot c (bankOfEnt e))
     | none => false)

/-! ### Stalls (R186) -/

/-- Whether a write that an ST.OUT has sent is not yet visible: to a channel, one that its receiver has not acknowledged; to stack, host
or pool memory, those of a chunk sent whole. The writes of a chunk not sent whole count as acknowledged, and the reduction path accepts
each byte as it is sent (R176; DESIGN CHOICE, log 89). -/
def writeInFlight (x : Slot) : Bool :=
  match slotKind x with
  | 5 => decide (x.acked < x.issued)
  | 6 => false
  | _ => decide (x.vis < x.issued) && decide (min (x.vis + slotChunk x) (slotLen x) ≤ x.issued)

/-- Whether a request of a slot is in flight outside a gather sorter's wait queue (R186). -/
def slotInFlight (s : State) (p n i : Nat) (x : Slot) : Bool :=
  if x.op = .stOut then writeInFlight x else if slotKind x = 4 then gatherInFlight s p n i x else !x.fly.isEmpty

/-- Whether a slot's next read lies in an update-pending page (R27). -/
def slotPending (s : State) (p : Nat) (x : Slot) : Bool :=
  x.op == .stIn && decide (x.issued < x.begun) &&
    ((slotKind x == 1 && pendingPage s p (slotAddr x x.issued)) ||
     (slotKind x == 4 && (match nextGather x with
       | some g => pendingPage s p g.va
       | none => false)))

/-- Whether the next bytes of a slot's ST.OUT to the Trellis wait: for the receiver's credit, for room at a port, or for room in a
work area (R299, R316, R318). -/
def trellisWaits (s : State) (p key : Nat) (x : Slot) : Bool :=
  x.op == .stOut && decide (x.issued < x.begun) &&
    ((slotKind x == 5 && channelHeld s p key (slotChan x) (packetLen x.issued x.begun)) ||
     (slotKind x == 6 && localHeld s p (slotChan x) x.issued (collOf s key (slotChan x))))

/-- Whether a slot's ST.IN waits to reserve its next chunk (R173 action 1). -/
def reserveWaits (c : Core) (x : Slot) : Bool :=
  x.op == .stIn && decide (x.begun < slotLen x) && decide (openIn x < 4) &&
    !canReserve (c.region x.task (stReg x.word)) x.seq (wordsOf (nextChunk x))

/-- Whether a slot's ST.OUT waits for the occupancy of its next chunk (R174 action 1). -/
def occupancyWaits (c : Core) (x : Slot) : Bool :=
  x.op == .stOut && decide (x.begun < slotLen x) && decide (openOut x < 4) &&
    !outCovered x (c.region x.task (stReg x.word)) (nextChunk x)

/-- The cause of a cycle in which no word of a core's streams moves and no request is in flight, from the oldest active slot
(R186); none when a request is in flight. -/
def streamCause (s : State) (p n key : Nat) (c : Core) : Option Nat :=
  if c.slots.any (fun y => y.2.active && y.2.op != .stWch && slotInFlight s p n y.1 y.2) then none
  else
    match oldestSlot c with
    | none => none
    | some (i, x) =>
      if x.halted || x.walking then some 4
      else if slotKind x = 4 && gatherHeld s p n i x then some 6
      else if trellisWaits s p key x then some 5
      else if slotPending s p x then some 0
      else if reserveWaits c x then some 1
      else if occupancyWaits c x then some 0
      else none

/-- Count a cycle of the stream engine in which nothing moved: a stall with its cause, or a busy cycle (R186). -/
def streamIdle (s : State) (n : Nat) (m : CoreCmd) : State :=
  let c := s.core n
  match streamCause s (cmdPart m) n m.key c with
  | some cause => s.setCore n (c.stall 3 cause)
  | none => if (oldestSlot c).isSome then s.setCore n (c.busyCycle 3) else s

/-- Place an issued stream in a slot (R172). -/
def newSlot (c : Core) (q : QInstr) (op : Op) : Slot :=
  { active := true, seq := q.seq, task := q.task, word := q.word, op := op, desc := streamDesc c q.word
    descNo := stDesc q.word, addrS := q.s1 }

/-- Issue of ST.IN, ST.OUT or ST.WCH into a free slot (R121, R172): a wait for a slot is a busy cycle. Which free slot it
takes is the module's choice and comes with the command. -/
def issueStream (s : State) (n i : Nat) (op : Op) : State :=
  withHead s n op (fun m c q =>
    match badRegion c op q with
    | some g => refusedAccess s n m op q g
    | none =>
      if (upto 8).all (fun k => (c.slot k).active) then s.setCore n (c.busyCycle 3)
      else if i ≥ 8 || (c.slot i).active then s
      else s.setCore n ((popQueue (c.setSlot i (newSlot c q op)) .st).busyCycle 3))

/-- A stream instruction: its dispatch, or its issue into a slot. -/
def stStep (s : State) (n slot : Nat) (ev : EngEv) (op : Op) : State :=
  match ev with
  | .dispatch t => dispatchOp s n t op
  | .issue => issueStream s n slot op

end Sys2Proof.Machine
end

