-- ==== Sys2Proof/Machine/Streams.lean ====
section
/-! DEFINITION. Sys2Proof/Machine/Streams.lean: ST.IN, ST.OUT, ST.WCH and ST.TIL, chunks, returning data, walks, page
faults and prefetch (R112, R113, R168 to R186). -/

namespace Sys2Proof.Machine

/-- ST.IN (R112, R173). -/
def execStIn (core : Nat) (ev : EngEv) (slot : Nat) (s : State) : Res := .next (stStep s core slot ev .stIn)

/-- ST.OUT (R112, R174). -/
def execStOut (core : Nat) (ev : EngEv) (slot : Nat) (s : State) : Res := .next (stStep s core slot ev .stOut)

/-- ST.WCH (R189, R193). -/
def execStWch (core : Nat) (ev : EngEv) (slot : Nat) (s : State) : Res := .next (stStep s core slot ev .stWch)

/-! ### ST.TIL (R113, R138 to R140) -/

/-- Whether a dispatched array instruction names one of some slots with its tile load not complete. -/
def namesUnloaded (c : Core) (slots : List Nat) (q : QInstr) : Bool :=
  (opOf q.word == some .mxMm || opOf q.word == some .mxCv) &&
  !(match c.shadow with
    | some sh => sh.seq == q.seq
    | none => false) &&
  (tileSlots q.word q.fmt).any (fun i => slots.contains i)

/-- Whether an array instruction dispatched before the writer `w` still has to load a tile from one of the writer's slots
(R121, R140). One dispatched after it waits for the very tile it writes. -/
def tileWanted (c : Core) (w : Nat) (slots : List Nat) : Bool :=
  c.q.mx.any (fun q => decide (q.seq < w) && namesUnloaded c slots q)

/-- The bits of slot numbers. -/
def slotMask (slots : List Nat) : Nat := slots.foldl (fun m i => m ||| 2 ^ i) 0

/-- Clear some bits of a mask. -/
def clearMask (m bitsOff : Nat) : Nat := m - (m &&& bitsOff)

/-- The transposed copy of a 128 × 128 tile of 1- or 2-byte elements (R138). -/
def transposeTile (wide : Bool) (tile : Bytes) : Bytes :=
  let b := if wide then 2 else 1
  (upto (16384 * b)).map (fun o => tile.getD ((o / b % 128 * 128 + o / b / 128) * b + o % b) 0)

/-- Write a whole tile into a weight buffer in both orders (R138, R139). -/
def putTile (c : Core) (slot : Nat) (wide : Bool) (tile : Bytes) : Core :=
  let slots := if wide then [slot, slot + 1] else [slot]
  let mk := slotMask slots
  let w := c.wbuf
  { c with wbuf := { w with
      stored := Mem.wrN w.stored (16384 * slot) tile
      trans := Mem.wrN w.trans (16384 * slot) (transposeTile wide tile)
      validS := clearMask w.validS mk ||| mk
      validT := clearMask w.validT mk ||| mk
      bad := w.bad.filter (fun k => !slots.contains (k / 2)) } }

/-- Issue of ST.TIL: the conditions of R121, whose waits count while no slot is active (R186), the parity of port B, then the copy. -/
def issueTil (s : State) (n : Nat) : State :=
  withHead s n .stTil (fun m c q =>
    match badRegion c .stTil q with
    | some g => refusedAccess s n m .stTil q g
    | none =>
      let wait (cause : Nat) : State := if c.slots.any (fun y => y.2.active) then s else s.setCore n (c.stall 3 cause)
      if !operandsReady c .stTil q then wait 0
      else if tileWanted c q.seq (tilSlots q.word) then wait 1
      else
        match operandBad c .stTil q with
        | some w => parityAbort s n m 2 w w
        | none =>
          let r := c.region q.task (stReg q.word)
          let bs := regionBytes c q.task r (readBase r q.seq + tilOff q.word * 64) (tilBytes q.word)
          let c := finishReads (popQueue (putTile c (tilTile q.word) (tilWide q.word) bs) .st) .stTil q
          s.setCore n (c.busyCycle 3))

/-- ST.TIL: a tile from a region into the weight buffer in both orders (R113). -/
def execStTil (core : Nat) (ev : EngEv) (s : State) : Res :=
  match ev with
  | .dispatch t => .next (dispatchOp s core t .stTil)
  | .issue => .next (issueTil s core)

/-! ### Chunks -/

/-- Whether the next chunk of an ST.IN can begin: fewer than four are open and the region can reserve it (R173). -/
def inBegins (c : Core) (x : Slot) : Bool :=
  decide (x.begun < slotLen x) && decide (openIn x < 4) && canReserve (c.region x.task (stReg x.word)) x.seq (wordsOf (nextChunk x))

/-- The next chunk of an ST.IN begins: it reserves its size, and a channel's receiver grants credit for it (R173,
R318). -/
def beginIn (s : State) (n i : Nat) (m : CoreCmd) : State :=
  let c := s.core n
  let x := c.slot i
  let g := stReg x.word
  let len := nextChunk x
  let r := reserve (c.region x.task g) x.seq (wordsOf len)
  let r := if x.begun + len = slotLen x then doneWriter r x.seq else r
  let s := s.setCore n (((c.setRegion x.task g r).setSlot i { x with begun := x.begun + len }).busyCycle 3)
  if slotKind x = 5 then
    let e := collOf s m.key (slotChan x)
    sendFor s (cmdPart m) m.key (colRank e (colPeer e)) { ty := 6, chan := slotChan x, aux := len }
  else s

/-- Whether the next chunk of an ST.OUT can begin: fewer than four are open and occupancy covers it (R174). -/
def outBegins (c : Core) (x : Slot) : Bool :=
  decide (x.begun < slotLen x) && decide (openOut x < 4) && outCovered x (c.region x.task (stReg x.word)) (nextChunk x)

/-- The next chunk of an ST.OUT begins (R174). -/
def beginOut (s : State) (n i : Nat) : State :=
  let c := s.core n
  let x := c.slot i
  s.setCore n ((c.setSlot i { x with begun := x.begun + nextChunk x }).busyCycle 3)

/-- A cycle in which a slot's requests issue as far as they can and no chunk begins: it counts as one in which nothing moved unless an
ST.OUT sent words in it (R186). -/
def pumpCycle (s : State) (n i : Nat) (m : CoreCmd) : State :=
  let t := pumpSlot s n i m
  let x := (s.core n).slot i
  if (t.core n).cmd != some m || (x.op == .stOut && ((t.core n).slot i).issued != x.issued) then t else streamIdle t n m

/-- CHUNK_BEGIN: the next chunk of a slot's stream begins if it can, and requests issue as far as they can (R173, R174). -/
def execChunkBegin (core slot : Nat) (s : State) : Res :=
  let c := s.core core
  let x := c.slot slot
  match c.cmd with
  | none => .next s
  | some m =>
    if !x.active then .next s
    else
      match x.op with
      | .stIn => .next (if inBegins c x then pumpSlot (beginIn s core slot m) core slot m else pumpCycle s core slot m)
      | .stOut => .next (if outBegins c x then pumpSlot (beginOut s core slot) core slot m else pumpCycle s core slot m)
      | _ => .next s

/-! ### Returning data (R173, R227) -/

/-- The result word of STACK_UNCORRECTABLE (R227). -/
def stackUncWord (reader lcore va : Nat) : Nat := reader % 16 * 2 ^ 28 + lcore % 256 * 2 ^ 20 + bits va 21 19

/-- A demand read delivers a poisoned codeword: the command stops (R227). -/
def stackUnc (s : State) (m : CoreCmd) (reader va : Nat) : State :=
  stopRun s (cmdPart m) stStackUnc (stackUncWord reader m.lcore va)

/-- Deliver one run of returned pieces. -/
def returnRun (n i : Nat) (m : CoreCmd) (q0 : Nat) (data : Bytes) (s : State) (run : Nat × Nat × Nat) : State :=
  let (q, phys, len) := run
  let c := s.core n
  let x := c.slot i
  if c.cmd != some m then s
  else
    let put (s : State) (bs : Bytes) : State :=
      let c := s.core n
      let out (o : Nat) : Bool := decide (o < q) || decide (q + len ≤ o)
      let x := { x with fly := x.fly.filter (fun f => out f.1), stale := x.stale.filter out }
      deliverAt (s.setCore n (c.setSlot i x)) n i m q bs
    match slotKind x with
    | 1 =>
      let (bad, bs, s) := readStackAt s m.key (n / 64) phys len (fillOk x q len)
      if bad then stackUnc s m 1 (slotAddr x q) else put s bs
    | 3 => if poolBadAt s (n / 64) phys len then poolParity s n m (slotAddr x q) phys
           else put s (Mem.rdN (s.pool (n / 64)) phys len)
    | _ => put (if slotKind x = 2 then useHost s m.key len else s) ((upto len).map (fun j => data.getD (q - q0 + j) 0))

/-- The pieces of the 64 B request at offset q that are in flight. -/
def requestPieces (x : Slot) (q : Nat) : List (Nat × Nat) :=
  x.fly.filter (fun f => decide (q ≤ f.1) && decide (f.1 < q / 64 * 64 + 64))

/-! ### Visibility (R176, R177) -/

/-- Bytes of a slot's stream that can be visible: for ST.IN those the tail has passed, for ST.OUT to a channel those that the receiver has
acknowledged, for another ST.OUT those sent (R176). -/
def movedBytes (c : Core) (x : Slot) : Nat :=
  if x.op = .stIn then tailedBytes x (c.region x.task (stReg x.word)) else if slotKind x = 5 then x.acked else x.issued

/-- A stream completes: a channel's last bytes are acknowledged, DONE_LNT is signalled, its reads are over, and its slot is free (R176,
R177). -/
def endStream (s : State) (n i : Nat) (m : CoreCmd) : State :=
  let s := ackTailed s n i m
  let c := s.core n
  let x := c.slot i
  let g := stReg x.word
  let c := if x.op = .stOut then c.setRegion x.task g (finishRead (c.region x.task g) x.seq) else c
  let s := s.setCore n (c.setSlot i { x with active := false, fly := [], pf := [] })
  if dDoneEn x.desc then lntSignal s m.key m.cmd m.lcore (dDoneLnt x.desc) 1 else s

/-- CHUNK_VISIBLE: the oldest chunk not yet visible becomes visible: CHUNK_LNT, the head of an ST.OUT with REL, and the
completion of the stream after its last chunk (R174 action 4, R176, R177). -/
def execChunkVisible (core slot : Nat) (s : State) : Res :=
  let c := s.core core
  let x := c.slot slot
  match c.cmd with
  | none => .next s
  | some m =>
    let e := min (x.vis + slotChunk x) (slotLen x)
    if !x.active || x.op == .stWch || decide (x.begun < e) || decide (x.vis = slotLen x) || decide (movedBytes c x < e) then .next s
    else
      let g := stReg x.word
      let c := if x.op = .stOut && stRel x.word then
          c.setRegion x.task g (partRelease (c.region x.task g) x.seq (wordsOf (e - x.vis))) else c
      let s := s.setCore core (c.setSlot slot { x with vis := e })
      let s := if dChunkEn x.desc then lntSignal s m.key m.cmd m.lcore (dChunkLnt x.desc) 1 else s
      if e = slotLen x && (s.core core).cmd == some m then .next (endStream s core slot m) else .next s

/-! ### Walks and page faults (R179 to R182) -/

/-- A walk of a slot ends with a page fault cause, or with the entry (R179). -/
def walkResult (s : State) (p : Nat) (x : Slot) : Nat × Option TEntry :=
  match walkPage s p (slotHost x) x.walkVa with
  | none => (1, none)
  | some t => if x.op = .stOut && !t.w then (2, none) else (0, some t)

/-- TRANSLATION_WALK_COMPLETE: a walk that the walker runs ends: the entry enters the translation cache and requests go on, or the
slot halts (R179, R180, R221). -/
def execTranslationWalkComplete (core slot : Nat) (s : State) : Res :=
  let c := s.core core
  let x := c.slot slot
  match c.cmd with
  | none => .next s
  | some m =>
    if !x.active || !x.walking || !walkRuns s (cmdPart m) core slot then .next s
    else
      let s := endWalk s (cmdPart m) core slot
      match walkResult s (cmdPart m) x with
      | (_, some t) =>
        let s := s.setCore core (tcFill (c.setSlot slot { x with walking := false, halted := false }) t)
        .next (pumpSlot s core slot m)
      | (cause, none) => .next (haltSlot s core slot m cause x.walkVa)

/-- GO written to SCP_STR_RESUME: a halted slot walks its page again (R182). -/
def execGo (fn : Fn) (core slot : Nat) (s : State) : Res :=
  let c := s.core core
  let x := c.slot slot
  match c.cmd with
  | none => .next s
  | some m =>
    if seesCore s fn core && x.active && x.halted && decide (slot < 8) then
      .next (startWalk (s.setCore core (c.setSlot slot { x with halted := false })) (cmdPart m) core slot x.va)
    else .next s

/-- DENY written to SCP_STR_RESUME (R182). -/
def execDeny (fn : Fn) (core slot : Nat) (s : State) : Res :=
  let c := s.core core
  let x := c.slot slot
  match c.cmd with
  | none => .next s
  | some m => if seesCore s fn core && x.active && x.halted && decide (slot < 8) then .next (denyStream s m) else .next s

/-- Whether a slot of a running command is halted. -/
def runHalted (s : State) (p : Nat) : Bool :=
  match (s.sched p).run with
  | none => false
  | some r => r.cores.any (fun n => (s.core n).slots.any (fun y => y.2.active && y.2.halted))

/-- HALTED_TIME_LIMIT: a running command whose halted time has reached 1 s completes with PAGE_FAULT_UNSERVICED (R182). -/
def execHaltedTimeLimit (p : Nat) (s : State) : Res :=
  match (s.sched p).run with
  | none => .next s
  | some r =>
    match (s.ctx r.key).q.cmds.find? (fun m => m.id == r.cmd) with
    | none => .next s
    | some m => if m.haltNs ≥ 1000000000 then .next (stopRun s p stPageFault 0) else .next s

/-! ### Prefetch (R183 to R185) -/

/-- The pieces a prefetch request at offset q reads: up to 64 B, within the sequence, PF_DEPTH and the pages held; it stops
at the first that is not (R183 rules 2 to 5). -/
def prefetchPieces (s : State) (p n : Nat) (x : Slot) (q : Nat) : Nat → List (Nat × Nat)
  | 0 => []
  | f + 1 =>
    if slotLen x ≤ q || 1024 * dPf x.desc < wasteOf x + 16 * (5 - (f + 1)) then []
    else
      match target s p n (slotKind x) (slotAddr x q) 16 false with
      | .ok phys => (q, phys) :: prefetchPieces s p n x (q + 16) f
      | _ => []

/-- Take one run of a prefetch request into the buffer; poisoned bytes are discarded and counted as waste (R185, R227). -/
def prefetchRun (n i : Nat) (m : CoreCmd) (q0 : Nat) (data : Bytes) (s : State) (run : Nat × Nat × Nat) : State :=
  let (q, phys, len) := run
  let x := (s.core n).slot i
  let s := if slotKind x = 2 then useHost s m.key len else s
  let (bad, bs, s) :=
    if slotKind x = 1 then readStackAt s m.key (n / 64) phys len true
    else if slotKind x = 3 then (false, Mem.rdN (s.pool (n / 64)) phys len, s)
    else (false, (upto len).map (fun j => data.getD (q - q0 + j) 0), s)
  let c := s.core n
  let cnt := { c.cnt with pfRead := satAdd 64 c.cnt.pfRead len
                          pfWaste := if bad then satAdd 64 c.cnt.pfWaste len else c.cnt.pfWaste }
  let pf := (upto (len / 16)).foldl (fun t j => Tbl.set t (q + 16 * j) ((bs.drop (16 * j)).take 16)) x.pf
  s.setCore n ({ c with cnt := cnt }.setSlot i { x with pfAt := q + len, pf := if bad then x.pf else pf })

/-- PREFETCH_READ: up to 64 B of the sequence beyond the begun chunks, with translations already held (R183). For a
host-kind stream the data come with the command. -/
def execPrefetchRead (core slot : Nat) (data : Bytes) (s : State) : Res :=
  let c := s.core core
  let x := c.slot slot
  match c.cmd with
  | none => .next s
  | some m =>
    let k := slotKind x
    if !x.active || x.op != .stIn || x.halted || !(k == 1 || k == 2 || k == 3) then .next s
    else
      let q := max x.pfAt x.begun
      .next ((pieceRuns (prefetchPieces s (cmdPart m) core x q 4)).foldl (prefetchRun core slot m q data) s)

end Sys2Proof.Machine
end

