-- ==== Sys2Proof/Machine/Gather.lean ====
section
/-! DEFINITION. Sys2Proof/Machine/Gather.lean: the gather sorter and returning read data (R170, R227, R236 to R241). -/

namespace Sys2Proof.Machine

/-- Whether an index read is already in a sorter. -/
def idxAsked (s : State) (n tag off : Nat) : Bool :=
  s.units.stkCtl.any (fun c => c.2.sorter.any (fun e => e.reqs.any (fun r => r == (n, tag, off))))

/-- Put a request into a controller's sorter, merged into an entry of its granule not yet issued, or as a new entry where
there is room (R236, R238); none when it cannot enter. -/
def sorterPut (s : State) (k p granule : Nat) (req : Nat × Nat × Nat) : Option State :=
  let c := s.stkCtl k
  if c.sorter.any (fun e => e.part == p && e.granule == granule && !e.out) then
    let l := c.sorter.map (fun e => if e.part == p && e.granule == granule && !e.out then { e with reqs := e.reqs ++ [req] } else e)
    some (s.setStkCtl k { c with sorter := l, merge := satAdd 64 c.merge 1 })
  else if sorterRoom s c p then
    some (s.setStkCtl k { c with sorter := c.sorter ++ [{ part := p, granule := granule, reqs := [req], promoted := false, out := false }] })
  else none

/-- GATHER_SORTER_ENTRY: the next request of a gather stream enters the sorter of its granule's stack, or waits in its slot, at an
update-pending page or for room, in a cycle that R186 accounts for (R27, R236, R238, R241). -/
def execGatherSorterEntry (core slot : Nat) (s : State) : Res :=
  let c := s.core core
  let x := c.slot slot
  match c.cmd, nextGather x with
  | some m, some g =>
    let p := cmdPart m
    if !x.active || x.halted || x.walking || slotKind x != 4 || idxAsked s core (reqTag x slot) g.off then .next s
    else
      match target s p core 4 g.va g.len false with
      | .hold => .next (streamIdle s core m)
      | .walk va => .next (startWalk s p core slot va)
      | .outside _ => .next s
      | .ok spa =>
        match sorterPut s (ctlOfSpa s.var spa) p (spa / 256) (core, reqTag x slot, g.off) with
        | none => .next (streamIdle s core m)
        | some s =>
          if idxMark ≤ g.off then .next s
          else
            let fly := (upto (g.len / 16)).foldl (fun t j => Tbl.set t (g.off + 16 * j) (spa + 16 * j)) x.fly
            .next (s.setCore core ((s.core core).setSlot slot { x with issued := x.issued + g.len, fly := fly }))
  | _, _ => .next s

/-- Whether a bank has a waiting entry and is below the cap (R239). -/
def bankReady (c : StackCtl) (b : Nat) : Bool :=
  !bankHot c b && c.sorter.any (fun e => !e.out && bankOfEnt e == b)

/-- The entry a bank issues next: promoted, then of its open page, then any, each oldest first (R239). -/
def bankPick (c : StackCtl) (b : Nat) : Option SortEnt :=
  let l := c.sorter.filter (fun e => !e.out && bankOfEnt e == b)
  let page := Tbl.find c.openPg b
  (l.find? (fun e => e.promoted)).or
    ((l.find? (fun e => page == some (Config.dramPage (256 * e.granule)))).or l.head?)

/-- Mark the first waiting entry equal to `e` as issued. -/
def markOut (e : SortEnt) : List SortEnt → List SortEnt
  | [] => []
  | x :: xs => if x = e then { x with out := true } :: xs else x :: markOut e xs

/-- GATHER_SORTER_ISSUE: a cycle of a sorter: hot banks are counted, and the next bank below the cap in rotating order
issues an entry into a free outstanding slot, one for each such command (R239, R241; DESIGN CHOICE, log 70). -/
def execGatherSorterIssue (k : Nat) (s : State) : Res :=
  let c := s.stkCtl k
  let c := if (upto 1024).any (bankHot c) then { c with hot := inc32 c.hot } else c
  let s := s.setStkCtl k c
  if 1024 ≤ (c.sorter.filter (fun e => e.out)).length then .next s
  else
    match ((upto 1024).map (fun i => (c.bankPtr + i) % 1024)).find? (bankReady c) with
    | none => .next s
    | some b =>
      match bankPick c b with
      | none => .next s
      | some e =>
        .next (s.setStkCtl k { c with
          sorter := markOut e c.sorter, bankPtr := (b + 1) % 1024
          openPg := Tbl.set c.openPg b (Config.dramPage (256 * e.granule)) })

/-- Promote entry i of a sorter. -/
def promoteAt : Nat → List SortEnt → List SortEnt
  | _, [] => []
  | 0, x :: xs => { x with promoted := true } :: xs
  | i + 1, x :: xs => x :: promoteAt i xs

/-- GATHER_PROMOTION: entry i of a sorter has waited 2 µs (R240). -/
def execGatherPromotion (k i : Nat) (s : State) : Res :=
  let c := s.stkCtl k
  match c.sorter[i]? with
  | none => .next s
  | some e =>
    if e.out || e.promoted then .next s
    else .next (s.setStkCtl k { c with sorter := promoteAt i c.sorter, promote := inc32 c.promote })

/-! ### Data of a gather -/

/-- Put one index word whose block starts at `va` into the known rows, or its first bytes where the block ends within it, or its
last bytes to the first that an earlier block gave (R170). -/
def indexWord (x : Slot) (va : Nat) (bs : Bytes) (k : Nat) : Slot :=
  let a := indexBase x + 4 * k
  if va ≤ a && a + 4 ≤ va + 64 then { x with rows := Tbl.set x.rows k (leNat ((bs.drop (a - va)).take 4)) }
  else if va ≤ a && a < va + 64 then { x with idxLow := Tbl.set x.idxLow k (leNat (bs.drop (a - va))) }
  else
    match Tbl.find x.idxLow k with
    | some lo =>
      if a < va && va < a + 4 then
        { x with rows := Tbl.set x.rows k (lo + 2 ^ (8 * (va - a)) * leNat (bs.take (a + 4 - va))), idxLow := Tbl.del x.idxLow k }
      else x
    | none => x

/-- A gather slot after a block of its index array has been read: the words that lie in it (R170, R236). -/
def indexBlock (x : Slot) (va : Nat) (bs : Bytes) (k0 : Nat) : Slot :=
  ((upto 34).filter (fun j => decide (17 ≤ k0 + j) && decide (k0 + j - 17 < dExtent x.desc 1))).foldl
    (fun x j => indexWord x va bs (k0 + j - 17)) x

/-- Deliver a returned entry to one live requester (R170, R227, R238). -/
def gatherTo (s : State) (e : SortEnt) (r : Nat × Nat × Nat) : State :=
  let (n, tag, off) := r
  let i := tag % 8
  let c := s.core n
  let x := c.slot i
  match c.cmd with
  | none => s
  | some m =>
    if !reqLive s r then s
    else
      let (spa, len) := reqSpan s e r
      let bad := (cwsOf spa len).any (poisonedCw s)
      let idx := decide (idxMark ≤ off)
      if bad then stackUnc s m (if idx then 2 else 3) (if idx then idxBlock x off else slotAddr x off)
      else
        let (bs, s) := stkRead s spa len
        if idx then s.setCore n (c.setSlot i (indexBlock x (idxBlock x off) bs ((off - idxMark) % idxNext)))
        else
          let ps := rowPieces x e.granule off
          deliverAt (s.setCore n (c.setSlot i { x with fly := x.fly.filter (fun f => !ps.contains f) })) n i m off bs

/-- A gather's data returns for one request of a core's slot: its entry leaves the sorter and serves every requester; what a stopped
stream asked completes into discard (R194, R238, R239). -/
def gatherReturn (s : State) (n i off : Nat) : State :=
  let mine (e : SortEnt) : Bool := e.out && e.reqs.any (fun r => r.1 == n && r.2.1 % 8 == i && r.2.2 == off)
  match s.units.stkCtl.find? (fun c => c.2.sorter.any mine) with
  | none => s
  | some (k, c) =>
    match c.sorter.find? mine with
    | none => s
    | some e =>
      let s := entryRead (s.setStkCtl k { c with sorter := c.sorter.erase e }) e
      e.reqs.foldl (fun s r => gatherTo s e r) s

/-- STREAM_DATA_RETURN: the data of the request at sequence offset q of a slot return (R173); for a gather the offset or
2^60 plus the index number (2^59 more for the second block of a word) names the request; for a host-kind stream the data come with
the command. -/
def execStreamDataReturn (core slot q : Nat) (data : Bytes) (s : State) : Res :=
  let c := s.core core
  let x := c.slot slot
  match c.cmd with
  | none => .next (gatherReturn s core slot q)
  | some m =>
    if !x.active || x.op != .stIn || slotKind x = 4 then .next (gatherReturn s core slot q)
    else
      let s := (pieceRuns (requestPieces x q)).foldl (returnRun core slot m (q / 64 * 64) data) s
      if (s.core core).cmd == some m then .next (pumpSlot s core slot m) else .next s

end Sys2Proof.Machine
end

