-- ==== Sys2Proof/Machine/WeightChain.lean ====
section
/-! DEFINITION. Sys2Proof/Machine/WeightChain.lean: the weight chain: source reads and flits (R187 to R193). -/

namespace Sys2Proof.Machine

/-- Positions within a bed in chain order, by local bed (R187). -/
def bedOrder : Nat → List Nat
  | 0 => [0, 4, 8, 12, 13, 9, 5, 1, 2, 6, 10, 14, 15, 11, 7, 3]
  | 2 => [15, 14, 13, 12, 8, 9, 10, 11, 7, 6, 5, 4, 0, 1, 2, 3]
  | _ => [0, 1, 2, 3, 7, 6, 5, 4, 8, 9, 10, 11, 15, 14, 13, 12]

/-- The cores of a die in chain order (R187). -/
def chainOrder (die : Nat) : List Nat :=
  [0, 1, 3, 2].flatMap (fun b => (bedOrder b).map (fun p => 64 * die + 16 * b + p))

/-- Chain index of a core. -/
def chainIndex (n : Nat) : Nat := (chainOrder (n / 64)).findIdx (· == n)

/-- The split code of a die in the active layout: 1, 2, 4 or 8 (R188, R352). -/
def dieSplit (s : State) (die : Nat) : Nat := bits s.lay.active.split (2 * die) 2

/-- Length of a sub-chain (R188). -/
def subLen (s : State) (n : Nat) : Nat := 64 / 2 ^ dieSplit s (n / 64)

/-- Chain position of a core (R188). -/
def chainPos (s : State) (n : Nat) : Nat := chainIndex n % subLen s n

/-- The core at a position of a head's sub-chain. -/
def chainCore (s : State) (head pos : Nat) : Nat :=
  (chainOrder (head / 64)).getD (chainIndex head / subLen s head * subLen s head + pos) 0

/-- SCP_WCHCFG (R188). -/
def wchCfg (s : State) (n : Nat) : Nat :=
  dieSplit s (n / 64) * 2 ^ 30 + (subLen s n - 1) * 64 + chainPos s n

/-- The cores that keep tile t of a delivery (R189). -/
def keepers (s : State) (head : Nat) (d : List Nat) (t : Nat) : List Nat :=
  let n := wchLast d - wchFirst d + 1
  if wchDist d then [chainCore s head (wchFirst d + t % n)] else (upto n).map (fun i => chainCore s head (wchFirst d + i))

/-- The share of the landing buffer of a head in bytes: 1 MiB divided among the die's sub-chains (R193). -/
def landShare (s : State) (n : Nat) : Nat := 1048576 / 2 ^ dieSplit s (n / 64)

/-- Bytes that a head's deliveries hold in its share of the landing buffer (R193). -/
def landUsed (c : Core) : Nat := ((c.slots.filter (fun y => y.2.active && y.2.op == .stWch)).map (fun y => y.2.chain.length)).foldl (· + ·) 0

/-- Read the next request of a delivery's records, up to 64 B, for its head, as far as its share has room (R193, R227, R233). -/
def wchRead (s : State) (n i : Nat) (m : CoreCmd) : State :=
  let c := s.core n
  let x := c.slot i
  let len := reqLen x x.issued (slotLen x)
  if x.halted || x.walking || decide (slotLen x ≤ x.issued) || decide (landShare s n < landUsed c + len) then s
  else
    let va := slotAddr x x.issued
    match target s (cmdPart m) n 7 va len false with
    | .hold => s
    | .walk a => startWalk s (cmdPart m) n i a
    | .outside _ => s
    | .ok phys =>
      let (bad, bs, s) := readStackAt s m.key (n / 64) phys len true
      if bad then stackUnc s m 4 va
      else s.setCore n ((s.core n).setSlot i { x with issued := x.issued + len, chain := x.chain ++ bs })

/-- WEIGHT_CHAIN_SOURCE_READ: the head's weight-chain engine reads 64 B of its delivery into its landing-buffer share
(R193). -/
def execWeightChainSourceRead (core slot : Nat) (s : State) : Res :=
  let c := s.core core
  let x := c.slot slot
  match c.cmd with
  | none => .next s
  | some m => if x.active && x.op == .stWch then .next (wchRead s core slot m) else .next s

/-- The slot that a flit at record offset o is written into: a 16-bit tile fills its two slots in turn, and block scales belong to the
first (R138, R189). -/
def flitSlot (d : List Nat) (t o : Nat) : Nat := wchSlot d t + (if o < wchTileBytes d then o / 16384 else 0)

/-- One flit at one keeping core: bytes of the tile or of its scales at record offset o. Each slot's valid bits clear as the write into
it begins (R139, R140, R189, R190). -/
def flitAt (c : Core) (d : List Nat) (t o : Nat) (bs : Bytes) : Core :=
  let slot := wchSlot d t
  let w := c.wbuf
  if o < wchTileBytes d then
    let mk := slotMask [flitSlot d t o]
    let w1 := { w with stored := Mem.wrN w.stored (16384 * slot + o) bs, validS := clearMask w.validS mk, validT := clearMask w.validT mk
                       bad := w.bad.filter (fun k => k / 2 != flitSlot d t o) }
    if o + 512 = wchTileBytes d && wchScb d = 0 then
      let tile := Mem.rdN w1.stored (16384 * slot) (wchTileBytes d)
      putTile { c with wbuf := w1 } slot (wchWide d) tile
    else { c with wbuf := w1 }
  else
    let w1 := { w with scales := Mem.wrN w.scales (1024 * slot + (o - wchTileBytes d)) bs }
    if o + 512 = wchRecBytes d then { c with wbuf := { w1 with validS := w1.validS ||| slotMask (wchSlots d t) } } else { c with wbuf := w1 }

/-- Whether a keeping core holds the chain (R140, R191): the write would enter a slot that a dispatched array instruction with
an incomplete tile load names, where a valid tile stands for it to load. At the head, instructions dispatched before the
ST.WCH hold it in any case, and one that waits for a delivery of its own core to write the tile does not (DEDUCED, log 52). -/
def chainHeld (s : State) (head w : Nat) (cores slots : List Nat) : Bool :=
  cores.any (fun k =>
    let c := s.core k
    (k == head && tileWanted c w slots) ||
    c.q.mx.any (fun q => namesUnloaded c slots q && tileValid c q.word q.fmt && !deliveryPending c q))

/-- Signal TILE_LNT at each keeping core of a tile (R192). -/
def tileSignals (m : CoreCmd) (d : List Nat) (cores : List Nat) (s : State) : State :=
  if wchTileEn d then
    cores.foldl (fun s k => lntSignal s m.key m.cmd (logicalOf s (cmdPart m) k) (wchTileLnt d) 1) s
  else s

/-- The cause of a weight-chain cycle in which nothing moves, in the order of R191: 4 while the head walks or is halted, 0 at an
update-pending page, 1 for a hold. A source read passes no gather sorter, so none is held by a hot bank. -/
def chainCause (s : State) (m : CoreCmd) (x : Slot) (held : Bool) : Option Nat :=
  if x.halted || x.walking then some 4
  else if decide (x.issued < slotLen x) && pendingPage s (cmdPart m) (slotAddr x x.issued) then some 0
  else if held then some 1
  else none

/-- WEIGHT_CHAIN_FLIT: the head injects its next 512 B flit, which every keeping core writes as it passes; the whole
sub-chain waits while a keeping core is held (R190, R191). A tile's signals and the end of the delivery follow its last
flit (R192). -/
def execWeightChainFlit (core slot : Nat) (s : State) : Res :=
  let c := s.core core
  let x := c.slot slot
  match c.cmd with
  | none => .next s
  | some m =>
    if !x.active || x.op != .stWch then .next s
    else
      let d := x.desc
      let rec_ := wchRecBytes d
      let t := x.run / rec_
      let o := x.run % rec_
      let ks := keepers s core d t
      let held := chainHeld s core x.seq ks [flitSlot d t o]
      if held || decide (x.chain.length < 512) then
        match chainCause s m x held with
        | some cause => .next (s.setCore core (c.stall 4 cause))
        | none => .next s
      else
        let bs := x.chain.take 512
        let s := ks.foldl (fun s k => s.setCore k (flitAt (s.core k) d t o bs)) s
        let c := (s.core core).busyCycle 4
        let x := { c.slot slot with run := x.run + 512, chain := x.chain.drop 512 }
        let s := s.setCore core (c.setSlot slot x)
        let s := if o + 512 = rec_ then tileSignals m d ks s else s
        if x.run = slotLen x && (s.core core).cmd == some m then
          let s := s.setCore core ((s.core core).setSlot slot { x with active := false, vis := x.run })
          if dDoneEn d then .next (lntSignal s m.key m.cmd m.lcore (dDoneLnt d) 1) else .next s
        else .next s

end Sys2Proof.Machine
end

