-- ==== Sys2Proof/Machine/LanternOps.lean ====
section
/-! DEFINITION. Sys2Proof/Machine/LanternOps.lean: the lantern instructions, notifications, job-scope messages and host
signals (R114, R115, R195 to R214). -/

namespace Sys2Proof.Machine

/-- V of an LN instruction as captured or read at dispatch (R114). -/
def lnValue (w reg : Nat) : Nat := if lnVsrc w then reg else imm32 w

/-- Whether every instruction that a task dispatched before `seq` has completed (R115, R204): an LN.SIG or LN.ARM on a mirror
only once the home has applied it. -/
def priorDone (c : Core) (t seq : Nat) : Bool :=
  c.lnOut.all (fun x => x.2.1 != t || decide (seq ≤ x.1)) &&
  (c.q.mx ++ c.q.vx ++ c.q.fx ++ c.q.st ++ c.q.ln).all (fun q => q.task != t || decide (seq ≤ q.seq)) &&
    c.slots.all (fun y => !y.2.active || y.2.task != t || decide (seq < y.2.seq))

/-! ### Operations of a program -/

/-- Send a message towards the root along the job tree, for a command of context `key` if for one (R207, R389). -/
def sendUp (s : State) (p : Nat) (key : Option Nat) (k : Packet) : State :=
  match jobParent (s.job p) with
  | some r => sendPaid s p key r k
  | none => s

/-- Arm an entry: at its home, or at a mirror by an ARM towards the root (R199, R207, R209). -/
def armOut (s : State) (n v : Nat) : State :=
  let e := s.lnt n
  if atHome e then armAt s n v else sendUp s e.part (some (64 * e.part + e.ctx)) (lntMsg 1 e.num 0 v)

/-- The instruction waits until the home has applied what a mirror has taken of it (R204, R207). -/
def awaitHome (s : State) (n : Nat) (op : Op) (q : QInstr) (e : Nat) : State :=
  let x := s.lnt e
  let v := lnValue q.word q.s1
  if atHome x || (op == .lnSig && v % two32 == 0) then s
  else
    let c := s.core n
    s.setCore n { c with lnOut := c.lnOut ++ [(q.seq, q.task, x.num, op == .lnArm)] }

/-- Issue of LN.ARM or LN.SIG once every earlier instruction of its task has completed (R115). -/
def issueLn (s : State) (n : Nat) (op : Op) (f : State → Nat → Nat → State) : State :=
  withHead s n op (fun m c q =>
    if priorDone c q.task q.seq then
      let s := s.setCore n (popQueue c .ln)
      lntOp s m.key m.cmd m.lcore (lnLnt q.word) (fun s e => f (awaitHome s n op q e) e (lnValue q.word q.s1))
    else s)

/-- A COUNT has come from the home: what the mirror had taken of LN.SIG and LN.ARM has been applied there, an arm once the
count's generation is new and a signal once no delta of the mirror is unsent (R204, R208). DESIGN CHOICE, log 55: no message
acknowledges an operation, so the next COUNT after it does. -/
def homeApplied (s : State) (n : Nat) (newer : Bool) : State :=
  let e := s.lnt n
  let gone (x : Nat × Nat × Nat × Bool) : Bool := x.2.2.1 == e.num && (if x.2.2.2 then newer else e.unsent == 0)
  { s with units := { s.units with cores := s.units.cores.map (fun c =>
      if c.2.cmd.any (fun m => keyPart m.key == e.part) then (c.1, { c.2 with lnOut := c.2.lnOut.filter (fun x => !gone x) }) else c) } }

/-- LN.ARM (R199). -/
def execLnArm (core : Nat) (ev : EngEv) (s : State) : Res :=
  match ev with
  | .dispatch t => .next (dispatchOp s core t .lnArm)
  | .issue => .next (issueLn s core .lnArm armOut)

/-- LN.SIG (R199). -/
def execLnSig (core : Nat) (ev : EngEv) (s : State) : Res :=
  match ev with
  | .dispatch t => .next (dispatchOp s core t .lnSig)
  | .issue => .next (issueLn s core .lnSig signalEntry)

/-! ### Waits (R101, R199, R201) -/

/-- Dispatch a wait from a task: the task goes past it and is held on it, in a place of the LN queue (R97, R101). -/
def holdLn (s : State) (n t : Nat) (op : Op) (hold : Nat → Nat → Hold) (arrive : CoreCmd → Nat → Nat → State → State) : State :=
  withDispatch s n t op (fun m c w =>
    let k := c.task t
    let v := lnValue w (scalar k (lnVreg w))
    let c := c.setTask t { gotoPc k (k.pc + 1) with hold := hold (lnLnt w) v }
    arrive m (lnLnt w) v (s.setCore n { c with lastTask := t }))

/-- Release a task. -/
def releaseTask (s : State) (n t : Nat) : State :=
  let c := s.core n
  s.setCore n (c.setTask t { c.task t with hold := .none })

/-- LN.WAIT: the task is held until the lantern is reached by V; a wait already reached is released at once (R199). -/
def execLnWait (core task : Nat) (s : State) : Res :=
  .next (holdLn s core task .lnWait (fun l v => Hold.wait l v false) (fun m num v s =>
    lntOp s m.key m.cmd m.lcore num (fun s e =>
      if reachedBy (s.lnt e) v then releaseTask s core task else refreshMasks s (cmdPart m))))

/-- LN.WTC: the task is held until its consume of V is granted in the order of the queue (R201). -/
def execLnWtc (core task : Nat) (s : State) : Res :=
  .next (holdLn s core task .lnWtc (fun l v => Hold.consume l v false) (fun m num v s =>
    lntOp s m.key m.cmd m.lcore num (fun s e =>
      let x := s.lnt e
      let w : Waiter := { core := core, task := task, v := v }
      let s := settleHome s e { x with held := x.held ++ [w] }
      match ((s.core core).task task).hold with
      | .consume _ _ true => releaseTask s core task
      | _ => refreshMasks s (cmdPart m))))

/-- Whether a held task has been released at its lantern's home (R199 to R201). -/
def holdOver : Hold → Bool
  | .wait _ _ g => g
  | .consume _ _ g => g
  | _ => false

/-- LANTERN_NOTIFICATION: the notifications of its lanterns reach a core, whose tasks go on where the count at the end of a
change released them (R196, R200). -/
def execLanternNotification (core : Nat) (s : State) : Res :=
  let c := s.core core
  match c.cmd with
  | none => .next s
  | some m =>
    let p := cmdPart m
    let ts := c.tasks.map (fun t => (t.1, if holdOver t.2.hold then { t.2 with hold := .none } else t.2))
    .next (refreshMasks (s.setCore core { c with tasks := ts }) p)

/-! ### Job-scope rows -/

/-- LANTERN_DELTA_SEND: a mirror's unsent delta goes to the parent, and an unsent count to the children (R208). DESIGN CHOICE,
log 54: the delta carries the generation that the mirror holds when it is sent, although some of its signals may be older. -/
def execLanternDeltaSend (n : Nat) (s : State) : Res :=
  let e := s.lnt n
  if !e.alloc || e.scope != 4 then .next s
  else
    let s :=
      if e.root || e.unsent = 0 then s
      else
        match jobParent (s.job e.part) with
        | none => s
        | some r => sendFor (s.setLnt n { e with unsent := 0 }) e.part (64 * e.part + e.ctx) r (lntMsg 0 e.num e.armGen e.unsent)
    .next (flushCount s n)

/-- Whether arm generation a is newer than b (R208): up to 127 arms ahead, modulo 256 (DESIGN CHOICE, log 86). -/
def newerGen (a b : Nat) : Bool := let d := (a + 256 - b % 256) % 256; decide (0 < d) && decide (d < 128)

/-- Find the entry a lantern message names: it must be a job-scope entry of the job's context; a free entry drops the
message, another's answers REJECT (R210). DESIGN CHOICE, log 54: an entry of the job's context that is not of job scope counts
as another's. -/
def withMsg (s : State) (port : Nat) (k : Packet) (f : Nat → Nat → State → State) : State :=
  match acceptPkt s port k with
  | (none, s) => s
  | (some p, s) =>
    match findLnt s p k.chan with
    | none => lntFault s 3 p 0 k.chan true
    | some n =>
      let e := s.lnt n
      if e.scope = 4 && e.ctx = (s.job p).ctx then f p n s
      else
        let s := lntFault s 2 p 0 n true
        match rankAt (s.job p) k.src with
        | none => s
        | some r => sendPkt s p r (lntMsg 3 k.chan 2 0)

/-- LANTERN_DELTA: summed towards the root, or applied at the root unless its generation is older (R208, R209). -/
def execLanternDelta (port : Nat) (k : Packet) (s : State) : Res :=
  .next (withMsg s port k (fun _ n s =>
    let e := s.lnt n
    if e.root then
      if newerGen e.armGen k.contrib then
        { s with units := { s.units with lntRegs := { s.units.lntRegs with stale := inc32 s.units.lntRegs.stale } } }
      else signalEntry s n k.aux
    else s.setLnt n { e with unsent := (e.unsent + k.aux) % two32 }))

/-- LANTERN_ARM: applied at the root, and passed on towards it by any other module (R207, R209). -/
def execLanternArm (port : Nat) (k : Packet) (s : State) : Res :=
  .next (withMsg s port k (fun p n s =>
    if (s.lnt n).root then armAt s n k.aux else sendUp s p none (lntMsg 1 k.chan 0 k.aux)))

/-- LANTERN_COUNT: a newer count enters the mirror, is forwarded, releases waits, and fires the local target event when the
mirror enters Reached (R202, R203, R208). DESIGN CHOICE, log 54: a mirror keeps the target it was loaded with, which no COUNT
carries. -/
def execLanternCount (port : Nat) (k : Packet) (s : State) : Res :=
  .next (withMsg s port k (fun _ n s =>
    let e := s.lnt n
    let newer := newerGen k.contrib e.armGen
    let later := k.contrib % 256 = e.armGen && decide ((k.aux + two32 - e.count) % two32 < 2147483648)
    if e.root || !(newer || later) then s
    else
      let e' := { e with count := k.aux % two32, armGen := k.contrib % 256, due := true }
      let r := reachedBy e' e'.target
      let fires := r && (newer || !e.reached)
      let s := s.setLnt n { e' with reached := fires || (e.reached && !newer) }
      let s := flushCount (homeApplied (noteWaits s n) n newer) n
      if fires then targetEvent s n else s))

/-- LANTERN_REJECT: the issuing context of the sender faults (R210, R372). -/
def execLanternReject (port : Nat) (k : Packet) (s : State) : Res :=
  match acceptPkt s port k with
  | (none, s) => .next s
  | (some p, s) => .next (teardown s (64 * p + (s.job p).ctx) stAborted 3 0 0 true)

/-- Present physical entries (R197, R214). -/
def lntPresent (v : Variant) (n : Nat) : Bool :=
  if v = .kt320 then decide (n < 4096) || (decide (8192 ≤ n) && decide (n < 10240)) || (decide (12288 ≤ n) && decide (n < 16384))
  else decide (n < 16384)

/-- LNT_HSIG: a host write signals V on behalf of the owning context when HOSTSIG is set, and is otherwise discarded and
counted (R210, R214). A VF names the partition's lantern number, a management function the physical entry. -/
def execLntHsig (fn : Fn) (n v : Nat) (s : State) : Res :=
  match fn with
  | .mgmt port =>
    if !bit (hostMask s.var) port || !lntPresent s.var n then .next s
    else if (s.lnt n).alloc && (s.lnt n).hostSig then .next (signalEntry s n v)
    else .next (lntFault s 4 15 0 n true)
  | .vf port vf =>
    match partOfVf s port vf with
    | none => .next s
    | some p =>
      match findLnt s p n with
      | none => .next (lntFault s 4 p 0 n true)
      | some e => if (s.lnt e).hostSig then .next (signalEntry s e v) else .next (lntFault s 4 p 0 e true)

end Sys2Proof.Machine
end

