-- ==== Sys2Proof/Machine/Sequencer.lean ====
section
/-! DEFINITION. Sys2Proof/Machine/Sequencer.lean: the SQ and CF instructions, which the sequencer executes (R116 to
R120). -/
namespace Sys2Proof.Machine

/-- Run a sequencer instruction of task `t`: `f` gives the core after it from the task and the word. -/
def seqOp (s : State) (n t : Nat) (op : Op) (f : Core → Task → Nat → Core) : State :=
  withDispatch s n t op (fun _ c w => s.setCore n { f c (c.task t) w with lastTask := t })

/-- Advance a task past its instruction after a change of it. -/
def seqNext (c : Core) (t : Nat) (k : Task) : Core := c.setTask t (gotoPc k (k.pc + 1))

/-- SQ.NOP (R116). -/
def execSqNop (core task : Nat) (s : State) : Res := .next (seqOp s core task .sqNop (fun c k _ => seqNext c task k))

/-- SQ.LI (R116). -/
def execSqLi (core task : Nat) (s : State) : Res :=
  .next (seqOp s core task .sqLi (fun c k w => seqNext c task (setScalar k (sqR1 w) (imm32 w))))

/-- The scalar operations of R116 on 32-bit words. -/
def aluOp (f : Nat) (a b : Word) : Word :=
  let sh := (b &&& 31#32).toNat
  match f with
  | 0 => a + b
  | 1 => a - b
  | 2 => a * b
  | 3 => a &&& b
  | 4 => a ||| b
  | 5 => a ^^^ b
  | 6 => a <<< sh
  | 7 => a >>> sh
  | 8 => a.sshiftRight sh
  | 9 => if a.ult b then a else b
  | 10 => if a.ult b then b else a
  | 11 => if a.slt b then 1#32 else 0#32
  | 12 => if a.ult b then 1#32 else 0#32
  | _ => 0#32

/-- The second operand of SQ.ALU: the immediate or SB (R116). -/
def aluB (k : Task) (w : Nat) : Nat := if sqImmf w then imm32 w else scalar k (sqSb w)

/-- SQ.ALU (R116): DST takes SA op (IMMF ? IMM : SB). -/
def execSqAlu (core task : Nat) (s : State) : Res :=
  .next (seqOp s core task .sqAlu (fun c k w =>
    let r := aluOp (sqFunct w) (BitVec.ofNat 32 (scalar k (sqR2 w))) (BitVec.ofNat 32 (aluB k w))
    seqNext c task (setScalar k (sqR1 w) r.toNat)))

/-- The count of an SQ.LOOP (R116). -/
def loopN (k : Task) (w : Nat) : Nat := if sqR1 w = 0 then loopCount w else scalar k (sqR1 w)

/-- SQ.LOOP (R117): a count of 0 skips the body; otherwise the loop opens and the index register takes 0. -/
def execSqLoop (core task : Nat) (s : State) : Res :=
  .next (seqOp s core task .sqLoop (fun c k w =>
    let n := loopN k w
    if n = 0 then c.setTask task (gotoPc k (k.pc + 1 + loopBody w))
    else
      let l : Loop := { first := k.pc + 1, last := k.pc + loopBody w, count := n, iter := 0, idx := sqR2 w }
      let k := setScalar k (sqR2 w) 0
      c.setTask task { k with loops := l :: k.loops, pc := (k.pc + 1) % 65536, hold := .none, idleNs := 0 }))

/-- Whether a branch condition holds (R116). -/
def brTaken (cond : Nat) (a b : Word) : Bool :=
  match cond with
  | 0 => true
  | 1 => a == b
  | 2 => a != b
  | 3 => a.slt b
  | 4 => !a.slt b
  | 5 => a.ult b
  | 6 => !a.ult b
  | _ => false

/-- SQ.BR (R116): the offset is signed and counts from the branch. -/
def execSqBr (core task : Nat) (s : State) : Res :=
  .next (seqOp s core task .sqBr (fun c k w =>
    if brTaken (sqFunct w) (BitVec.ofNat 32 (scalar k (sqR1 w))) (BitVec.ofNat 32 (scalar k (sqR2 w))) then
      c.setTask task (gotoPc k ((k.pc : Int) + sext 32 (imm32 w)).toNat)
    else seqNext c task k))

/-- Whether a scalar access lies in a defined scalar region within its window (R103, R152). -/
def scalarOk (c : Core) (t g off : Nat) : Bool :=
  let r := c.region t g
  r.valid && r.prod == 0 && r.cons == 0 && regionInWin c t r && decide (off + 4 ≤ 16 * regionSize r)

/-- Scratchpad address of a scalar access (R103). -/
def scalarAddr (c : Core) (t g off : Nat) : Nat := regionAddr c t (c.region t g) + off

/-- SQ.LDW (R116): the whole 16-byte word is checked for parity as port B delivers it (R160). -/
def execSqLdw (core task : Nat) (s : State) : Res :=
  .next (withDispatch s core task .sqLdw (fun m c w =>
    let a := scalarAddr c task (sqReg w) (imm32 w)
    if !scalarOk c task (sqReg w) (imm32 w) then regionFault s core m 5 6 task (sqReg w) (a / 16)
    else if c.badPar.any (fun q => q / 4 == a / 16) then parityAbort s core m 2 (a / 16) (a / 16)
    else
      let k := setScalar (c.task task) (sqR1 w) (leNat (Mem.rdN c.scratch a 4))
      s.setCore core { seqNext c task k with lastTask := task }))

/-- Write the four bytes of one quarter with good parity (R160). -/
def quarterWrite (c : Core) (a v : Nat) : Core :=
  { c with scratch := Mem.wrN c.scratch a (natLe 4 v), badPar := c.badPar.filter (· != a / 4) }

/-- SQ.STW (R116). -/
def execSqStw (core task : Nat) (s : State) : Res :=
  .next (withDispatch s core task .sqStw (fun m c w =>
    let a := scalarAddr c task (sqReg w) (imm32 w)
    if !scalarOk c task (sqReg w) (imm32 w) then regionFault s core m 5 6 task (sqReg w) (a / 16)
    else
      let k := c.task task
      s.setCore core { seqNext (quarterWrite c a (scalar k (sqR1 w))) task k with lastTask := task }))

/-- SQ.END ends its task (R95). SCP_TASK.PC stays on the SQ.END, no next instruction being there (DESIGN CHOICE, log 82). -/
def execSqEnd (core task : Nat) (s : State) : Res :=
  .next (seqOp s core task .sqEnd (fun c k _ => c.setTask task { k with ended := true, hold := .none, idleNs := 0 }))

/-! ### CF instructions (R118, R119) -/

/-- The region CF.REG defines: empty, head and tail at the base (R118, R119). -/
def cfRegion (w : Nat) : Region :=
  { valid := true, prod := cfProd w, cons := cfCons w, sizeM1 := cfSizeM1 w, base := cfBase w }

/-- CF.REG (R119): a scalar region is zero-filled at 1 KiB per cycle while its task is held (R159). -/
def execCfReg (core task : Nat) (s : State) : Res :=
  .next (withDispatch s core task .cfReg (fun m c w =>
    let r := cfRegion w
    let c1 := c.setRegion task (cfG w) r
    if r.prod = 0 && r.cons = 0 then
      if !regionInWin c1 task r then regionFault s core m 5 6 task (cfG w) (regionAddr c1 task r / 16)
      else
        let c2 := zeroRegion c1 task r
        let c3 := { c2 with cnt := { c2.cnt with seqHold := satAdd 32 c2.cnt.seqHold (4 * (r.sizeM1 + 1)) } }
        s.setCore core { seqNext c3 task (c3.task task) with lastTask := task }
    else s.setCore core { seqNext c1 task (c1.task task) with lastTask := task }))

/-- CF.WIN (R119), which only task 0 executes. -/
def execCfWin (core task : Nat) (s : State) : Res :=
  .next (withDispatch s core task .cfWin (fun _ c w =>
    let x : Win := { valid := true, base := cfWBase w, sizeM1 := cfWSizeM1 w, code := cfWCode w }
    s.setCore core { seqNext c task (c.task task) with wins := Tbl.set c.wins (cfW w) x, lastTask := task }))

/-- The scalar registers of a task that starts (R102). -/
def startRegs (m : CoreCmd) (n : Nat) : Tbl Nat :=
  [(1, m.lcore), (2, m.lbed), (3, n % 16), (4, m.params.getD 0 0), (5, m.params.getD 1 0), (6, m.params.getD 2 0),
   (7, m.params.getD 3 0)]

/-- A task at its start (R95, R119); its random coordinate and cursor are zero until its first CF.RNG, which the spec leaves open
(DESIGN CHOICE, log 53). -/
def startTask (m : CoreCmd) (n pc : Nat) : Task := { run := true, pc := pc, regs := startRegs m n }

/-- CF.TASK (R119), which only task 0 executes. What the ended task left incomplete meets the emptied descriptors at its issue
(DESIGN CHOICE, log 82). -/
def execCfTask (core task : Nat) (s : State) : Res :=
  .next (withDispatch s core task .cfTask (fun m c w =>
    s.setCore core { (seqNext c task (c.task task)).setTask (cfW w) (startTask m core (cfPc w)) with lastTask := task }))

/-- CF.RNG (R119): the coordinate is step, micro-batch and layer, and the element cursor returns to 0. -/
def execCfRng (core task : Nat) (s : State) : Res :=
  .next (seqOp s core task .cfRng (fun c k w =>
    seqNext c task { k with
      rng := { step := scalar k (rngStepS w), mb := scalar k (rngMbS w), layer := rngLayer w }, cursor := 0 }))

end Sys2Proof.Machine
end

