-- ==== Sys2Proof/Machine/CmdLib.lean ====
section
/-! DEFINITION. Sys2Proof/Machine/CmdLib.lean: the commands of a context: classes, readiness, the scheduler's choice
(R355, R362, R364, R366), starting a core plan on cores (R96, R134, R157, R158), and the pass commands of a STAGE or
PROBE (R283, R285). -/
namespace Sys2Proof.Machine

/-! ### Opcodes and classes (R362) -/

/-- LOAD. -/
def opLoad : Nat := 0x01
/-- UNLOAD. -/
def opUnload : Nat := 0x02
/-- RUN. -/
def opRun : Nat := 0x10
/-- STAGE. -/
def opStage : Nat := 0x11
/-- PROBE. -/
def opProbe : Nat := 0x12
/-- UPDATE. -/
def opUpdate : Nat := 0x20
/-- UPDATE_RESUME. -/
def opUpdateResume : Nat := 0x21
/-- RNG_CHECK. -/
def opRngCheck : Nat := 0x22
/-- JOB_ADMIT. -/
def opJobAdmit : Nat := 0x30
/-- JOB_EPOCH. -/
def opJobEpoch : Nat := 0x31
/-- JOB_HALT. -/
def opJobHalt : Nat := 0x32
/-- JOB_RESUME. -/
def opJobResume : Nat := 0x33
/-- REBUILD. -/
def opRebuild : Nat := 0x34
/-- DG_SET. -/
def opDgSet : Nat := 0x40
/-- DG_JOIN. -/
def opDgJoin : Nat := 0x41
/-- DG_LEAVE. -/
def opDgLeave : Nat := 0x42
/-- DG_STEP. -/
def opDgStep : Nat := 0x43
/-- LAYOUT_SWITCH. -/
def opLayoutSwitch : Nat := 0x80
/-- BED_WITHDRAW. -/
def opBedWithdraw : Nat := 0x81
/-- JOB_EVICT. -/
def opJobEvict : Nat := 0x82
/-- TIME_SET. -/
def opTimeSet : Nat := 0x83

/-- Command classes. -/
inductive CmdClass where
  | control | core | engine | gatherer | mgmt | none
  deriving DecidableEq, Repr

/-- The class of an opcode (R362). -/
def classOf (op : Nat) : CmdClass :=
  if op = 0x01 || op = 0x02 || op = 0x22 || op = 0x30 || op = 0x31 || op = 0x32 || op = 0x33 then .control
  else if op = 0x10 || op = 0x11 || op = 0x12 then .core
  else if op = 0x20 || op = 0x21 || op = 0x34 then .engine
  else if 0x40 ≤ op && op ≤ 0x43 then .gatherer
  else if 0x80 ≤ op && op ≤ 0x83 then .mgmt
  else .none

/-- Commands that need a loaded image (R362). -/
def needsImage (op : Nat) : Bool := [0x10, 0x11, 0x12, 0x20, 0x21, 0x34, 0x30, 0x40].contains op

/-! ### Readiness -/

/-- The commands of a queue before a command, uncompleted. -/
def earlier (q : Queue) (m : Cmd) : List Cmd := q.cmds.takeWhile (fun x => x.id != m.id)

/-- Whether FENCE and the fencing of UNLOAD let a command issue (R359, R362). JOB_HALT issues at once, so that nothing
behind it issues before it has (R364). -/
def fenceOk (q : Queue) (m : Cmd) : Bool :=
  m.desc.opcode == opJobHalt ||
    ((!(m.desc.fence || m.desc.opcode == opUnload) || (earlier q m).isEmpty) &&
      (earlier q m).all (fun x => x.desc.opcode != opUnload && (x.desc.opcode != opJobHalt || x.phase == .issued)))

/-- The first unissued command of a class of a context, if it may issue: the context is OPEN and its fences are met;
none once a warm restart has begun (R355, R364, R446). -/
def nextIssue (s : State) (k : Nat) (cls : CmdClass) : Option Cmd :=
  let c := s.ctx k
  if c.state != .open || s.boot.warming then none
  else
    match c.q.cmds.find? (fun m => classOf m.desc.opcode == cls && m.phase != .issued && m.desc.opcode != opJobHalt) with
    | some m => if fenceOk c.q m then some m else none
    | none => none

/-- The command of one opcode that may issue now: the first unissued of its class. -/
def issuable (s : State) (k op : Nat) : Option Cmd :=
  if op = opJobHalt then
    (if (s.ctx k).state = .open ∧ s.boot.warming = false then (s.ctx k).q.cmds.find? (fun m => m.desc.opcode == opJobHalt && m.phase != .issued) else none)
  else
    match nextIssue s k (classOf op) with
    | some m => if m.desc.opcode = op then some m else none
    | none => none

/-- Set how far a command has come. -/
def setPhase (s : State) (k id : Nat) (ph : CmdPhase) : State := updCmd s k id (fun m => { m with phase := ph })

/-- Complete a command that a check refuses: a malformed one, and one that names an absent unit, has not issued (R10, R362,
R369); log 19. -/
def refuseCmd (s : State) (k id status result : Nat) : State :=
  complete s k id { status := status, result := result, notStarted := status == stMalformed || status == stUnitAbsent }

/-- Whether an engine-class command is the earliest fetched of those that may issue in its partition (R364). -/
def engTurn (s : State) (p : Nat) (m : Cmd) : Bool :=
  (partKeys s p).all (fun k => match nextIssue s k .engine with
    | some x => decide (m.fetchNo ≤ x.fetchNo)
    | none => true)

/-- Whether the loaded image of a context names a bed that is no longer usable (R10, R346). -/
def bedGone (s : State) (k : Nat) : Bool :=
  match (s.ctx k).image with
  | some img => bits img.fp3 16 16 &&& s.cfg.bedUsable != bits img.fp3 16 16
  | none => false

/-! ### Pass commands (R283, R285, R341) -/

/-- DIR of a stage-table entry. -/
def seDir (e : Nat) : Nat := bits e 63 1
/-- CHUNK. -/
def seChunk (e : Nat) : Nat := bits e 60 3
/-- MB_IDX. -/
def seMb (e : Nat) : Nat := bits e 44 16
/-- WAIT_EN. -/
def seWait (e : Nat) : Bool := bit e 43

/-- A header word of a stage table (R281). -/
def stWord (t : StageTable) (i : Nat) : Nat := t.hdr.getD i 0
/-- p, the modules of the pipeline. -/
def stP (t : StageTable) : Nat := bits (stWord t 0) 0 16
/-- v, the chunks of a module. -/
def stV (t : StageTable) : Nat := bits (stWord t 0) 16 4
/-- Mb. -/
def stMb (t : StageTable) : Nat := stWord t 1
/-- W, the slot depth of the checkpoint area. -/
def stW (t : StageTable) : Nat := stWord t 2
/-- AF_LNT. -/
def stAf (t : StageTable) : Nat := bits (stWord t 4) 0 14
/-- AB_LNT. -/
def stAb (t : StageTable) : Nat := bits (stWord t 5) 0 14

/-- The table a STAGE or PROBE runs. -/
def stageTable (s : State) (k : Nat) : Option StageTable :=
  match (s.ctx k).image with
  | some img => if (s.ctx k).stage.probe then img.probe else img.stage
  | none => none

/-- A pass command: its core plan and its parameters s4 to s7. -/
structure Pass where
  plan   : Nat
  params : List Nat
  deriving DecidableEq, Repr

/-- The pass command a running STAGE or PROBE has next: block k of the head entry's chunk, forward upwards, backward
downwards (R96, R277, R283). -/
def nextPass (s : State) (k : Nat) : Option Pass :=
  let st := (s.ctx k).stage
  match (s.ctx k).image, stageTable s k with
  | some img, some t =>
    let e := t.entries.getD st.entry 0
    let bs := img.blocks.getD (seChunk e) []
    let b := bs.getD (if seDir e = 0 then st.blk else bs.length - 1 - st.blk) 0
    let total := (img.blocks.map List.length).foldl (· + ·) 0
    let slot := (seMb e % max 1 (stW t) * total + b) * img.ckUnits
    some { plan := 2 * b + (if st.probe then 0 else seDir e)
           params := [st.step, slot % two32, seMb e, seChunk e * 256 ||| b] }
  | _, _ => none

/-- The arrival lantern of an entry at a step (R284). -/
def arrivalLnt (t : StageTable) (e step : Nat) : Nat := (if seDir e = 0 then stAf t else stAb t) + 2 * seChunk e + step % 2

/-- Whether the head entry's wait is satisfied (R285). Only the first pass of an entry waits. -/
def arrivalOk (s : State) (k : Nat) : Bool :=
  let st := (s.ctx k).stage
  match stageTable s k with
  | some t =>
    let e := t.entries.getD st.entry 0
    !seWait e || st.blk != 0 ||
      (match findLnt s (keyPart k) (arrivalLnt t e st.step) with
       | some n => reachedBy (s.lnt n) (seMb e + 1)
       | none => false)
  | none => false

/-- The running STAGE or PROBE of a context. -/
def stageCmd (s : State) (k : Nat) : Option Cmd :=
  let c := s.ctx k
  if c.stage.run then c.q.cmds.find? (fun m => (m.desc.opcode == opStage || m.desc.opcode == opProbe) && m.phase == .issued)
  else none

/-! ### The scheduler's choice (R366) -/

/-- What the scheduler may issue next of a context: a RUN, or a pass command of its STAGE or PROBE. -/
structure Cand where
  key  : Nat
  cmd  : Cmd
  pass : Option Pass
  deriving DecidableEq, Repr

/-- The ready head core-class command of a context. -/
def coreCand (s : State) (k : Nat) : Option Cand :=
  match stageCmd s k with
  | some m =>
    if ((s.ctx k).state == .open || (s.ctx k).state == .stopped) && arrivalOk s k then
      some { key := k, cmd := m, pass := nextPass s k } else none
  | none =>
    match issuable s k opRun with
    | some m => some { key := k, cmd := m, pass := none }
    | none => none

/-- Contexts of a partition in the order R366 reaches them after the current one. -/
def ctxOrder (s : State) (p : Nat) : List Nat :=
  let n := (s.entry p).maxCtxM1 + 1
  (upto n).map (fun i => 64 * p + ((s.sched p).cur + 1 + i) % n)

/-- The candidates of a partition in the order R366 reaches them. -/
def coreCands (s : State) (p : Nat) : List Cand :=
  let x := s.sched p
  let here := if 0 < x.left then (coreCand s (64 * p + x.cur)).toList else []
  here ++ ((ctxOrder s p).filter (fun k => here.isEmpty || k != 64 * p + x.cur)).filterMap (coreCand s)

/-- How far the chosen command has come towards its issue. -/
def candPhase (s : State) (c : Cand) : CmdPhase := if c.pass.isSome then (s.ctx c.key).stage.ask else c.cmd.phase

/-- Set how far a candidate has come. -/
def setCandPhase (s : State) (c : Cand) (ph : CmdPhase) : State :=
  if c.pass.isSome then
    let x := s.ctx c.key
    s.setCtx c.key { x with stage := { x.stage with ask := ph } }
  else setPhase s c.key c.cmd.id ph

/-- The core plan of a candidate. -/
def candPlan (c : Cand) : Nat :=
  match c.pass with
  | some q => q.plan
  | none => c.cmd.desc.arg0 % 4096

/-- The parameters of a candidate. -/
def candParams (c : Cand) : List Nat :=
  match c.pass with
  | some q => q.params
  | none => c.cmd.desc.params

/-- Planned duration in ns and estimate in mJ of a candidate, before the clip to DEPTH_J (R408). -/
def candEnergy (s : State) (c : Cand) : Nat × Nat :=
  match (s.ctx c.key).image with
  | some img =>
    let pl := img.plans.getD (candPlan c) {}
    (pl.duration, if c.cmd.desc.energy ≠ 0 then c.cmd.desc.energy else pl.estimate)
  | none => (0, c.cmd.desc.energy)

/-- The status that refuses a candidate at its issue, if any (R96, R362). -/
def candRefusal (s : State) (c : Cand) : Option Nat :=
  match (s.ctx c.key).image with
  | none => some stMalformed
  | some img =>
    match img.plans[candPlan c]? with
    | none => some stMalformed
    | some pl => if bedGone s c.key then some stUnitAbsent else if (logicalCores s (keyPart c.key)).length < pl.entries then some stUnitAbsent else none

/-! ### Starting a command on a core -/

/-- RUN of a plan entry (R96). -/
def peRun (e : PlanEntry) : Bool := bit e.w0 63
/-- W0_BASE. -/
def peW0Base (e : PlanEntry) : Nat := bits e.w0 53 10
/-- W0_SIZE_M1. -/
def peW0SizeM1 (e : PlanEntry) : Nat := bits e.w0 43 10
/-- W0_CODE. -/
def peW0Code (e : PlanEntry) : Nat := bits e.w0 36 7
/-- DESC_SET. -/
def peSet (e : PlanEntry) : Nat := bits e.w0 24 12
/-- CODE0 to CODE3. -/
def peCodeOff (e : PlanEntry) (w : Nat) : Nat :=
  match w with
  | 0 => bits e.w1 32 32
  | 1 => bits e.w1 0 32
  | 2 => bits e.w2 32 32
  | _ => bits e.w2 0 32
/-- Base of a window's code segment. -/
def peBase (e : PlanEntry) (w : Nat) : Nat :=
  match w with
  | 0 => peW0Base e
  | 1 => bits e.w3 54 10
  | 2 => bits e.w3 37 10
  | _ => bits e.w3 20 10
/-- Size of a window's code segment. -/
def peCode (e : PlanEntry) (w : Nat) : Nat :=
  match w with
  | 0 => peW0Code e
  | 1 => bits e.w3 47 7
  | 2 => bits e.w3 30 7
  | _ => bits e.w3 13 7

/-- Write 64-bit words into a scratchpad. -/
def putWords : Mem → Nat → List Nat → Mem
  | m, _, [] => m
  | m, a, w :: ws => putWords (Mem.wrN m a (natLe 8 w)) (a + 8) ws

/-- The code segments that a plan entry names, as base address and words (R96, R157). -/
def codeSegs (img : Image) (e : PlanEntry) : List (Nat × List Nat) :=
  ((upto 4).filter (fun w => peCodeOff e w != 0xFFFFFFFF)).map (fun w =>
    (peBase e w * 4096, (img.code.drop (512 * peCodeOff e w)).take (512 * peCode e w)))

/-- Load code segments into a core's scratchpad with good parity. -/
def loadCode (c : Core) (segs : List (Nat × List Nat)) : Core :=
  segs.foldl (fun c g =>
    let n := 8 * g.2.length
    { c with scratch := putWords (Mem.zero c.scratch g.1 n) g.1 g.2
             badPar := c.badPar.filter (fun q => decide (4 * q < g.1) || decide (g.1 + n ≤ 4 * q)) }) c

/-- Whether the scratchpad is cleared before a command of an opening starts (R158). -/
def mustClear (c : Core) (opening : Nat) : Bool :=
  match c.last with
  | none => true
  | some (o, st) => o != opening || st == stParity || st == stAborted

/-- Whether the translation cache is emptied (R179). -/
def mustForget (c : Core) (opening : Nat) : Bool :=
  match c.last with
  | none => true
  | some (o, _) => o != opening

/-- Reload the tables whose valid bit is clear from the hub's copy (R134). -/
def reloadTables (f : FxState) (tabs : Tbl FnTable) : FxState :=
  tabs.foldl (fun f t =>
    let held := if t.1 % 2 = 0 then bit f.fwd (t.1 / 2) else bit f.drv (t.1 / 2)
    if held then f
    else
      let f := { f with tabs := Tbl.set f.tabs t.1 t.2, bad := f.bad.filter (· != t.1) }
      if t.1 % 2 = 0 then { f with fwd := f.fwd ||| 2 ^ (t.1 / 2) } else { f with drv := f.drv ||| 2 ^ (t.1 / 2) }) f

/-- Start a command on physical core n as logical core lc (R53, R79, R95, R102, R134, R139, R157, R158). -/
def startCore (s : State) (k id n lc : Nat) (img : Image) (e : PlanEntry) (params : List Nat) : State :=
  let c := s.core n
  let o := openingId s k
  let m : CoreCmd := { key := k, cmd := id, lcore := lc, lbed := lc / 16, params := params, flush := (s.ctx k).flush }
  let w0 : Win := { valid := true, base := peW0Base e, sizeM1 := peW0SizeM1 e, code := peW0Code e }
  let clear := mustClear c o
  let c1 : Core :=
    { cmd := some m
      nextSeq := c.nextSeq
      lastTask := 3
      tasks := [(0, startTask m n 0)]
      wins := [(0, w0)]
      scratch := if clear then [] else c.scratch
      badPar := if clear then [] else c.badPar
      descs := img.descSets.getD (peSet e) []
      tcache := if mustForget c o then [] else c.tcache
      wbuf := { c.wbuf with validS := 0, validT := 0 }
      fx := if s.boot.tablesOk then reloadTables c.fx s.boot.tables else c.fx
      repair := c.repair
      cnt := { perr := c.cnt.perr }
      last := c.last }
  s.setCore n (loadCode c1 (codeSegs img e))

/-- The cores a plan runs on: logical and physical number, and entry (R96). -/
def planCores (s : State) (p : Nat) (pl : CorePlan) : List (Nat × Nat × PlanEntry) :=
  let cs := logicalCores s p
  ((upto pl.entries).filter (fun i => peRun (pl.cores.getD i {}))).map (fun i => (i, cs.getD i 0, pl.cores.getD i {}))

/-- A chosen command of a context other than the current one, or after the end of its quantum, makes its context current
with a fresh quantum (R366). -/
def makeCurrent (x : Sched) (k quantum : Nat) : Sched :=
  if x.cur = keyCtx k && 0 < x.left then x else { x with cur := keyCtx k, left := (quantum + 1) * 1000000 }

/-- The scheduler of a partition chooses a candidate: its context is current from here on (R366). A command granted by a
bypass has not been chosen, and leaves the current context as it is (R409). -/
def choose (s : State) (p : Nat) (c : Cand) : State :=
  s.setSched p (makeCurrent (s.sched p) c.key (s.ctx c.key).quantum)

/-- Start a core plan on the partition's cores. -/
def startPlan (s : State) (k id : Nat) (kind : RunKind) (plan : Nat) (params : List Nat) : State :=
  let p := keyPart k
  match (s.ctx k).image with
  | none => s
  | some img =>
    let cs := planCores s p (img.plans.getD plan {})
    let s := cs.foldl (fun s c => startCore s k id c.2.1 c.1 img c.2.2 params) s
    let ns := cs.map (fun c => c.2.1)
    s.setSched p { s.sched p with run := some { key := k, cmd := id, kind := kind, plan := plan, all := ns, cores := ns } }

/-! ### The end of a command -/

/-- A STAGE has completed with OK: the arrival lanterns of its step's parity are armed with target 0 (R285). -/
def armArrivals (s : State) (p : Nat) (t : StageTable) (step : Nat) : State :=
  ((upto (stV t)).flatMap (fun c => [stAf t + 2 * c + step % 2, stAb t + 2 * c + step % 2])).foldl (fun s n =>
    match findLnt s p n with
    | some e => armAt s e 0
    | none => lntFault s 3 p 0 n true) s

/-- Whether this module runs the last virtual stage: its stage table has a backward entry that does not wait (R282). -/
def lastStage (img : Image) : Bool :=
  match img.stage with
  | some t => t.entries.any (fun e => seDir e == 1 && !seWait e)
  | none => false

/-- The bytes that the module has written at a host virtual address of a partition, each through its own page (R342). -/
def hostBytes (s : State) (p va n : Nat) : Bytes :=
  (upto n).flatMap (fun i =>
    match walkPage s p true (va + i) with
    | some t => Mem.rdN (Tbl.get [] s.mems.host (s.entry p).port) (physOf s p t (va + i)) 1
    | none => [])

/-- The status of a PROBE whose passes have ended (R342). -/
def probeStatus (s : State) (k : Nat) (m : Cmd) : Nat :=
  match (s.ctx k).image with
  | some img =>
    if !lastStage img then stOk
    else
      match (s.ctx k).stage.expect with
      | none => stNoReference
      | some r => if hostBytes s (keyPart k) m.desc.arg1 32 = r then stOk else stReplayMismatch
  | none => stOk

/-- The result word of a PROBE, the FP32 bits of the loss in its record (R333, R341); a module that writes no loss record
has no stated result. -/
def probeResult (s : State) (k : Nat) (m : Cmd) : Nat × State :=
  match (s.ctx k).image with
  | some img =>
    if lastStage img then (le32 (hostBytes s (keyPart k) m.desc.arg1 32) 8, s)
    else let (n, s) := drawFree s; ((Config.freeWord n).toNat, s)
  | none => let (n, s) := drawFree s; ((Config.freeWord n).toNat, s)

/-- Every pass of a STAGE or PROBE has completed with OK (R285, R288, R342). -/
def stageEnd (s : State) (k : Nat) (m : Cmd) (t : StageTable) : State :=
  let x := s.ctx k
  let s := s.setCtx k { x with stage := { x.stage with run := false } }
  if x.stage.probe then
    let (r, s) := probeResult s k m
    complete s k m.id { status := probeStatus s k m, result := r }
  else armArrivals (complete s k m.id { status := stOk }) (keyPart k) t x.stage.step

/-- A pass command has completed with OK: the next block, the next entry, or the end (R283, R288). -/
def passDone (s : State) (k : Nat) (m : Cmd) : State :=
  let s := settleGrant s k m.id
  let x := s.ctx k
  match x.image, stageTable s k with
  | some img, some t =>
    let e := t.entries.getD x.stage.entry 0
    if x.stage.blk + 1 < (img.blocks.getD (seChunk e) []).length then
      s.setCtx k { x with stage := { x.stage with blk := x.stage.blk + 1, ask := .waiting } }
    else if x.stage.entry + 1 < t.entries.length then
      s.setCtx k { x with stage := { x.stage with entry := x.stage.entry + 1, blk := 0, ask := .waiting } }
    else stageEnd s k m t
  | _, _ => s

/-- A STAGE or PROBE ends because a pass cannot issue (R288). -/
def stageFail (s : State) (k : Nat) (m : Cmd) (status : Nat) : State :=
  let x := s.ctx k
  let s := s.setCtx k { x with stage := { x.stage with run := false, ask := .waiting } }
  complete s k m.id { status := status, result2 := if x.stage.probe then 0 else x.stage.entry }

/-- The command or pass of a partition has ended on every core (R95). -/
def runEnd (s : State) (p : Nat) : State :=
  match (s.sched p).run with
  | none => s
  | some r =>
    if !r.cores.isEmpty then s
    else
      let s := s.setSched p { s.sched p with run := none }
      match r.kind with
      | .run => complete s r.key r.cmd { status := stOk }
      | _ =>
        match (s.ctx r.key).q.cmds.find? (fun m => m.id == r.cmd) with
        | some m => passDone s r.key m
        | none => s

/-- Whether a core's command has ended: every started task has ended and nothing dispatched is unfinished (R95). -/
def coreEnded (c : Core) : Bool :=
  c.tasks.all (fun t => !t.2.run || (t.2.ended && heldOn t.2.hold == none)) &&
    (c.q.mx ++ c.q.vx ++ c.q.fx ++ c.q.st ++ c.q.ln).isEmpty && c.lnOut.isEmpty && c.slots.all (fun y => !y.2.active)

/-- A check refuses a candidate: a RUN completes, and a pass command ends its STAGE or PROBE (R10, R96, R288, R362). -/
def refuseCand (s : State) (c : Cand) (status : Nat) : State :=
  if c.pass.isSome then stageFail s c.key c.cmd status else refuseCmd s c.key c.cmd.id status 0

/-- A candidate that has its grant issues (R366, R407). -/
def issueCand (s : State) (p : Nat) (c : Cand) : State :=
  let kind : RunKind := if c.pass.isNone then .run else if (s.ctx c.key).stage.probe then .probe else .stage
  let s := updCmd (setCandPhase s c .issued) c.key c.cmd.id (fun m => { m with runNs := 0, haltNs := 0 })
  runEnd (startPlan s c.key c.cmd.id kind (candPlan c) (candParams c)) p

end Sys2Proof.Machine
end

