-- ==== Sys2Proof/Machine/Stage.lean ====
section
/-! DEFINITION. Sys2Proof/Machine/Stage.lean: core-class commands: RUN, STAGE, PROBE, their pass commands, and the end of
a command on a core (R95, R96, R283, R341, R342, R366). -/
namespace Sys2Proof.Machine

/-- The scheduler of partition `p` issues its granted candidate if `pass` says it is a pass command or a RUN, or lets its
chosen candidate ask for credit (R366, R407 to R409); a candidate that a check refuses completes, also one whose bed has been withdrawn
since it was chosen (R10, R96, R288, R362). -/
def schedCore (s : State) (p : Nat) (pass : Bool) : State :=
  if (s.sched p).run.isSome then s
  else
    let cs := coreCands s p
    match cs.find? (fun c => candPhase s c == .granted) with
    | some c =>
      if c.pass.isSome != pass then s
      else
        match candRefusal s c with
        | some st => refuseCand s c st
        | none => issueCand s p c
    | none =>
      match cs with
      | [] => s
      | c :: _ =>
        if c.pass.isSome != pass then s
        else if candPhase s c != .waiting then choose s p c
        else
          match candRefusal s c with
          | some st => refuseCand (choose s p c) c st
          | none => setCandPhase (choose s p c) c .asking

/-- RUN: the head core-class command of partition `p` is a RUN and asks for its credit, or issues with it (R96). -/
def execRun (p : Nat) (s : State) : Res := .next (schedCore s p false)

/-- PASS_COMMAND_ISSUE: the same for a pass command of a STAGE or PROBE (R283). -/
def execPassCommandIssue (p : Nat) (s : State) : Res := .next (schedCore s p true)

/-- Whether a core-class command of a context has issued and not completed. -/
def coreBusy (s : State) (k : Nat) : Bool :=
  (s.ctx k).q.cmds.any (fun m => classOf m.desc.opcode == .core && m.phase == .issued)

/-- Begin a STAGE or PROBE of step n; only a STAGE starts the idle time afresh, and a PROBE keeps what PT_STG_ shows of the
last STAGE (R283, R289). -/
def stageBegin (s : State) (k : Nat) (m : Cmd) (probe : Bool) (expect : Option Bytes) : State :=
  let s := setPhase s k m.id .issued
  let x := s.ctx k
  let n := m.desc.arg0 % two32
  let st : StageState :=
    if probe then
      { x.stage with step := n, entry := 0, blk := 0, probe := true, run := true, ask := .waiting, expect := expect
                     lastStep := shownStep x.stage, lastEntry := shownEntry x.stage }
    else { step := n, run := true }
  s.setCtx k { x with stage := st }

/-- STAGE of context `k` (R283). -/
def execStage (k : Nat) (s : State) : Res :=
  match issuable s k opStage with
  | none => .next s
  | some m =>
    if coreBusy s k then .next s
    else
      match (s.ctx k).image with
      | none => .next (refuseCmd s k m.id stMalformed 0)
      | some img =>
        match img.stage with
        | none => .next (refuseCmd s k m.id stMalformed 0)
        | some _ => .next (if bedGone s k then refuseCmd s k m.id stUnitAbsent 0 else stageBegin s k m false none)

/-- Whether every page of a host virtual range has a valid entry (R362). -/
def hostMapped (s : State) (p va n : Nat) : Bool :=
  n == 0 || (upto ((va + n - 1) / 65536 - va / 65536 + 1)).all (fun i =>
    (walkPage s p true (if i = 0 then va else (va / 65536 + i) * 65536)).isSome)

/-- PROBE of context `k` (R341, R342): `expected` is what the read of the expected record returns. -/
def execProbe (k : Nat) (expected : Bytes) (s : State) : Res :=
  match issuable s k opProbe with
  | none => .next s
  | some m =>
    if coreBusy s k then .next s
    else
      match (s.ctx k).image with
      | none => .next (refuseCmd s k m.id stMalformed 0)
      | some img =>
        match img.probe with
        | none => .next (refuseCmd s k m.id stMalformed 0)
        | some _ =>
          if bedGone s k then .next (refuseCmd s k m.id stUnitAbsent 0)
          else if !hostMapped s (keyPart k) m.desc.arg1 32 || (m.desc.arg2 != 0 && !hostMapped s (keyPart k) m.desc.arg2 32) then
            .next (refuseCmd s k m.id stParamUnmapped 0)
          else .next (stageBegin s k m true (if m.desc.arg2 = 0 then none else some expected))

/-- COMMAND_END_ON_CORE: the command has ended on physical core `core` (R95); the last core ends the command. -/
def execCommandEndOnCore (core : Nat) (s : State) : Res :=
  let c := s.core core
  match c.cmd with
  | none => .next s
  | some m =>
    let p := cmdPart m
    match (s.sched p).run with
    | none => .next s
    | some r =>
      if !coreEnded c || !r.cores.contains core then .next s
      else
        let s := gatherFlags s r.key r.cmd c
        let s := s.setCore core (quietCore c (openingId s r.key) stOk)
        let s := s.setSched p { s.sched p with run := some { r with cores := r.cores.filter (· != core) } }
        .next (runEnd s p)

end Sys2Proof.Machine
end

