-- ==== Sys2Proof/Machine/Crc.lean ====
section
/-! DEFINITION. Sys2Proof/Machine/Crc.lean: the parameterised CRCs of R433, and CRC-32C of a byte string (R131, R247). -/
namespace Sys2Proof.Machine

/-- Width of the check ALG selects (R433). -/
def crcWidth : Nat → Nat
  | 2 => 64
  | 3 => 16
  | _ => 32

/-- Polynomial of the check ALG selects, most significant coefficient first. -/
def crcPoly : Nat → Nat
  | 0 => 0x1EDC6F41
  | 1 => 0x04C11DB7
  | 2 => 0x42F0E1EBA9EA3693
  | _ => 0x1021

/-- Whether input and output are reflected. -/
def crcReflected (alg : Nat) : Bool := alg == 0 || alg == 1

/-- Initial value. -/
def crcInit : Nat → Nat
  | 0 => 0xFFFFFFFF
  | 1 => 0xFFFFFFFF
  | 2 => 0
  | _ => 0xFFFF

/-- Final XOR. -/
def crcXor : Nat → Nat
  | 0 => 0xFFFFFFFF
  | 1 => 0xFFFFFFFF
  | _ => 0

/-- The `w` low bits of a number in reverse order. -/
def reflect : Nat → Nat → Nat
  | 0, _ => 0
  | w + 1, v => v % 2 * 2 ^ w + reflect w (v / 2)

/-- `n` shifts of a CRC register of width `w`, most significant bit first. -/
def crcShift (w poly : Nat) : Nat → Nat → Nat
  | 0, r => r
  | n + 1, r => crcShift w poly n (if bit r (w - 1) then (2 * r % 2 ^ w) ^^^ poly else 2 * r % 2 ^ w)

/-- The register after one more byte. -/
def crcByte (alg r : Nat) (b : Byte) : Nat :=
  let w := crcWidth alg
  let v := if crcReflected alg then reflect 8 b.toNat else b.toNat
  crcShift w (crcPoly alg) 8 (r ^^^ (v * 2 ^ (w - 8)))

/-- The register after a run of bytes. -/
def crcFeed (alg r : Nat) (bs : Bytes) : Nat := bs.foldl (crcByte alg) r

/-- The result a register stands for. -/
def crcOut (alg r : Nat) : Nat := (if crcReflected alg then reflect (crcWidth alg) r else r) ^^^ crcXor alg

/-- The check of a byte string. -/
def crcOf (alg : Nat) (bs : Bytes) : Nat := crcOut alg (crcFeed alg (crcInit alg) bs)

/-- CRC-32C (R247, R433). -/
def crc32c (bs : Bytes) : Nat := crcOf 0 bs

end Sys2Proof.Machine
end

