-- ==== Sys2Proof/Machine/UpdArith.lean ====
section
/-! DEFINITION. Sys2Proof/Machine/UpdArith.lean: the arithmetic of the update engines: KM8 moments (R40 to R42, R258 to
R260), averages (R251), the norm accumulator (R253), the optimizers (R256, R257) and weight modes (R261, R262). -/
namespace Sys2Proof.Machine

/-! ### KM8 (R40, R41) -/

/-- The value of a KM8-S element under exponent X. -/
def km8s (x v : Nat) : Num :=
  if x = 255 then .nan false
  else
    let e := bits v 4 3
    let m := bits v 0 4
    if e = 0 then .fin (bit v 7) m ((x : Int) - 127 - 10) else .fin (bit v 7) (16 + m) ((x : Int) - 127 + e - 11)

/-- The value of a KM8-R element under exponent X. -/
def km8r (x v : Nat) : Num :=
  if x = 255 then .nan false
  else
    let e := bits v 4 4
    let m := bits v 0 4
    if e = 0 then .fin false m ((x : Int) - 127 - 18) else .fin false (16 + m) ((x : Int) - 127 + e - 19)

/-- Whether a value is neither NaN nor infinite. -/
def numFin (x : Num) : Bool := !numIsNan x && !numIsInf x

/-- The block exponent of a block of FP32 patterns (R259). -/
def km8Exp (vs : List Nat) : Nat :=
  if vs.any (fun v => !isFinite32 v) then 255
  else
    match maxExp (vs.map ofF32) with
    | none => 0
    | some x => (max 0 (min 254 (x + 127))).toNat

/-- The element grid of a scaled value (R40, R41, R260): below 2, with 4 mantissa bits and 3 or 4 exponent bits. -/
def km8Grid (signed : Bool) : Fmt :=
  if signed then { ew := 3, mw := 4, bias := 7, sp := .none } else { ew := 4, mw := 4, bias := 15, sp := .none }

/-- One element of a block with its draw (R260), and the flags of rounding it (R51): the clamp of a value that rounds up to 2
sets none, and a zero element is +0. -/
def km8Elem (signed : Bool) (x draw v : Nat) : Nat × FlagSet :=
  if x = 255 then (0, noFlags)
  else
    match ofF32 v with
    | .fin n m e =>
      let (k, f) := deliver (km8Grid signed) (.sto draw) true false (.fin n m (e - ((x : Int) - 127)))
      let mag := k % (if signed then 128 else 256)
      (if mag = 0 then 0 else mag + (if signed && n then 128 else 0), { f with overflow := false })
    | _ => (0, noFlags)

/-- Encode a block: exponent, elements, each with its draw, and flags; a block that is not finite is delivered as the NaN block
(R51, R258 to R260). -/
def km8Block (signed : Bool) (draws vs : List Nat) : Nat × List Nat × FlagSet :=
  let x := km8Exp vs
  let es := (draws.zip vs).map (fun d => km8Elem signed x d.1 d.2)
  (x, es.map Prod.fst, es.foldl (fun f y => orFlags f y.2) { nanSeen := x == 255 })

/-! ### Averages and norm (R251, R253) -/

/-- a × a as a multiple of 2^-320; none for a NaN or infinity (R253). -/
def square320 (a : Nat) : Option Int :=
  match ofF32 a with
  | .fin _ m e => some ((m * m * 2 ^ (2 * e + 320).toNat : Nat) : Int)
  | _ => none

/-- The module's partial from the exact sum of the accumulators, with the flags of rounding it (R51, R253). -/
def partialOf (acc : Int) (nonfin : Bool) : Nat × FlagSet :=
  if nonfin then (infBits fp32 false, noFlags) else deliver fp32 .rne false false (.fin false acc.toNat (-320))

/-! ### Optimizers (R256) -/

/-- x × y in FP32. -/
def fMul (x y : Nat) : Nat × FlagSet := mulBits fp32 false x y
/-- x + y in FP32. -/
def fAdd (x y : Nat) : Nat × FlagSet := addBits fp32 false false x y
/-- fma(x, y, z) in FP32. -/
def fFma (x y z : Nat) : Nat × FlagSet := fmaBits fp32 false false false x y z
/-- x / y in FP32 (R50, R51). -/
def fDiv (x y : Nat) : Nat × FlagSet :=
  let (a, fa) := readNum fp32 false x
  let (b, fb) := readNum fp32 false y
  let (q, f) := toF32 (divNum a b)
  (q, orFlags fa (orFlags fb f))
/-- The square root in FP32 (R50, R51). -/
def fSqrt (x : Nat) : Nat × FlagSet :=
  let (a, fa) := readNum fp32 false x
  let (q, f) := toF32 (sqrtNum a)
  (q, orFlags fa f)
/-- A whole number in FP32. -/
def f32Of (n : Nat) : Nat := (toF32 (ofInt (n : Int), noFlags)).1
/-- RNE of g / k, g a landed BF16 value widened exactly, with its flags (R251). -/
def average (g k : Nat) : Nat × FlagSet := fDiv (g * 65536) (f32Of k)
/-- -x. -/
def fNeg (x : Nat) : Nat := x ^^^ 0x80000000
/-- sign0 as FP32: -1, 0 or +1; a NaN stays one. -/
def sign0 (x : Nat) : Nat :=
  match ofF32 x with
  | .nan _ => canonNaN fp32
  | .inf n => if n then 0xBF800000 else 0x3F800000
  | .fin n m _ => if m = 0 then 0 else if n then 0xBF800000 else 0x3F800000

/-- A value with the flags of forming it; later operations collect them. -/
structure FV where
  v : Nat
  f : FlagSet := {}
  deriving DecidableEq, Repr

/-- Apply a two-operand operation. -/
def ap2 (op : Nat → Nat → Nat × FlagSet) (x y : FV) : FV :=
  let (v, f) := op x.v y.v
  { v := v, f := orFlags x.f (orFlags y.f f) }

/-- An operation's result and flags as a value with flags. -/
def ofPair (x : Nat × FlagSet) : FV := { v := x.1, f := x.2 }

/-- Apply a three-operand operation. -/
def ap3 (op : Nat → Nat → Nat → Nat × FlagSet) (x y z : FV) : FV :=
  let (v, f) := op x.v y.v z.v
  { v := v, f := orFlags x.f (orFlags y.f (orFlags z.f f)) }

/-- Apply a one-operand operation. -/
def ap1 (op : Nat → Nat × FlagSet) (x : FV) : FV :=
  let (v, f) := op x.v
  { v := v, f := orFlags x.f f }

/-- A value with no flag. -/
def fv (v : Nat) : FV := { v := v }

/-- The new first moment, new second-moment root and direction of one parameter (R256). -/
def optStep (opt : Nat) (h : HSet) (gc m0 s0 vhat : FV) : FV × FV × FV :=
  match opt with
  | 1 =>
    let m1 := ap3 fFma (fv h.b1) m0 (ap2 fMul (fv h.omb1) gc)
    let v1 := ap3 fFma (fv h.b2) (ap2 fMul s0 s0) (ap2 fMul (fv h.omb2) (ap2 fMul gc gc))
    let s1 := ap1 fSqrt v1
    (m1, s1, ap2 fDiv (ap2 fMul m1 (fv h.bc1)) (ap2 fAdd s1 (fv h.eps)))
  | 2 =>
    let m1 := ap3 fFma (fv h.b1) m0 gc
    (m1, fv 0, m1)
  | 3 =>
    let d := ap3 fFma (fv h.b1) m0 (ap2 fMul (fv h.omb1) gc)
    let m1 := ap3 fFma (fv h.b2) m0 (ap2 fMul (fv h.omb2) gc)
    (m1, fv 0, { v := sign0 d.v, f := d.f })
  | _ =>
    let m1 := ap3 fFma (fv h.b1) m0 (ap2 fMul (fv h.omb1) gc)
    (m1, fv 0, ap2 fDiv (ap2 fMul m1 (fv h.bc1)) (ap2 fAdd (ap1 fSqrt vhat) (fv h.eps)))

/-- The new weight w1 = fma(-LR, fma(WD, w0, u), w0) (R256). -/
def newWeight (h : HSet) (w0 u : FV) : FV := ap3 fFma (fv (fNeg h.lr)) (ap3 fFma (fv h.wd) w0 u) w0

/-- Overflow or invalid for a new value that is infinite or NaN (R256). -/
def storeFlags (v : Nat) : FlagSet :=
  match ofF32 v with
  | .nan _ => { invalid := true }
  | .inf _ => { overflow := true }
  | _ => noFlags

/-- Update one parameter: average, clip, optimizer and weight (R251, R256): w1, m1, s1 and flags. -/
def paramStep (opt : Nat) (h : HSet) (f w0 : Nat) (a : FV) (m0 s0 : Num) (vhat : FV) : Nat × Nat × Nat × FlagSet :=
  let gc := ap2 fMul a (fv f)
  let d (x : Num) : FV := fv (toF32 (x, noFlags)).1
  let (m1, s1, u) := optStep opt h gc (d m0) (d s0) vhat
  let w1 := newWeight h (fv w0) u
  (w1.v, m1.v, s1.v, orFlags w1.f (orFlags m1.f (orFlags s1.f (orFlags (storeFlags w1.v) (orFlags (storeFlags m1.v) (storeFlags s1.v))))))

/-! ### The factored variant (R257) -/

/-- ρ1_i² or κ1_j² from the old root, the sum of squares and the number of terms (R257). -/
def factStat (h : HSet) (root : Nat) (sum : FV) (n : Nat) : FV :=
  ap3 fFma (fv h.b2) (ap2 fMul (fv root) (fv root)) (ap2 fMul (fv h.omb2) (ap2 fDiv sum (fv (f32Of n))))

/-- Sum of values in the order of R110, with their flags and its own. -/
def sum110 (vs : List FV) : FV :=
  let (v, f) := reduceRow (fun x y => addBits fp32 false false x y) (vs.map FV.v)
  { v := v, f := vs.foldl (fun a x => orFlags a x.f) f }

/-- vhat = RNE(RNE(ρ² × κ²) / rbar) (R257). -/
def vhatOf (rho kappa rbar : Nat) : FV := ap2 fDiv (ap2 fMul (fv rho) (fv kappa)) (fv rbar)

end Sys2Proof.Machine
end

