-- ==== Sys2Proof/Machine/Protect.lean ====
section
/-! DEFINITION. Sys2Proof/Machine/Protect.lean: protected units, stripes and parity (R247, R324 to R326), protection
transfers (R328), and the engines' held translations (R249). -/
namespace Sys2Proof.Machine

/-! ### Protected bytes (R247, R324) -/

/-- The protected bytes of record r of a segment, as virtual address and length, in the order of R247. -/
def protAreas (g : List Nat) (r : Nat) : List (Nat × Nat) :=
  [(gW g + 128 * r, 128)] ++ (if gCompact g then [] else [(gL g + 128 * r, 128)]) ++ [(gM g + 64 * r, 64)] ++
    (if gOpt g = 1 then [(gS g + 64 * r, 64)] else []) ++ [(gM g + gCount g + r, 1)] ++
    (if gOpt g = 1 then [(gS g + gCount g + r, 1)] else [])

/-- Protected bytes of a record. -/
def recLen (g : List Nat) : Nat := ((protAreas g 0).map Prod.snd).foldl (· + ·) 0

/-- The segments of a die. -/
def dieSegs (plan : List (List SegWords)) (d : Nat) : List SegWords := plan.getD d []

/-- Records of a die's segments. -/
def segsRecs (segs : List SegWords) : Nat := (segs.map gRecs).foldl (· + ·) 0

/-- Position of record r of a segment among the die's records in plan order. -/
def recIndex (segs : List SegWords) (seg r : Nat) : Nat := segsRecs (segs.take seg) + r

/-- The segment and record at a position of a die. -/
def recAt : List SegWords → Nat → Nat → Option (Nat × Nat)
  | [], _, _ => none
  | g :: gs, seg, i => if i < gRecs g then some (seg, i) else recAt gs (seg + 1) (i - gRecs g)

/-- Units of a die. -/
def dieUnits (plan : List (List SegWords)) (d : Nat) : Nat := cdiv (segsRecs (dieSegs plan d)) 16

/-- First unit of a die. -/
def unitBase (plan : List (List SegWords)) (d : Nat) : Nat := ((upto d).map (dieUnits plan)).foldl (· + ·) 0

/-- The unit of a record. -/
def unitOfRec (plan : List (List SegWords)) (d seg r : Nat) : Nat := unitBase plan d + recIndex (dieSegs plan d) seg r / 16

/-- The die of a unit. -/
def unitDie (plan : List (List SegWords)) (u : Nat) : Nat :=
  ((upto 4).find? (fun d => decide (unitBase plan d ≤ u) && decide (u < unitBase plan d + dieUnits plan d))).getD 0

/-- The records of a unit, as segment and record of its die, in order. -/
def unitRecs (plan : List (List SegWords)) (u : Nat) : List (Nat × Nat) :=
  let d := unitDie plan u
  let segs := dieSegs plan d
  if unitBase plan d ≤ u && u < unitBase plan d + dieUnits plan d then
    (upto 16).filterMap (fun i => recAt segs 0 (16 * (u - unitBase plan d) + i))
  else []

/-- Byte offset of a record within its unit, and the unit's length. -/
def unitOffset (plan : List (List SegWords)) (d seg r : Nat) : Nat :=
  let segs := dieSegs plan d
  let i := recIndex segs seg r
  (((upto (i % 16)).filterMap (fun j => recAt segs 0 (i - i % 16 + j))).map (fun x => recLen (segs.getD x.1 []))).foldl (· + ·) 0

/-! ### Stripes (R325, R326) -/

/-- Multiply a symbol by α. -/
def gfTwo (v : Nat) : Nat := if 32768 ≤ v then ((2 * v) % 65536) ^^^ 0x100B else 2 * v
/-- Divide a symbol by α. -/
def gfHalf (v : Nat) : Nat := if v % 2 = 1 then (v ^^^ 0x1100B) / 2 else v / 2
/-- Multiply by α^k. -/
def gfUp : Nat → Nat → Nat
  | 0, v => v
  | k + 1, v => gfUp k (gfTwo v)
/-- Divide by α^k. -/
def gfDown : Nat → Nat → Nat
  | 0, v => v
  | k + 1, v => gfDown k (gfHalf v)
/-- Apply a function to every 16-bit symbol of a string of even length. -/
def symMap (f : Nat → Nat) : Bytes → Bytes
  | a :: b :: t => natLe 2 (f (a.toNat + 256 * b.toNat)) ++ symMap f t
  | _ => []
/-- XOR of two strings over the length of the first. -/
def xorBytes : Bytes → Bytes → Bytes
  | a :: as, b :: bs => (a ^^^ b) :: xorBytes as bs
  | as, [] => as
  | [], _ => []
/-- The shard that holds a unit. -/
def shardOf (pt : ProtTable) (u : Nat) : Option Nat :=
  (upto pt.shards.length).find? (fun i =>
    let x := pt.shards.getD i {}
    decide (x.firstUnit ≤ u) && decide (u < x.firstUnit + x.units))
/-- The stripe and data slot of unit q of the shard at position t (R325). -/
def stripeOf (t q : Nat) : Nat × Nat := (10 * (q / 8) + (t + 18 - q % 8) % 10, q % 8)
/-- P-holder's position of a stripe. -/
def posP (σ : Nat) : Nat := σ % 10
/-- Q-holder's position. -/
def posQ (σ : Nat) : Nat := (σ % 10 + 1) % 10
/-- Position that holds data slot k of a stripe. -/
def posSlot (σ k : Nat) : Nat := (σ % 10 + 2 + k) % 10
/-- The shard of a group on this module. -/
def groupShard (pt : ProtTable) (g : Nat) : Option Nat := (upto pt.shards.length).find? (fun i => (pt.shards.getD i {}).group == g)
/-- Address of a stripe's parity unit on its P-holder or Q-holder. -/
def parityVa (x : Shard) (σ : Nat) (q : Bool) : Nat := x.parVa + x.unitBytes * (2 * (σ / 10) + b2n q)
/-- The delta-map bit of a parity unit and slot of a shard. -/
def mapKey (shard σ slot : Nat) (q : Bool) : Nat := (shard * 2 ^ 40 + 2 * (σ / 10) + b2n q) * 16 + slot

/-! ### Memory of the engines -/

/-- Bytes read from an address on as an engine gets them: those of a poisoned codeword are free values (R225). -/
def asRead (s : State) (a : Nat) (bs : Bytes) : Bytes :=
  ((upto bs.length).zip bs).map (fun y => if poisonedCw s ((a + y.1) / 64) then Config.freeByte s.freeCount (a + y.1) else y.2)
/-- Read `n` bytes within one page: whether one is poisoned or unmapped, the bytes, the state. -/
def pageRead (s : State) (p va n : Nat) : Bool × Bytes × State :=
  match engSpa s p va with
  | none => (true, List.replicate n 0, s)
  | some a =>
    let (bad, s) := checkRange s p a n
    let (bs, s) := stkRead s a n
    (bad, if bad then asRead s a bs else bs, s)
/-- Read a range page by page: whether one part is poisoned or unmapped, the bytes, the state. -/
def readPages (p : Nat) : Nat → State → Nat → Nat → Bool × Bytes × State
  | 0, s, _, _ => (false, [], s)
  | f + 1, s, va, n =>
    let k := pagePart va n
    let (b, bs, s) := pageRead s p va k
    if k = n then (b, bs, s)
    else
      let (c, cs, s) := readPages p f s (va + k) (n - k)
      (b || c, bs ++ cs, s)
/-- Read `n` bytes: whether one is poisoned or unmapped, the bytes, the state. -/
def engRead (s : State) (p va n : Nat) : Bool × Bytes × State := readPages p (pageFuel n) s va n
/-- Read several areas, concatenated. -/
def engReads (s : State) (p : Nat) : List (Nat × Nat) → Bool × Bytes × State
  | [] => (false, [], s)
  | x :: xs =>
    let (b, bs, s) := engRead s p x.1 x.2
    let (c, cs, s) := engReads s p xs
    (b || c, bs ++ cs, s)
/-- Write a string over several areas. -/
def engWrites (s : State) (p : Nat) : List (Nat × Nat) → Bytes → State
  | [], _ => s
  | x :: xs, bs => engWrites (engWrite s p x.1 (bs.take x.2)) p xs (bs.drop x.2)
/-- The protected bytes of a unit, in order: whether one is poisoned, the bytes, the state. -/
def readUnit (s : State) (p u : Nat) : Bool × Bytes × State :=
  let plan := updPlan s p
  let segs := dieSegs plan (unitDie plan u)
  engReads s p ((unitRecs plan u).flatMap (fun x => protAreas (segs.getD x.1 []) x.2))

/-! ### Protection transfers (R328) -/

/-- The protection header. -/
def protHeader (x : ProtTx) : Bytes :=
  natLe 1 x.kind ++ natLe 1 (x.slot % 16 + 16 * x.pass) ++ natLe 2 x.group ++ natLe 4 x.step ++ natLe 8 x.idx
/-- Pieces of a transfer of 4 KiB each (R302). -/
def pieces : Nat → Bytes → List Bytes
  | 0, _ => []
  | n + 1, bs => bs.take 4096 :: pieces n (bs.drop 4096)
/-- The context of the command that a module's protection transfers serve: the running UPDATE, or the REBUILD or JOB_RESUME that sweeps; none
for what it sends in reply (R389). -/
def protPayer (s : State) (p : Nat) (x : ProtTx) : Option Nat :=
  if x.kind != 1 && x.kind != 3 && x.kind != 6 then none
  else
    match (s.upd p).cmd, (s.upd p).serve, (s.prot p).rb with
    | some c, _, _ => some c.1
    | none, some c, _ => some c.1
    | none, none, some r => some r.cmd.1
    | none, none, none => none
/-- Send the packets of a transfer to its rank. -/
def sendTx (s : State) (p : Nat) (x : ProtTx) : State :=
  let bs := protHeader x ++ x.data
  let ps := pieces (cdiv bs.length 4096) bs
  ((upto ps.length).zip ps).foldl (fun s y =>
    sendPaid s p (protPayer s p x) x.rank { ty := 1, chan := 0xFFF0 + x.idx % 16, pidx := y.1, body := y.2 }) s
/-- Send a transfer, kept until it is acknowledged where it is one that is acknowledged. -/
def sendProt (s : State) (p : Nat) (x : ProtTx) : State :=
  let s := if x.kind = 1 || x.kind = 3 || x.kind = 6 then
      let y := s.prot p
      s.setProt p { y with tx := y.tx ++ [x] }
    else s
  sendTx s p x
/-- A transfer is acknowledged: by kind, group, index and rank. -/
def dropTx (s : State) (p kind group idx rank : Nat) : State :=
  let y := s.prot p
  s.setProt p { y with tx := y.tx.filter (fun x => !(x.kind == kind && x.group == group && x.idx == idx && x.rank == rank)) }

/-! ### Applying a delta (R329) -/

/-- The delta map of a step. -/
def mapOf (y : ProtPart) (step : Nat) : List Nat := if step % 2 = 0 then y.map0 else y.map1
/-- Set a bit of the delta map of a step; a bit of the current step is evidence (R347). -/
def setMap (y : ProtPart) (step key cur : Nat) : ProtPart :=
  let y := if step = cur then { y with evDmap := true } else y
  if step % 2 = 0 then { y with map0 := key :: y.map0.filter (· != key) } else { y with map1 := key :: y.map1.filter (· != key) }
/-- XOR a coefficient times a payload into a parity unit. -/
def xorParity (s : State) (p va n k : Nat) (q : Bool) (payload : Bytes) : State :=
  let (_, old, s) := engRead s p va n
  let add := padTo n (if q then symMap (gfUp k) (padTo n payload) else payload)
  engWrite s p va (xorBytes old add)

end Sys2Proof.Machine
end

