-- ==== Sys2Proof/Machine/Tree.lean ====
section
/-! DEFINITION. Sys2Proof/Machine/Tree.lean: block trees, and what follows when a block of a collective becomes visible (R311
to R317, R330). -/
namespace Sys2Proof.Machine

/-- The context of a partition's job (R365). -/
def jobKey (s : State) (p : Nat) : Nat := 64 * p + (s.job p).ctx

/-- The addition format. -/
def accFmt (e : List Nat) : Fmt := if colAcc32 e then fp32 else bf16
/-- The landing format. -/
def landFmt (e : List Nat) : Fmt := if colLand32 e then fp32 else bf16

/-- x + y in the addition format, with gradual underflow (R314). -/
def accAdd (e : List Nat) (x y : Nat) : Nat × FlagSet := addBits (accFmt e) false false x y

/-- Values of a string in the addition format. -/
def accVals (e : List Nat) (bs : Bytes) : List Nat :=
  let w := accBytes e
  (upto (bs.length / w)).map (fun i => leNat ((bs.drop (w * i)).take w))

/-- The sum of two strings of values; where one is shorter the other's value stands (R314). -/
def accSum (e : List Nat) (a b : List Nat) : List Nat × FlagSet :=
  match a, b with
  | x :: xs, y :: ys =>
    let (v, f) := accAdd e x y
    let (vs, g) := accSum e xs ys
    (v :: vs, orFlags f g)
  | xs, [] => (xs, noFlags)
  | [], ys => (ys, noFlags)

/-- Values converted from one format to another by round to nearest even, with their flags; values that are in the format
already are only moved (R50, R314). -/
def convVals (src dst : Fmt) (vs : List Nat) : List Nat × FlagSet :=
  if src = dst then (vs, noFlags)
  else
    let cs := vs.map (fun v =>
      let (x, fx) := readNum src false v
      let (o, f) := deliver dst .rne false false x
      (o, orFlags fx f))
    (cs.map Prod.fst, cs.foldl (fun f c => orFlags f c.2) noFlags)

/-- The values of a string of the transfer, in the addition format, with the flags of converting them. -/
def fromLanding (e : List Nat) (bs : Bytes) : List Nat × FlagSet :=
  let w := landBytes e
  convVals (landFmt e) (accFmt e) ((upto (bs.length / w)).map (fun i => leNat ((bs.drop (w * i)).take w)))

/-- Values as bytes in the addition format. -/
def accPack (e : List Nat) (vs : List Nat) : Bytes := vs.flatMap (natLe (accBytes e))

/-- Values converted to the landing format, as bytes, with their flags (R314). -/
def toLanding (e : List Nat) (vs : List Nat) : Bytes × FlagSet :=
  let (os, f) := convVals (accFmt e) (landFmt e) vs
  (os.flatMap (natLe (landBytes e)), f)

/-- Replace the work of a block; idle work is not kept. -/
def setWork (s : State) (p chan b : Nat) (w : BlockWork) : State :=
  let j := s.job p
  s.setJob p { j with work := if w = {} then Tbl.del j.work (workKey chan b) else Tbl.set j.work (workKey chan b) w }

/-- Bytes of a block's partial at this node: what its local contributions give, or as the last one, or a whole block. -/
def partialLen (e : List Nat) (w : BlockWork) : Nat :=
  if w.acc.isEmpty then (if w.len = 0 then partialBytes e else w.len) else w.acc.length

/-- Packets of a block's whole partial (R302). -/
def partialPkts (e : List Nat) : Nat := max 1 (partialBytes e / 4096)

/-- Send a partial of a block, for the context of its last contributing command, towards the root in packets of 4 KiB, which all carry its CONTRIB and step; PIDX counts the packets
of the transfer of partials (R302, R314). -/
def sendReduce (s : State) (p key chan : Nat) (e : List Nat) (b rank contrib step : Nat) (bs : Bytes) : State :=
  let ps := pieces (cdiv bs.length 4096) bs
  ((upto ps.length).zip ps).foldl (fun s y =>
    sendFor s p key rank { ty := 2, chan := chan, pidx := partialPkts e * b + y.1, contrib := contrib, aux := step % 65536, body := y.2 }) s

/-- The slice of the die that holds a collective's work area adds: a busy time, whose length no rule gives (R314, R429; a free value,
log 16). The die is that of the area's first byte, for every block (DESIGN CHOICE, log 88). -/
def sliceAdds (s : State) (p : Nat) (e : List Nat) : State :=
  match engSpa s p (colWa e) with
  | none => s
  | some spa =>
    let (n, s) := drawFree s
    let d := dieOfSpa s.var spa
    { s with blv := { s.blv with trBusy := Tbl.upd 0 s.blv.trBusy (16 + d) (fun v => satAdd 64 v (Config.freeWord n).toNat) } }

/-- Whether every packet of a child's partial of n bytes has arrived. -/
def kidWhole (n : Nat) (k : KidPart) : Bool := (upto (cdiv n 4096)).all (fun i => (Tbl.find k.parts i).isSome)

/-- A child's partial of n bytes. -/
def kidBytes (n : Nat) (k : KidPart) : Bytes := ((upto (cdiv n 4096)).flatMap (fun i => Tbl.get [] k.parts i)).take n

/-- Keep a packet of a child's partial. -/
def putKid (ks : List KidPart) (rank contrib i : Nat) (bs : Bytes) : List KidPart :=
  let k := (ks.find? (fun x => x.rank == rank)).getD { rank := rank }
  ks.filter (fun x => x.rank != rank) ++ [{ k with contrib := contrib, parts := Tbl.set k.parts i bs }]

/-- Raise flags into a context (R53). -/
def ctxFlags (s : State) (k : Nat) (fl : FlagSet) : State :=
  let c := s.ctx k
  s.setCtx k { c with flags := orFlags c.flags fl }

/-- A landed block signals ARR_LNT with V = 1 where it is enabled (R317). -/
def arrSignal (s : State) (p : Nat) (e : List Nat) : State :=
  if colArrEn e then hubSignal s (jobKey s p) (colArr e) 1 else s

/-- Send a reduced block down its tree in DATA packets of 4 KiB, for the job's context (R313, R389). -/
def gatherDown (s : State) (p chan : Nat) (e : List Nat) (b : Nat) (bs : Bytes) : State :=
  let ps := pieces (cdiv bs.length 4096) bs
  (blockKids s p e b).foldl (fun s r =>
    ((upto ps.length).zip ps).foldl (fun s y => sendFor s p (jobKey s p) r
      { ty := 1, chan := chan, pidx := 16 * b + y.1, last := y.1 + 1 == ps.length, body := y.2 }) s) s

/-- Acknowledge a block to the children whose partials it took (R316). -/
def ackDown (s : State) (p chan b : Nat) (ranks : List Nat) : State :=
  ranks.foldl (fun s r => sendPkt s p r { ty := 3, chan := chan, pidx := b }) s

/-! ### A block that has become visible -/

/-- Mirror a landing block to MIRROR_TO (R330). -/
def mirrorBlock (s : State) (p key cnt : Nat) (bs : Bytes) (step : Nat) : State :=
  match protTab s p with
  | none => s
  | some pt =>
    sendProt s p { kind := 3, step := step, idx := key, rank := pt.mirrorTo, pass := 0, slot := 0, group := 0
                   data := natLe 2 cnt ++ bs }

/-- A reduced block has become visible at its owner: it signals its arrival lantern, is acknowledged to the children of the
tree, and an all-reduce sends it down (R312, R313, R316, R317). -/
def blockVisible (s : State) (p chan b : Nat) (bs : Bytes) : State :=
  let e := collOf s (jobKey s p) chan
  let s := arrSignal s p e
  let s := ackDown s p chan b (blockKids s p e b)
  if colType e = 4 then gatherDown s p chan e b bs else s

end Sys2Proof.Machine
end

