-- ==== Sys2Proof/Machine/SweepLib.lean ====
section
/-! DEFINITION. Sys2Proof/Machine/SweepLib.lean: the work of the update engines on records: progress, the factored
pre-pass, one record, derived copies, deltas, and the end of a sweep (R244 to R247, R256 to R266). -/
namespace Sys2Proof.Machine

/-! ### Progress (R244) -/

/-- The die, the position among the die's present engines, and their number, of an engine. -/
def engPlace (v : Variant) (k : Nat) : Nat × Nat × Nat :=
  let d := k / 3
  let es := dieEngines v d
  (d, es.findIdx (· == k % 3), es.length)

/-- The first record at or after record r of the segments that follow, for the engine at position j. -/
def seekRec (j : Nat) : List SegWords → Nat → Nat → Option (Nat × Nat)
  | [], _, _ => none
  | g :: gs, seg, r => if r < gRecs g then some (seg, r) else seekRec j gs (seg + 1) j

/-- State of engine k in a partition's update. -/
def updEng (s : State) (p k : Nat) : UpdEng := Tbl.get {} (s.upd p).eng k

/-- Replace it. -/
def setUpdEng (s : State) (p k : Nat) (e : UpdEng) : State :=
  let u := s.upd p
  s.setUpd p { u with eng := Tbl.set u.eng k e }

/-- The record an engine processes next, as segment and record: of its lost list under UPDATE_RESUME, else in plan
order. -/
def nextRec (s : State) (p k : Nat) : Option (Nat × Nat) :=
  let u := s.upd p
  let e := updEng s p k
  if e.ended then none
  else if u.resume then e.lost[e.nxt]?
  else
    let (d, j, _) := engPlace s.var k
    seekRec j ((dieSegs (updPlan s p) d).drop e.seg) e.seg e.nxt

/-- Whether record r of a segment has been processed by the sweep of the step; UPDATE_RESUME follows one that has ended
(R266). -/
def recDone (s : State) (p d seg r : Nat) : Bool :=
  let e := updEng s p (recEngine s.var d r)
  (s.upd p).resume || e.ended || decide (seg < e.seg) || (seg == e.seg && decide (r < e.nxt))

/-- Whether a record is on a lost list that UPDATE_RESUME has not yet come to. -/
def toRedo (s : State) (p d : Nat) (x : Nat × Nat) : Bool :=
  let e := updEng s p (recEngine s.var d x.2)
  !e.ended && (e.lost.drop e.nxt).contains x

/-- Whether a record is on a lost list. -/
def recLost (s : State) (p d seg r : Nat) : Bool :=
  let e := updEng s p (recEngine s.var d r)
  e.lost.contains (seg, r) || e.lostMore.contains (seg, r)

/-! ### Landing blocks (R250) -/

/-- First landing-block number of a segment of a die. -/
def blockBase (segs : List SegWords) (seg : Nat) : Nat := ((segs.take seg).map gBlocks).foldl (· + ·) 0

/-- The segment and block within it of a landing-block number. -/
def blockAt : List SegWords → Nat → Nat → Option (Nat × Nat)
  | [], _, _ => none
  | g :: gs, seg, b => if b < gBlocks g then some (seg, b) else blockAt gs (seg + 1) (b - gBlocks g)

/-- The key of a landing block in the count store. -/
def blockKey (d lb : Nat) : Nat := d * 2 ^ 20 + lb

/-- The landing-block number of record r of a segment. -/
def recBlock (segs : List SegWords) (seg r : Nat) : Nat := blockBase segs seg + r / 512

/-- Add the square of an average to the norm accumulator of engine k; one that is not finite marks it (R253). -/
def addSquare (s : State) (p k a : Nat) : State :=
  let e := updEng s p k
  match square320 a with
  | some q => setUpdEng s p k { e with acc := e.acc + q }
  | none => setUpdEng s p k { e with nonfin := true }

/-- Add the squares of a block's averages to the accumulators of the engines of its records, with the flags of averaging (R251,
R253). -/
def addSquares (s : State) (p d r0 cnt : Nat) (bs : Bytes) : State × FlagSet :=
  (upto (bs.length / 2)).foldl (fun x i =>
    let (a, f) := average (leNat ((bs.drop (2 * i)).take 2)) cnt
    (addSquare x.1 p (recEngine s.var d (r0 + i / 64)) a, orFlags x.2 f)) (s, noFlags)

/-- The context of the command that the update engines serve: the engine-class command that runs, or the one that has them sweep a step
(R389). -/
def engPayer (s : State) (p : Nat) : Option Nat :=
  match (s.sched p).eng with
  | some (k, _) => some k
  | none => (s.upd p).serve.map Prod.fst

/-- Bytes that the update engines move for the command they serve (R389). -/
def engMeter (s : State) (p n : Nat) : State :=
  match engPayer s p with
  | some k => useStack s k n
  | none => s

/-- Bytes of the derived copies that one record of a segment writes (R263, R389). -/
def derMoved (g : List Nat) : Nat :=
  let one := 64 * codeBits (gDfmt g) / 8 + (if isMx (gDfmt g) then 2 else 0)
  (if gDfwd g then one else 0) + (if gDbwd g then one else 0)

/-- Flags of averaging a landed block: into the running command for its step, else kept for the command of the next (R53). -/
def landFlags (s : State) (p : Nat) (next : Bool) (f : FlagSet) : State :=
  if next then
    let u := s.upd p
    s.setUpd p { u with early := orFlags u.early f }
  else updFlags s p f

/-- Write a landing block with its count, of the current step or the next, and what follows once it is visible: its mirror, and
what the collective it completes does with it, `src` being its number and block (R250, R253, R317, R330). -/
def landWrite (s : State) (p d lb cnt : Nat) (bs : Bytes) (next : Bool) (src : Option (Nat × Nat)) : State :=
  let segs := dieSegs (updPlan s p) d
  match blockAt segs 0 lb with
  | none => s
  | some (seg, b) =>
    let g := segs.getD seg []
    let part := bs.take (2 * (gCount g - 32768 * b))
    let s := engWrite s p (gG g + 65536 * b) part
    let s := engMeter s p part.length
    let u := s.upd p
    let s := s.setUpd p (if next then { u with next := Tbl.set u.next (blockKey d lb) cnt }
                         else { u with counts := Tbl.set u.counts (blockKey d lb) cnt })
    let (s, f) := addSquares s p d (512 * b) cnt part
    let s := landFlags s p next f
    let s := mirrorBlock s p (blockKey d lb) cnt bs (committedOf s p + (if next then 2 else 1))
    match src with
    | some (chan, blk) => blockVisible s p chan blk bs
    | none => s

/-- The sweep has read a landing block: a held write of the next step is made (R250). -/
def blockRead (s : State) (p d lb : Nat) : State :=
  let key := blockKey d lb
  let u := s.upd p
  let s := s.setUpd p { u with readBlk := key :: u.readBlk.filter (· != key), held := u.held.filter (fun h => h.key != key) }
  (u.held.filter (fun h => h.key == key)).foldl (fun s h => landWrite s p d lb h.cnt h.data true h.src) s

/-! ### The factored pre-pass (R257) -/

/-- Parameter index within a tiled segment of row i and column j of its matrix (R247). -/
def tiledIndex (g : List Nat) (i j : Nat) : Nat := (i / 128 * gTc g + j / 128) * 16384 + i % 128 * 128 + j % 128

/-- Row and column of a parameter of a tiled segment. -/
def tiledPos (g : List Nat) (e : Nat) : Nat × Nat :=
  let t := e / 16384
  (t / gTc g * 128 + e % 16384 / 128, t % gTc g * 128 + e % 128)

/-- A read of engine k: whether it is poisoned, which counts at the engine, the bytes and the state (R226, R273). -/
def updRead (s : State) (p k va n : Nat) : Bool × Bytes × State :=
  let (bad, bs, s) := engRead s p va n
  let x := s.updReg k
  (bad, bs, if bad then s.setUpdReg k { x with poison := inc32 x.poison } else s)

/-- Reads of several areas by engine k, concatenated. -/
def updReads (p k : Nat) : State → List (Nat × Nat) → Bool × Bytes × State
  | s, [] => (false, [], s)
  | s, x :: xs =>
    let (b, bs, s) := updRead s p k x.1 x.2
    let (c, cs, s) := updReads p k s xs
    (b || c, bs ++ cs, s)

/-- gc of the parameters of a segment, in storage order: each record's landed values read once more by its engine, averaged and
clipped (R251, R256, R257). -/
def readGrads (s : State) (p d seg : Nat) : List FV × State :=
  let segs := dieSegs (updPlan s p) d
  let g := segs.getD seg []
  (upto (gRecs g)).foldl (fun x r =>
    let u := x.2.upd p
    let (_, bs, s) := updRead x.2 p (recEngine s.var d r) (gG g + 128 * r) 128
    let cnt := Tbl.get 1 u.counts (blockKey d (recBlock segs seg r))
    (x.1 ++ (upto 64).map (fun i => ap2 fMul (ofPair (average (leNat ((bs.drop (2 * i)).take 2)) cnt)) (fv u.clip)), s)) ([], s)

/-- The roots of a statistics area of n values at an address (R246). -/
def statRoots (s : State) (p k va n : Nat) : List Nat × State :=
  let (_, es, s) := updRead s p k va n
  let (_, xs, s) := updRead s p k (va + n) (n / 64)
  ((upto n).map (fun i => (toF32 (km8r (xs.getD (i / 64) 0).toNat (es.getD i 0).toNat, noFlags)).1), s)

/-- The bytes of a statistics area: elements then exponents, blocks of 64, with the flags of encoding them (R257, R258). -/
def statBytes (seed step e0 : Nat) (roots : List Nat) : Bytes × FlagSet :=
  let blk (b : Nat) : Nat × List Nat × FlagSet :=
    let vs := (roots.drop (64 * b)).take 64
    km8Block false ((upto vs.length).map (fun i => draw seed 0xFF { step := step, mb := 0xFFFFFFFF } (e0 + 64 * b + i))) vs
  let bs := (upto (roots.length / 64)).map blk
  (bs.flatMap (fun x => x.2.1.map (BitVec.ofNat 8)) ++ bs.map (fun x => BitVec.ofNat 8 x.1),
    bs.foldl (fun f x => orFlags f x.2.2) noFlags)

/-- The key of a value of a factored segment in the tables of the pre-pass. -/
def factKey (d seg i : Nat) : Nat := (d * 2 ^ 14 + seg) * 2 ^ 24 + i

/-- Statistics under the keys of their segment. -/
def putStats (d seg : Nat) (t : Tbl Nat) (vs : List FV) : Tbl Nat :=
  ((upto vs.length).zip vs).foldl (fun t x => Tbl.set t (factKey d seg x.1) x.2.v) t

/-- Store statistics as square roots at an address; the flags of everything that formed them (R257, R258). -/
def storeStats (s : State) (p va e0 : Nat) (vs : List FV) : State :=
  let roots := vs.map (fun x => ap1 fSqrt x)
  let (bs, f) := statBytes (s.job p).seed (s.upd p).blk.step e0 (roots.map FV.v)
  updFlags (engWrite s p va bs) p (roots.foldl (fun a x => orFlags a x.f) f)

/-- Pre-pass of one factored segment; the group's first engine reads the statistics (R257). -/
def prePass (s : State) (p d seg : Nat) : State :=
  let g := (dieSegs (updPlan s p) d).getD seg []
  let h := (s.upd p).blk.sets.getD (gHset g) {}
  let r := 128 * gTr g
  let c := 128 * gTc g
  let (gc, s) := readGrads s p d seg
  let q (i j : Nat) : FV := let x := gc.getD (tiledIndex g i j) (fv 0); ap2 fMul x x
  let (rho0, s) := statRoots s p (recEngine s.var d 0) (gS g) r
  let (kap0, s) := statRoots s p (recEngine s.var d 0) (gS g + momBytes r) c
  let rho := (upto r).map (fun i => factStat h (rho0.getD i 0) (sum110 ((upto c).map (fun j => q i j))) c)
  let kap := (upto c).map (fun j => factStat h (kap0.getD j 0) (sum110 ((upto r).map (fun i => q i j))) r)
  let rbar := ap2 fDiv (sum110 rho) (fv (f32Of r))
  let u := s.upd p
  let s := s.setUpd p { u with rows := putStats d seg u.rows rho, cols := putStats d seg u.cols kap
                               rbar := Tbl.set u.rbar (factKey d seg 0) rbar.v }
  let s := engMeter (updFlags s p rbar.f) p (2 * gCount g + 2 * sBytes g)
  storeStats (storeStats s p (gS g) (gBase g) rho) p (gS g + momBytes r) (gBase g + r) kap

/-- Pre-pass of every factored segment of a partition's plan. -/
def prePasses (s : State) (p : Nat) : State :=
  let plan := updPlan s p
  (upto 4).foldl (fun s d =>
    let segs := dieSegs plan d
    (upto segs.length).foldl (fun s i => if gOpt (segs.getD i []) = 4 then prePass s p d i else s) s) s

/-! ### Derived copies (R263) -/

/-- The weight of a parameter of a segment as stored, widened to FP32, read by engine k. -/
def weightOf (s : State) (p k : Nat) (g : List Nat) (e : Nat) : Nat × State :=
  let (_, hi, s) := updRead s p k (gW g + 2 * e) 2
  if gCompact g then (leNat hi * 65536, s)
  else
    let (_, lo, s) := updRead s p k (gL g + 2 * e) 2
    (leNat hi * 65536 + leNat lo, s)

/-- The weights of several parameters. -/
def weightsOf (p k : Nat) (g : List Nat) : State → List Nat → List Nat × State
  | s, [] => ([], s)
  | s, e :: es =>
    let (w, s) := weightOf s p k g e
    let (ws, s) := weightsOf p k g s es
    (w :: ws, s)

/-- Put an element of width w at an index of an area. -/
def putElem (s : State) (p va w idx v : Nat) : State :=
  let b := idx * w / 8
  let n := cdiv (idx * w % 8 + w) 8
  let (_, old, s) := engRead s p (va + b) n
  let o := leNat old
  let sh := idx * w % 8
  let o := o - bits o sh w * 2 ^ sh + v % 2 ^ w * 2 ^ sh
  engWrite s p (va + b) (natLe n o)

/-- Where the tile at tile row R and column C of a matrix with `tc` tile columns lies in a derived copy: the record's
offset and the first row of the tile within it (R189, R263). -/
def derPlace (fmt tc R C : Nat) : Nat × Nat :=
  if fmt = 9 then ((R / 2 * tc + C) * (derRec fmt).1, 128 * (R % 2)) else ((R * tc + C) * (derRec fmt).1, 0)

/-- Where the parameter at row i and column j of a tiled segment lies in a derived copy: the address of its record, and its row
and column there; `back` is the transposed copy (R189, R263). -/
def derAt (g : List Nat) (back : Bool) (i j : Nat) : Nat × Nat × Nat :=
  if back then
    let (o, k) := derPlace (gDfmt g) (gTr g) (j / 128) (i / 128)
    (gDb g + o, k + j % 128, i % 128)
  else
    let (o, k) := derPlace (gDfmt g) (gTc g) (i / 128) (j / 128)
    (gDf g + o, k + i % 128, j % 128)

/-- Write a group of 32 values of column c from row k of a derived record: elements and scale, with the flags of forming them
(R59, R263). -/
def putGroup (s : State) (p va fmt sat k c : Nat) (vals : List Nat) : State × FlagSet :=
  let (x, es, f) := mxStore fmt sat (vals.map (readNum fp32 false)) []
  let s := ((upto 32).zip es).foldl (fun s y => putElem s p va (codeBits fmt) (128 * (k + y.1) + c) y.2) s
  (engWrite s p (va + 16384 + 128 * (k / 32) + c) [BitVec.ofNat 8 x], f)

/-- The parameters whose weights the MX groups that record r of a segment belongs to hold, as rows and columns: two groups
along its row in the transposed copy, else one for each of its columns (R263). -/
def mxGroups (g : List Nat) (r : Nat) (back : Bool) : List (List (Nat × Nat)) :=
  let (i, j0) := tiledPos g (64 * r)
  if back then (upto 2).map (fun b => (upto 32).map (fun t => (i, j0 + 32 * b + t)))
  else (upto 64).map (fun t => (upto 32).map (fun y => (i - i % 32 + y, j0 + t)))

/-- Write what one record gives of a derived copy: `back` for the transposed one; an MX group is formed again with each of its
records, and the last one written raises its flags (R57, R59, R263). -/
def derive (s : State) (p k d seg r : Nat) (back : Bool) : State :=
  let g := (dieSegs (updPlan s p) d).getD seg []
  if isMx (gDfmt g) then
    (mxGroups g r back).foldl (fun s ps =>
      let (i, j) := ps.headD (0, 0)
      let (a, row, col) := derAt g back i j
      let (ws, s) := weightsOf p k g s (ps.map (fun y => tiledIndex g y.1 y.2))
      let (s, f) := putGroup s p a (gDfmt g) (gDsat g) row col ws
      let whole := ps.all (fun y => let o := tiledIndex g y.1 y.2 / 64; o == r || recDone s p d seg o)
      if whole then updFlags s p f else s) s
  else
    let (i, j0) := tiledPos g (64 * r)
    (upto 64).foldl (fun s t =>
      let (a, row, col) := derAt g back i (j0 + t)
      let (w, s) := weightOf s p k g (tiledIndex g i (j0 + t))
      let (x, fx) := readNum fp32 false w
      let (v, f) := convert (gDfmt g) (gDsat g) 0 false x
      updFlags (putElem s p a (codeBits (gDfmt g)) (128 * row + col) v) p (orFlags fx f)) s

/-- The bytes of a derived copy that one record writes: of a group the elements, or the scale (R263, R264). -/
def derTouched (g : List Nat) (r : Nat) (back : Bool) : List (Nat × Nat) :=
  let w := codeBits (gDfmt g)
  let elem (i j : Nat) : Nat × Nat :=
    let (a, row, col) := derAt g back i j
    (a + (128 * row + col) * w / 8, cdiv ((128 * row + col) * w % 8 + w) 8)
  if isMx (gDfmt g) then
    (mxGroups g r back).flatMap (fun ps =>
      let (i, j) := ps.headD (0, 0)
      let (a, row, col) := derAt g back i j
      (a + 16384 + 128 * (row / 32) + col, 1) :: ps.map (fun y => elem y.1 y.2))
  else
    let (i, j0) := tiledPos g (64 * r)
    (upto 64).map (fun t => elem i (j0 + t))

/-! ### One record (R256 to R266) -/

/-- A record is lost: an event for each, and a place in the engine's lost list while it has one (R266, R267). DETAIL of the event of a
record that finds the list full is a free value. -/
def loseRec (s : State) (p k seg r : Nat) (poison : Bool) : State :=
  let e := updEng s p k
  let x := s.updReg k
  let x := if poison then x else { x with crcErr := inc32 x.crcErr }
  let s := s.setUpdReg k x
  if e.lost.contains (seg, r) || e.lostMore.contains (seg, r) then s
  else
    let n := e.lost.length
    let u := s.upd p
    let s := s.setUpd p { u with lostN := u.lostN + 1, ovf := u.ovf || decide (64 ≤ n) }
    if 64 ≤ n then
      let (v, s) := drawFree (setUpdEng s p k { updEng s p k with lostMore := (seg, r) :: e.lostMore, ovf := true })
      report s (16 + k) (evtOf 0x011 1 k (updKey s p) ((Config.freeWord v).toNat % 64))
    else
      let es := (dieEngines s.var (k / 3)).length
      let x := { x with lost := Tbl.set x.lost p (n + 1), lostRec := Tbl.set x.lostRec (64 * p + n) (seg % 2 ^ 14 * 2 ^ 18 + r / max 1 es % 2 ^ 18) }
      report (setUpdEng (s.setUpdReg k x) p k { updEng s p k with lost := e.lost ++ [(seg, r)] }) (16 + k) (evtOf 0x011 1 k (updKey s p) n)

/-- The engines whose records a unit holds (R244, R247). -/
def unitEngines (s : State) (p unit : Nat) : List Nat :=
  let plan := updPlan s p
  ((unitRecs plan unit).map (fun x => recEngine s.var (unitDie plan unit) x.2)).eraseDups

/-- One delta is sent to one holder and awaited by the engines of its unit (R265, R329). -/
def sendDelta (s : State) (p k unit rank group σ slot : Nat) (payload : Bytes) : State :=
  let u := s.upd p
  let s := (unitEngines s p unit).foldl (fun s j =>
    let e := updEng s p j
    setUpdEng s p j { e with unacked := (group, σ, rank) :: e.unacked }) s
  let x := s.updReg k
  let s := s.setUpdReg k { x with delta := satAdd 64 x.delta payload.length }
  sendProt s p { kind := 1, step := u.blk.step, idx := σ, rank := rank, pass := u.pass, slot := slot, group := group, data := payload }

/-- Whether the P-holder or Q-holder of a unit that a REBUILD rolls forward has its delta already, by the map bit it returned
(R338 action 4). -/
def holderHas (s : State) (p unit : Nat) (q : Bool) : Bool :=
  match (s.prot p).rb with
  | some r => r.maps.any (fun m => m.1 == unit && bit m.2 (b2n q))
  | none => false

/-- Every record of a unit has been written or found lost: its DELTA goes to both holders (R329). -/
def unitDone (s : State) (p k unit : Nat) (payload : Bytes) : State :=
  match protTab s p with
  | none => s
  | some pt =>
    match shardOf pt unit with
    | none => s
    | some i =>
      let x := pt.shards.getD i {}
      let (σ, slot) := stripeOf x.pos (unit - x.firstUnit)
      let put (q : Bool) (s : State) : State :=
        if holderHas s p unit q then s else sendDelta s p k unit (x.members.getD (if q then posQ σ else posP σ) 0) x.group σ slot payload
      put true (put false s)

/-- Put XOR bytes at an offset of a unit's payload. -/
def overlay (old : Bytes) (off : Nat) (bs : Bytes) : Bytes :=
  let o := padTo (max old.length (off + bs.length)) old
  o.take off ++ bs ++ o.drop (off + bs.length)

/-- Account a record of a unit that has been written, with its XOR bytes, or found lost (none) (R265, R329). -/
def unitStep (s : State) (p k d seg r : Nat) (xored : Option Bytes) : State :=
  let plan := updPlan s p
  let u := s.upd p
  let unit := unitOfRec plan d seg r
  let (n, bs) := Tbl.get (0, []) u.deltas unit
  let bs := match xored with
    | some b => overlay bs (unitOffset plan d seg r) b
    | none => bs
  let whole := if u.resume then (unitRecs plan unit).all (fun x => x == (seg, r) || !toRedo s p d x)
    else decide ((unitRecs plan unit).length ≤ n + 1)
  if whole then
    let s := s.setUpd p { u with deltas := Tbl.del u.deltas unit }
    if bs.isEmpty then s else unitDone s p k unit bs
  else s.setUpd p { u with deltas := Tbl.set u.deltas unit (n + 1, bs) }

/-- What a record becomes: its new protected bytes and flags (R256 to R262). -/
def recNew (s : State) (p d seg r : Nat) (old gb : Bytes) : Bytes × FlagSet :=
  let segs := dieSegs (updPlan s p) d
  let g := segs.getD seg []
  let u := s.upd p
  let h := u.blk.sets.getD (gHset g) {}
  let cnt := Tbl.get 1 u.counts (blockKey d (recBlock segs seg r))
  let adam := gOpt g == 1
  let o1 := if gCompact g then 128 else 256
  let o2 := o1 + 64
  let ox := if adam then o2 + 64 else o2
  let at_ (i : Nat) : Nat := (old.getD i 0).toNat
  let mx := at_ ox
  let sx := at_ (ox + 1)
  let w16 (o i : Nat) : Nat := at_ (o + 2 * i) + 256 * at_ (o + 2 * i + 1)
  let seed := (s.job p).seed
  let co : Coord := { step := u.blk.step, mb := 0xFFFFFFFF }
  let el (i : Nat) : Nat := gBase g + 64 * r + i
  let one (i : Nat) : Nat × Nat × Nat × FlagSet :=
    let w0 := w16 0 i * 65536 + (if gCompact g then 0 else w16 128 i)
    let a := ofPair <| average ((gb.getD (2 * i) 0).toNat + 256 * (gb.getD (2 * i + 1) 0).toNat) cnt
    let vh := if gOpt g = 4 then
        let (y, x) := tiledPos g (64 * r + i)
        vhatOf (Tbl.get 0 u.rows (factKey d seg y)) (Tbl.get 0 u.cols (factKey d seg x)) (Tbl.get 0 u.rbar (factKey d seg 0))
      else fv 0
    paramStep (gOpt g) h u.clip w0 a (km8s mx (at_ (o1 + i))) (if adam then km8r sx (at_ (o2 + i)) else .fin false 0 0) vh
  let outs := (upto 64).map one
  let ws := (upto 64).zip (outs.map (fun o => o.1))
  let comp := ws.map (fun x =>
    let (v, fx) := readNum fp32 false x.2
    let (o, f) := convert 1 2 (draw seed 0xFD co (el x.1)) false v
    (o, orFlags fx f))
  let hi := if gCompact g then comp.map Prod.fst else outs.map (fun o => o.1 / 65536)
  let (x1, e1, f1) := km8Block true ((upto 64).map (fun i => draw seed 0xFE co (el i))) (outs.map (fun o => o.2.1))
  let (x2, e2, f2) := km8Block false ((upto 64).map (fun i => draw seed 0xFF co (el i))) (outs.map (fun o => o.2.2.1))
  let bytes := hi.flatMap (natLe 2) ++ (if gCompact g then [] else outs.flatMap (fun o => natLe 2 (o.1 % 65536))) ++
    e1.map (BitVec.ofNat 8) ++ (if adam then e2.map (BitVec.ofNat 8) else []) ++ [BitVec.ofNat 8 x1] ++
    (if adam then [BitVec.ofNat 8 x2] else [])
  let fl := outs.foldl (fun f o => orFlags f o.2.2.2) (orFlags f1 (if adam then f2 else noFlags))
  (bytes, if gCompact g then comp.foldl (fun f o => orFlags f o.2) fl else fl)

/-- Whether the writes of a record touch a page (R264). -/
def recTouches (g : List Nat) (r pg : Nat) : Bool :=
  let on (x : Nat × Nat) : Bool := (pagesOf x.1 x.2).contains pg
  on (gW g + 128 * r, 128) || (gDfwd g && (derTouched g r false).any on) || (gDbwd g && (derTouched g r true).any on)

/-- Whether some record that is still to be written touches a page. -/
def pageLeft (s : State) (p pg : Nat) : Bool :=
  let plan := updPlan s p
  (upto 4).any (fun d =>
    let segs := dieSegs plan d
    (upto segs.length).any (fun i =>
      let g := segs.getD i []
      (upto (gRecs g)).any (fun r => (!recDone s p d i r || recLost s p d i r) && recTouches g r pg)))

/-- Move an engine past its record. -/
def advance (s : State) (p k seg r : Nat) (ok : Bool) : State :=
  let u := s.upd p
  let e := updEng s p k
  if u.resume then
    if ok then setUpdEng s p k { e with lost := e.lost.eraseIdx e.nxt } else setUpdEng s p k { e with nxt := e.nxt + 1 }
  else setUpdEng s p k { e with seg := seg, nxt := r + (engPlace s.var k).2.2 }

/-- Process one record of an engine (R256, R264 to R266). -/
def sweepRec (s : State) (p k seg r : Nat) : State :=
  let (d, _, _) := engPlace s.var k
  let segs := dieSegs (updPlan s p) d
  let g := segs.getD seg []
  let areas := protAreas g r
  let (b1, old, s) := updReads p k s areas
  let (b2, chk, s) := updRead s p k (gC g + 4 * r) 4
  let (b3, gb, s) := updRead s p k (gG g + 128 * r) 128
  let s := engMeter s p (recLen g + 132)
  let bad := b1 || b2 || b3
  let lost := bad || leNat chk != crc32c old
  let s :=
    if lost then unitStep (loseRec s p k seg r bad) p k d seg r none
    else
      let (new, fl) := recNew s p d seg r old gb
      let s := engWrite (engWrites s p areas new) p (gC g + 4 * r) (natLe 4 (crc32c new))
      let s := if gDfwd g then derive s p k d seg r false else s
      let s := if gDbwd g then derive s p k d seg r true else s
      let x := s.updReg k
      let s := engMeter (s.setUpdReg k { x with recs := satAdd 64 x.recs 1 }) p (recLen g + 4 + derMoved g)
      unitStep (updFlags s p fl) p k d seg r (some (xorBytes old new))
  let s := advance s p k seg r (!lost)
  let s :=
    if (upto (min 512 (gRecs g - r / 512 * 512))).all (fun i => recDone s p d seg (r / 512 * 512 + i)) then
      blockRead s p d (recBlock segs seg r) else s
  let u := s.upd p
  s.setUpd p { u with pend := u.pend.filter (fun pg => !recTouches g r pg || pageLeft s p pg) }

/-! ### The end of a sweep -/

/-- Whether the module's entry of a step lantern has an arm generation under which it has not signalled (R248); a number with no
entry holds nothing back (R210). -/
def freshGen (s : State) (p num : Nat) : Bool :=
  match findLnt s p num with
  | some n => Tbl.find (s.upd p).gen num != some (s.lnt n).armGen
  | none => true

/-- Signal a step lantern with V = 1 for the owning context (R210, R249, R265). -/
def stepSignal (s : State) (p num : Nat) : State :=
  let u := s.upd p
  let s := match findLnt s p num with
    | none => s
    | some n => s.setUpd p { u with gen := Tbl.set u.gen num (s.lnt n).armGen }
  match u.cmd with
  | some (k, id) => lntSignal s k id 0 num 1
  | none => s

/-- Whether the running update may signal the commit lantern: not in a teardown or a JOB_HALT (R334, R356). -/
def maySignal (s : State) (p : Nat) : Bool :=
  !(s.upd p).halt && (s.ctx (updKey s p)).state != .tearingDown

/-- An engine signals the commit lantern once its sweep has ended with no lost record and every delta acknowledged
(R265, R266). -/
def engSignal (s : State) (p k : Nat) : State :=
  let u := s.upd p
  let e := updEng s p k
  let num := u.blk.commitLnt + u.blk.step % 2
  if e.ended && !e.signaled && e.lost.isEmpty && !e.ovf && e.unacked.isEmpty &&
      (u.deltas.all (fun x => !(unitEngines s p x.1).contains k)) && maySignal s p && u.cmd.isSome &&
      (freshGen s p num || (presentEngines s.var).any (fun j => (updEng s p j).signaled)) then
    stepSignal (setUpdEng s p k { e with signaled := true }) p num
  else s

/-- The UPDATE or UPDATE_RESUME of a partition completes before its commit (R253, R267). -/
def endUpd (s : State) (p : Nat) (x : Compl) : State :=
  let u := s.upd p
  match u.cmd with
  | none => s
  | some (k, id) =>
    let v := { clearAcc u with cmd := none, phase := .idle, xlat := [], ask := .waiting, halt := false }
    let s := complete ((s.setUpd p v).setSched p { s.sched p with eng := none }) k id x
    if u.halt then finishHalt s p else s

/-- Whether every engine has ended its sweep and its acknowledgements. -/
def sweepOver (s : State) (p : Nat) : Bool :=
  (presentEngines s.var).all (fun k => (updEng s p k).ended && (updEng s p k).unacked.isEmpty)

/-- After a record or an acknowledgement: evidence, signals, and the end that lost records, a teardown or a JOB_HALT
give the command (R265 to R267, R334, R347, R356). -/
def settleUpd (s : State) (p : Nat) : State :=
  let u := s.upd p
  match u.cmd with
  | none => s
  | some (k, _) =>
    if u.phase != .sweep && u.phase != .acks then s
    else
      let es := presentEngines s.var
      let allEnded := es.all (fun j => (updEng s p j).ended)
      let s := if allEnded then s.setProt p { s.prot p with evSwept := true } else s
      let s := if allEnded && u.phase == .sweep then s.setUpd p { s.upd p with phase := .acks } else s
      let s := es.foldl (fun s j => engSignal s p j) s
      if !sweepOver s p then s
      else
        match (s.ctx k).td with
        | some td => if (s.ctx k).state == .tearingDown then endUpd s p { status := td.status } else s
        | none =>
          if u.halt then endUpd s p { status := stJobHalted }
          else if es.any (fun j => !(updEng s p j).lost.isEmpty || (updEng s p j).ovf) then
            endUpd s p { status := stStateLost, result := (s.upd p).lostN }
          else s

/-- Set the engines at the start of a sweep. -/
def armEngines (s : State) (p : Nat) : State :=
  (presentEngines s.var).foldl (fun s k =>
    let e := updEng s p k
    let u := s.upd p
    if u.resume then setUpdEng s p k { e with nxt := 0, ended := e.lost.isEmpty && e.ended }
    else setUpdEng s p k { e with seg := 0, nxt := (engPlace s.var k).2.1, ended := false, lost := [], lostMore := [], ovf := false, unacked := [], signaled := false }) s

/-- One step of engine k: its next record, or the end of its sweep. -/
def engStep (s : State) (p k : Nat) : State :=
  match nextRec s p k with
  | some (seg, r) => sweepRec s p k seg r
  | none => setUpdEng s p k { updEng s p k with ended := true }

/-- A cycle in which engine k moves a record (R429). -/
def engBusy (s : State) (k : Nat) : State :=
  { s with blv := { s.blv with upBusy := Tbl.upd 0 s.blv.upBusy k (fun n => satAdd 64 n 1) } }

/-- Run every engine's sweep to its end (R335, R338): `fuel` bounds the records of one engine. -/
def runSweep : Nat → Nat → State → State
  | 0, p, s => (presentEngines s.var).foldl (fun s k => setUpdEng s p k { updEng s p k with ended := true }) s
  | n + 1, p, s => runSweep n p ((presentEngines s.var).foldl (fun s k => engStep s p k) s)

end Sys2Proof.Machine
end

