-- ==== Sys2Proof/Machine/Update.lean ====
section
/-! DEFINITION. Sys2Proof/Machine/Update.lean: UPDATE and UPDATE_RESUME, landing blocks, the norm's scalar collective, the
sweep, and RNG_CHECK (R248 to R271, R403). -/
namespace Sys2Proof.Machine

/-! ### The scalar collective (R254, R314) -/

/-- A scalar packet: `pidx` 0 towards the root, 1 away from it; `aux` the FP32 value. -/
def scalarMsg (chan down v : Nat) : Packet := { ty := 5, chan := chan, pidx := down, aux := v % two32 }

/-- The combination of a scalar collective: maximum for type 0x6, else the sum (R312). -/
def scalarOp (s : State) (p chan x y : Nat) : Nat × FlagSet :=
  if colType (collOf s (updKey s p) chan) = 6 then minmaxBits fp32 false true false x y else addBits fp32 false false x y

/-- The scalar work of a channel (R254, R312). -/
def scalarOf (s : State) (p chan : Nat) : ScalarWork := Tbl.get {} (s.job p).scalar chan
/-- Replace the scalar work of a channel. -/
def setScalarWork (s : State) (p chan : Nat) (w : ScalarWork) : State :=
  let j := s.job p
  s.setJob p { j with scalar := Tbl.set j.scalar chan w }

/-- S has arrived: it is kept and the hub signals the norm lantern (R249 actions 4 and 5, R248). -/
def normSignal (s : State) (p : Nat) : State :=
  let u := s.upd p
  let num := u.blk.normLnt + u.blk.step % 2
  if u.phase == .norm && !u.normSent && freshGen s p num && maySignal s p then
    stepSignal (s.setUpd p { u with normSent := true }) p num
  else s

/-- The collective number of the norm's scalar sum: the first of TYPE 0x5 in the image's table, or the number past its end where it has
none (R254; DESIGN CHOICE, log 72). -/
def normChan (s : State) (p : Nat) : Nat :=
  match (s.ctx (updKey s p)).image with
  | some img => img.colls.findIdx (fun e => colType e == 5)
  | none => 0

/-- The result of a scalar collective is delivered to the module and passed down the job tree (R312, R314). -/
def scalarResult (s : State) (p chan v : Nat) : State :=
  let j := s.job p
  let s := s.setJob p { j with scalar := Tbl.del j.scalar chan, results := Tbl.set j.results chan v }
  let own := if (jobParent j).isNone then (s.upd p).cmd.map Prod.fst else none
  let s := (jobKids j).foldl (fun s r => sendPaid s p own r (scalarMsg chan 1 v)) s
  let u := s.upd p
  if u.cmd.isSome && u.phase == .norm && !u.normSent && chan == normChan s p then normSignal (s.setUpd p { u with sSum := v, hideNorm := false }) p
  else s

/-- Send the module's scalar partial once its own value and every child's have arrived, in the order of R314; its flags go to
the UPDATE that it serves (R53). -/
def scalarTry (s : State) (p chan : Nat) : State :=
  let j := s.job p
  let w := scalarOf s p chan
  let kids := jobKids j
  match w.own with
  | none => s
  | some v =>
    if w.sent || !kids.all (fun r => w.kids.any (fun x => x.1 == r)) then s
    else
      let (t, fl) := kids.foldl (fun a r =>
        let (x, f) := scalarOp s p chan a.1 (Tbl.get 0 w.kids r)
        (x, orFlags a.2 f)) (v, noFlags)
      let s := updFlags s p fl
      match jobParent j with
      | some up => sendPaid (setScalarWork s p chan { w with sent := true }) p ((s.upd p).cmd.map Prod.fst) up (scalarMsg chan 0 t)
      | none => scalarResult s p chan t

/-- The hub's value on each scalar collective of the job other than the norm's: with the partial it contributes one, of which no rule says
what it is (R312; a free value, DESIGN CHOICE, log 76). -/
def otherScalars (s : State) (p norm : Nat) : State :=
  match (s.ctx (updKey s p)).image with
  | none => s
  | some img =>
    ((upto img.colls.length).filter (fun c => c != norm && (colType (img.colls.getD c []) == 5 || colType (img.colls.getD c []) == 6))).foldl
      (fun s c =>
        let (n, s) := drawFree s
        scalarTry (setScalarWork s p c { scalarOf s p c with own := some (Config.freeWord n).toNat }) p c) s

/-! ### The start of an UPDATE (R248, R249) -/

/-- The first area that has no writable translation, by its page, or none (R249 action 1). -/
def unmappedPage (s : State) (p : Nat) (plan : List (List SegWords)) : Option Nat :=
  (plan.flatMap (fun segs => segs.flatMap gAreas)).findSome? (fun a =>
    (pagesOf a.1 a.2.1).find? (fun pg =>
      match walkPage s p false (pg * mib2) with
      | some t => a.2.2 && !t.w
      | none => true))

/-- The translations of every page a plan names (R249 action 1). -/
def heldPages (s : State) (p : Nat) (plan : List (List SegWords)) : Tbl Nat :=
  (plan.flatMap (fun segs => segs.flatMap (fun g => (gAreas g).flatMap (fun a => pagesOf a.1 a.2.1)))).foldl (fun t pg =>
    match walkPage s p false (pg * mib2) with
    | some e => Tbl.set t pg (spaOf s p e (pg * mib2))
    | none => t) []

/-- Action 3 of R249: once every block has landed and every mirror is acknowledged, counts are checked and the module's
partial joins the collective (R251 to R254, R330). -/
def landCheck (s : State) (p : Nat) : State :=
  let u := s.upd p
  if u.cmd.isNone || u.phase != .landing then s
  else
    let plan := updPlan s p
    if u.counts.length < planBlocks plan || (s.prot p).tx.any (fun x => x.kind == 3) then s
    else
      let badc := (u.counts.map Prod.snd).filter (fun c => decide (c < u.blk.minCount) || decide (u.blk.expect < c))
      let short := (u.counts.filter (fun x => decide (u.blk.minCount ≤ x.2) && decide (x.2 < u.blk.expect))).length
      let u := { u with short := short }
      match badc with
      | c :: cs => endUpd (s.setUpd p u) p { status := stContrib, result := cs.foldl min c }
      | [] =>
        let acc := (u.eng.map (fun x => x.2.acc)).foldl (· + ·) 0
        let (part, fl) := partialOf acc (u.eng.any (fun x => x.2.nonfin))
        let s := updFlags (s.setUpd p { u with phase := .norm }) p fl
        let chan := normChan s p
        otherScalars (scalarTry (setScalarWork s p chan { scalarOf s p chan with own := some part }) p chan) p chan

/-- The stall and busy counters of the update engines restart when a command of a partition issues, which UPD_STAT.PART names from
then on (R273, R430). -/
def clearUp (s : State) (p : Nat) : State :=
  (presentEngines s.var).foldl (fun s e => s.setUpdReg e { s.updReg e with part := p })
    { s with blv := { s.blv with upStall := [], upBusy := [] } }

/-- The update engines have walked n pages, 16 walks of 80 ns and 3 cycles at once: translation-miss at their dies' clocks (R221, R249
action 1, R429). -/
def walkTime (s : State) (n : Nat) : State :=
  (presentEngines s.var).foldl (fun s k =>
    let c := cdiv n 16 * (80 * Tbl.get 800 s.alm.clocks (k / 3) / 1000 + 3)
    { s with blv := { s.blv with upStall := Tbl.upd 0 s.blv.upStall (8 * k + 4) (fun v => satAdd 64 v c) } }) s

/-- Begin an UPDATE or UPDATE_RESUME with its parameter block (R248, R249, R266). One refused here leaves the accumulators as they are
(DESIGN CHOICE, log 83). -/
def beginUpd (s : State) (k : Nat) (m : Cmd) (bs : Bytes) (resume : Bool) : State :=
  let p := keyPart k
  match (s.ctx k).image with
  | none => refuseCmd s k m.id stMalformed 0
  | some img =>
    if bedGone s k then refuseCmd s k m.id stUnitAbsent 0
    else if !hostMapped s p m.desc.arg0 576 then refuseCmd s k m.id stParamUnmapped 0
    else
      match badBlock bs with
      | some o => refuseCmd s k m.id stImageRejected o
      | none =>
        match unmappedPage s p img.plan with
        | some pg => refuseCmd s k m.id stUpdUnmapped (pg % 2 ^ 19)
        | none =>
          let s := clearUp ((setPhase s k m.id .issued).setSched p { s.sched p with eng := some (k, m.id) }) p
          let s := walkTime s (heldPages s p img.plan).length
          let u := s.upd p
          let s := s.setProt p { s.prot p with evStep := (parseBlock bs).step }
          let s := (presentEngines s.var).foldl (fun s e =>
            let x := s.updReg e
            s.setUpdReg e (if resume then x else { x with lost := Tbl.del x.lost p, lostRec := x.lostRec.filter (fun y => y.1 / 64 != p) })) s
          let u := { u with cmd := some (k, m.id), resume := resume, blk := parseBlock bs, xlat := heldPages s p img.plan
                            waited := 0, halt := false, deltas := [], ask := .waiting, hidePhase := .idle }
          if resume then
            s.setUpd p { u with phase := .norm, normSeen := true, normSent := true, ask := .asking, pass := u.pass % 15 + 1 }
          else
            let s := s.setUpd p { u with phase := .landing, normSeen := false, normSent := false, lostN := 0, ovf := false
                                         short := 0, pass := 0, readBlk := [], early := noFlags }
            landCheck (updFlags s p u.early) p

/-- UPDATE of context `k`: `block` is what the read of the step parameter block returns (R248, R249). -/
def execUpdate (k : Nat) (block : Bytes) (s : State) : Res :=
  match issuable s k opUpdate with
  | none => .next s
  | some m =>
    if (s.sched (keyPart k)).eng.isSome || !engTurn s (keyPart k) m then .next s else .next (beginUpd s k m block false)

/-- UPDATE_RESUME of context `k` (R266). -/
def execUpdateResume (k : Nat) (block : Bytes) (s : State) : Res :=
  match issuable s k opUpdateResume with
  | none => .next s
  | some m =>
    if (s.sched (keyPart k)).eng.isSome || !engTurn s (keyPart k) m then .next s else .next (beginUpd s k m block true)

/-! ### Landing (R250) -/

/-- A landing block arrives: written and averaged, kept for the next step, or held until the sweep has read it (R250); `src` is
the collective and block that it completes, if one does. -/
def landBlock (s : State) (p d lb cnt : Nat) (bs : Bytes) (src : Option (Nat × Nat)) : State :=
  let u := s.upd p
  let key := blockKey d lb
  if (blockAt (dieSegs (updPlan s p) d) 0 lb).isNone then s
  else if (Tbl.find u.counts key).isNone then landCheck (landWrite s p d lb cnt bs false src) p
  else if u.readBlk.contains key && (Tbl.find u.next key).isNone then landWrite s p d lb cnt bs true src
  else s.setUpd p { u with held := u.held ++ [{ key := key, cnt := cnt, data := bs, src := src }] }

/-- LANDING_BLOCK: block `lb` of die `d` arrives with its contributor count (R250). -/
def execLandingBlock (p d lb count : Nat) (data : Bytes) (s : State) : Res :=
  .next (landBlock s p d lb (count % 65536) (padTo 65536 data) none)

/-- LAND_TIMEOUT: the time of the parameter block passes before every block has landed (R249). -/
def execLandTimeout (p : Nat) (s : State) : Res :=
  let u := s.upd p
  match u.cmd with
  | none => .next s
  | some (k, id) =>
    if u.phase != .landing || u.waited < u.blk.timeout * 1000000 then .next s
    else
      let missing := planBlocks (updPlan s p) - u.counts.length
      let s := s.setUpd p { clearAcc u with cmd := none, phase := .idle, xlat := [], ask := .waiting }
      .next (complete (s.setSched p { s.sched p with eng := none }) k id { status := stGradIncomplete, result := missing })

/-! ### The sweep (R249, R256, R403) -/

/-- SWEEP_START: the sweep of partition `p` starts once its credit has been granted, after the factored pre-pass (R257,
R403, R408). -/
def execSweepStart (p : Nat) (s : State) : Res :=
  let u := s.upd p
  if u.cmd.isNone || u.phase != .norm then .next s
  else if !u.normSeen then .next (normSignal s p)
  else if u.ask != .granted then .next s
  else
    let s := if u.resume then s else prePasses s p
    let s := armEngines (s.setUpd p { s.upd p with phase := .sweep, ask := .issued }) p
    .next s

/-- SWEEP_RECORD: engine `k` processes its next record of partition `p`, or ends its sweep; an engine that has ended
signals the commit lantern when it may (R256, R264 to R266). -/
def execSweepRecord (p k : Nat) (s : State) : Res :=
  let u := s.upd p
  if u.cmd.isNone || !bit (stackMask s.var) k || (u.phase != .sweep && u.phase != .acks) then .next s
  else if (updEng s p k).ended then .next (settleUpd s p)
  else
    let s := engStep s p k
    .next (settleUpd (engBusy s k) p)

/-! ### RNG_CHECK (R271) -/

/-- The derived position of a stream. -/
def derivedPos (stream n b : Nat) : Nat × Nat × Nat × Nat := if 0xFC ≤ stream then (n, 0xFFFFFFFF, 0, 0) else (n, b, 0, 0)

/-- The 14-bit signed element difference of an event, saturated (R423). -/
def satDiff (e : Nat) : Nat := field 14 (max (-8192) (min 8191 (e : Int)))

/-- RNG_CHECK of context `k` on the stream records its list holds (R271). -/
def execRngCheck (k : Nat) (recs : List RngRec) (s : State) : Res :=
  match issuable s k opRngCheck with
  | none => .next s
  | some m =>
    let p := keyPart k
    let cnt := m.desc.arg2 % 512
    let n := m.desc.arg1 % two32
    let b := m.desc.arg1 / two32 % two32
    if 256 < cnt then .next (refuseCmd s k m.id stMalformed 0)
    else if !hostMapped s p m.desc.arg0 (32 * cnt) then .next (refuseCmd s k m.id stParamUnmapped 0)
    else
      let bad := (recs.take cnt).filter (fun x => (x.2.1, x.2.2.1, x.2.2.2.1, x.2.2.2.2) != derivedPos (x.1 % 256) n b)
      let u := s.upd p
      let s := s.setUpd p { u with rngDisc := satAdd 32 u.rngDisc bad.length }
      let s := bad.foldl (fun s x => report s 55 (evtOf 0x012 0 0xFF k (x.1 % 256 * 2 ^ 14 + satDiff x.2.2.2.2))) s
      .next (complete s k m.id { status := stOk, result := bad.length })

end Sys2Proof.Machine
end

