-- ==== Sys2Proof/Machine/Ports.lean ====
section
/-! DEFINITION. Sys2Proof/Machine/Ports.lean: Trellis ports: training, going down, wire units, forwarding and lost packets
(R291 to R300, R319, R323). -/
namespace Sys2Proof.Machine

/-- Packets are dropped on a port's link: counted, reported, and the jobs that had a packet among them alerted (R323). -/
def linkDrop (s : State) (n packets : Nat) (jobs : List Nat) : State :=
  if packets = 0 then s
  else
    let s := { s with trl := { s.trl with linkLoss := satAdd 32 s.trl.linkLoss packets } }
    let s := report s (32 + n) (evtNone 0x024 1 n (min packets (2 ^ 22 - 1)))
    jobs.foldl (fun s t => match jobPart s t with
      | some p => jobAlert s p
      | none => s) s

/-- Whether a packet that waits has sent some of its units. -/
def begun (o : Outgoing) : Bool := decide (o.units < if o.data then 16 else 1)

/-- Packets of which a port that goes down holds a unit, unacknowledged or, of a data packet, not yet sent: a control packet is
one unit, a data packet sixteen (R301). -/
def packetsIn (x : Port) : Nat :=
  let data := (x.retry.filter (fun u => decide (2 ≤ u.vc))).length + ((x.sendq.filter begun).map Outgoing.units).foldl (· + ·) 0
  (x.retry.filter (fun u => decide (u.vc < 2))).length + cdiv data 16

/-- The link state of a port that has just trained: nothing outstanding, all credit (R299, R300). -/
def freshLink (x : Port) : Port :=
  { x with retry := [], sent := 0, acked := 1023, expect := 0, nakSent := false, freed := [], cred := [], out := [], fails := 0 }

/-- A port goes DOWN and drops its unacknowledged units and the rest of their packet (R292, R323); packets of which it has sent
nothing leave by the members of their direction that are still up, or on another way (R295, R297). -/
def portDown (s : State) (n : Nat) (jobs : List Nat) : State :=
  let x := s.tport n
  let s := linkDrop (s.setTport n { freshLink x with state := 2, lanes := 0, sendq := [] }) n (packetsIn x) jobs
  (x.sendq.filter (fun o => !begun o)).foldl launchOut s

/-- The position that a port's direction leads to (R293). -/
def expectedPeer (t : Trellis) (dir : Nat) : Nat :=
  let d := if dir < 6 then dir else dir - 6
  stepPos t t.pos (d / 2) (d % 2 == 1) (if dir < 6 then 1 else 2)

/-- The state a set of good lanes gives (R292). Four good lanes or more that fill neither half leave the port DOWN (DESIGN CHOICE, log
85). -/
def laneState (lanes : Nat) : Nat :=
  if lanes % 256 = 255 then 4 else if lanes % 16 = 15 || lanes / 16 % 16 = 15 then 5 else 2

/-- A port trains: `good` are the good lanes, none without a cable (R458, R459), `peer` the position the neighbour gives
(R292). -/
def trainPort (s : State) (n good peer : Nat) : State :=
  let lanes := if s.pins.cables.contains (n / 4) then good else 0
  let (dir, member) := dirOfPort s n
  let x := s.tport n
  let y := { freshLink x with lanes := lanes % 256, dir := dir, member := member, peer := peer % 1024 }
  if laneState lanes = 2 then s.setTport n { y with state := 2 }
  else if peer % 1024 ≠ expectedPeer s.trl dir then
    report (s.setTport n { y with state := 2 }) (32 + n) (evtNone 0x020 2 n (peer % 1024))
  else s.setTport n (drainPort y.sendq { y with state := laneState lanes })

/-- Whether a port is present, assigned to a direction, enabled, and Daybreak has ended; no sender goes on after a
FATAL event (R292, R293, R319, R422). -/
def mayTrain (s : State) (n : Nat) : Bool :=
  bit (trlMask s.var) n && decide (n < 16) && s.boot.done && !s.blv.fatal && (dirOfPort s n).1 != 15 && !(s.tport n).disable

/-- An UP port finds its good lanes and its neighbour anew and keeps what it has outstanding: it runs on as UP or UP_HALF, or goes DOWN
(R292, R321, R323; DESIGN CHOICE, log 85). -/
def retrainUp (s : State) (n good peer : Nat) (jobs : List Nat) : State :=
  let lanes := if s.pins.cables.contains (n / 4) then good else 0
  if laneState lanes = 2 then report (portDown s n jobs) (32 + n) (evtNone 0x021 2 n 2)
  else if peer % 1024 ≠ expectedPeer s.trl (dirOfPort s n).1 then report (portDown s n jobs) (32 + n) (evtNone 0x020 2 n (peer % 1024))
  else s.setTport n { s.tport n with lanes := lanes % 256, peer := peer % 1024, state := laneState lanes }

/-- Whether an UP port trained anew would stay UP or UP_HALF. -/
def staysUp (s : State) (n good peer : Nat) : Bool :=
  laneState (if s.pins.cables.contains (n / 4) then good else 0) != 2 && peer % 1024 == expectedPeer s.trl (dirOfPort s n).1

/-- PORT_TRAIN: after Daybreak, or every 10 ms while DOWN; on an UP port it gives the lanes that have become good or bad, with which it
runs on (R292). -/
def execPortTrain (n lanes peer : Nat) (s : State) : Res :=
  if !mayTrain s n then .next s
  else if !portUp (s.tport n) then .next (trainPort s n lanes peer)
  else if staysUp s n lanes peer then .next (retrainUp s n lanes peer [])
  else .next s

/-- RETRAIN written by a management function: the port trains at once (R319). Units unacknowledged are dropped if it goes DOWN (R323). -/
def execRetrain (fn : Fn) (n lanes peer : Nat) (jobs : List Nat) (s : State) : Res :=
  match fn with
  | .vf _ _ => .next s
  | .mgmt _ =>
    if !mayTrain s n then .next s
    else if portUp (s.tport n) then .next (retrainUp s n lanes peer jobs) else .next (trainPort s n lanes peer)

/-- DISABLE written by a management function: 1 holds the port DOWN, 0 lets it train again (R319). -/
def execDisable (fn : Fn) (n : Nat) (value : Bool) (jobs : List Nat) (s : State) : Res :=
  match fn with
  | .vf _ _ => .next s
  | .mgmt _ =>
    if !bit (trlMask s.var) n || 16 ≤ n then .next s
    else
      let s := s.setTport n { s.tport n with disable := value }
      if value && portUp (s.tport n) then .next (portDown s n jobs) else .next s

/-- PORT_DOWN: `cause` 0 is 16 successive CRC failures of one unit, 1 no acknowledgement for 50 µs with units outstanding,
2 fewer than four good lanes (R292); `jobs` are the job tags with a packet among the dropped units (R323). -/
def execPortDown (n cause : Nat) (jobs : List Nat) (s : State) : Res :=
  let x := s.tport n
  let holds := if cause = 0 then decide (16 ≤ x.fails) else if cause = 1 then !x.retry.isEmpty else true
  if !portUp x || !holds || 3 ≤ cause then .next s
  else .next (report (portDown s n jobs) (32 + n) (evtNone 0x021 2 n cause))

/-! ### Wire units (R298 to R300) -/

/-- Retry-buffer units after an acknowledgement: everything up to and with SEQ `ack` goes (R299). -/
def ackUnits (l : List WireUnit) (ack : Nat) : List WireUnit :=
  if l.any (fun u => u.seq == ack) then (l.dropWhile (fun u => u.seq != ack)).drop 1 else l

/-- Credits, acknowledgement and NAK of a good unit; the units that a NAK asks for are sent again (R298 to R300, R429). -/
def linkWord (x : Port) (u : WireUnit) : Port :=
  let known := Tbl.get 0 x.cred u.crVc
  let r := ackUnits x.retry (u.ack % 1024)
  { x with
    cred := Tbl.set x.cred u.crVc (known + (u.credits % 64 + 64 - known % 64) % 64)
    retry := r
    acked := if r.length < x.retry.length then u.ack % 1024 else x.acked
    retryN := if u.nak then satAdd 32 x.retryN r.length else x.retryN
    busyPs := if u.nak then x.busyPs + r.length * unitPs x else x.busyPs }

/-- A numbered unit: accepted in sequence, else discarded with a NAK on the first discard (R299). -/
def takeUnit (x : Port) (u : WireUnit) : Port :=
  if u.idle then x
  else if u.seq % 1024 = x.expect then
    { x with expect := (x.expect + 1) % 1024, nakSent := false, fails := 0, rxu := satAdd 64 x.rxu 1
             freed := Tbl.upd 0 x.freed u.vc (· + 1) }
  else { x with nakSent := true }

/-- WIRE_UNIT: a unit arrives on a port; transmissions of the expected unit that fail their CRC are counted (R292, R298 to R300). -/
def execWireUnit (n : Nat) (u : WireUnit) (s : State) : Res :=
  let x := s.tport n
  if !portUp x || s.blv.fatal then .next s
  else if !u.crcOk then
    .next (s.setTport n { x with crcErr := inc32 x.crcErr, nakSent := true
                                 fails := if !u.idle && u.seq % 1024 == x.expect then x.fails + 1 else x.fails })
  else
    let y := takeUnit (linkWord x u) u
    .next (s.setTport n (drainPort y.sendq y))

/-! ### Packets of other modules (R294, R295, R323) -/

/-- The direction in which a packet that arrives on a port travels. -/
def travelDir (dir : Nat) : Nat := if dir < 6 then dir ^^^ 1 else 6 + ((dir - 6) ^^^ 1)

/-- PACKET_FORWARD: a packet for another module arrives on port `n` and is forwarded, unless this module is skipped
(R294, R295). -/
def execPacketForward (n : Nat) (k : Packet) (s : State) : Res :=
  let x := s.tport n
  if !portUp x || s.blv.fatal || k.dest == s.trl.pos || s.trl.skip.contains s.trl.pos then .next s
  else .next (launch s (travelDir (dirOfPort s n).1) k)

/-- PACKET_STALL_TIMEOUT: a packet of job `job` whose units stopped arriving on port `n` for 10 µs is dropped (R323). -/
def execPacketStallTimeout (n job : Nat) (s : State) : Res :=
  if bit (trlMask s.var) n && n < 16 then .next (linkDrop s n 1 [job]) else .next s

end Sys2Proof.Machine
end

