-- ==== Sys2Proof/Machine/Collect.lean ====
section
/-! DEFINITION. Sys2Proof/Machine/Collect.lean: packets at their destination: channels, stage channels, reductions,
all-gathers, scalars, credits and acknowledgements (R284, R302, R305, R311 to R318). -/
namespace Sys2Proof.Machine

/-- The landing block of the update plan at an address, as die and number (R250). -/
def landingAt (s : State) (p va : Nat) : Option (Nat × Nat) :=
  let plan := updPlan s p
  (upto 4).findSome? (fun d =>
    let segs := dieSegs plan d
    (upto segs.length).findSome? (fun i =>
      let g := segs.getD i []
      if gG g ≤ va && va < gG g + 2 * gCount g then some (d, blockBase segs i + (va - gG g) / 65536) else none))

/-- Write a reduced block at its owner with its contributor count: of an all-reduce where every member has it, else in the area of
its owner (R312, R314, R317). -/
def landReduced (s : State) (p chan : Nat) (e : List Nat) (b contrib : Nat) (bs : Bytes) : State :=
  let va := colLand e + (if colType e = 4 then b else b % max 1 (colBpo e)) * 65536
  match landingAt s p va with
  | some (d, lb) => landBlock s p d lb (contrib % 65536) bs (some (chan, b))
  | none => blockVisible (engWrite s p va bs) p chan b bs

/-- A node's partial of a block is complete: it goes to the parent, or lands at the root (R314 to R317). A block whose owner
is absent does not land (R316). -/
def sendPartial (s : State) (p chan : Nat) (e : List Nat) (b : Nat) (kids : List Nat) (contrib : Nat) (vals : List Nat) : State :=
  let w := blockWork s p chan b
  let w' : BlockWork := { extra := w.extra, key := w.key, len := w.acc.length, lastStep := w.step, took := kids, drop := w.drop }
  match blockParent s p e b with
  | some up =>
    let bs := accPack e vals
    sendReduce (setWork s p chan b { w' with kept := some (contrib, bs) }) p w.key chan e b up contrib w.step bs
  | none =>
    let s := setWork s p chan b w'
    if treePos s p e b != some 0 then s
    else
      let (bs, f) := toLanding e vals
      landReduced (ctxFlags s w.key f) p chan e b contrib bs

/-- A node sends its partial once L_EXP local contributions and every present child's partial have been added; the flags of adding
go to the context of the last contributing command (R53, R314). -/
def blockTry (s : State) (p chan b : Nat) : State :=
  let e := collOf s (jobKey s p) chan
  let w := blockWork s p chan b
  let n := w.acc.length
  let kids := blockKidsOf s p e b (w.kids.map KidPart.rank)
  if w.kept.isSome || w.locals < colLexp e || !kids.all (fun r => w.kids.any (fun x => x.rank == r && kidWhole n x)) then s
  else
    let parts := kids.filterMap (fun r => w.kids.find? (fun x => x.rank == r))
    let (vals, fl) := parts.foldl (fun a k =>
      let (v, f) := accSum e a.1 (accVals e (kidBytes n k))
      (v, orFlags a.2 f)) (accVals e w.acc, noFlags)
    let contrib := w.locals + (parts.map KidPart.contrib).foldl (· + ·) 0
    let s := if parts.isEmpty then s else sliceAdds s p e
    sendPartial (ctxFlags s w.key fl) p chan e b kids contrib vals

/-! ### Local contributions (R315) -/

/-- Count a contribution, or a resent partial, that is dropped (R315, R316). -/
def dupDrop (s : State) (p : Nat) : State :=
  let j := s.job p
  s.setJob p { j with dupDrop := inc32 j.dupDrop }

/-- Bytes that a local contribution brings at an offset of its block: those of the first L_EXP contributions since the last partial
are added in the order they come, those of a further one are dropped, which counts when it ends (R314, R315). `who` is the
contribution's core, slot and command. -/
def addLocal (s : State) (p : Nat) (key id step chan : Nat) (e : List Nat) (who : Nat × Nat × Nat) (b off : Nat) (bs : Bytes)
    (last : Bool) : State :=
  let w := blockWork s p chan b
  if w.extra.contains who || (!w.opened.contains who && colLexp e ≤ w.locals + w.opened.length) then
    let rest := w.extra.filter (· != who)
    let s := setWork s p chan b { w with extra := if last then rest else who :: rest }
    if last then dupDrop s p else s
  else
    let (new, fn) := fromLanding e bs
    let n := bs.length / landBytes e * accBytes e
    let at_ := off / landBytes e * accBytes e
    let (vs, fl) := accSum e (accVals e ((w.acc.drop at_).take n)) new
    let acc := padTo (max w.acc.length at_) w.acc
    let acc := acc.take at_ ++ accPack e vs ++ acc.drop (at_ + n)
    let rest := w.opened.filter (· != who)
    let w := { w with acc := acc, locals := w.locals + b2n last, opened := if last then rest else who :: rest, step := step, key := key }
    blockTry (sliceAdds (setWork (cmdFlags s key id (orFlags fn fl)) p chan b w) p e) p chan b

/-! ### Stage channels (R284) -/

/-- Bytes of a slot in the checkpoint area (R277); a gradient slot is as large (R284; DESIGN CHOICE, log 74). -/
def slotBytes (img : Image) : Nat := img.ckUnits * 4096

/-- Where a stage channel's tensor lands, from the start of the checkpoint area, which is LAND_VA: the chunk and direction come from
its arrival lantern, and the gradient slots of a chunk stand v apart (R277, R284; DESIGN CHOICE, log 74). -/
def stageLanding (img : Image) (e : List Nat) (m : Nat) : Nat :=
  match img.stage with
  | none => 0
  | some t =>
    let total := (img.blocks.map List.length).foldl (· + ·) 0
    let w := max 1 (stW t)
    if stAf t ≤ colArr e && colArr e < stAf t + 2 * stV t then
      (m % w * total + (img.blocks.getD ((colArr e - stAf t) / 2) []).headD 0) * slotBytes img
    else (w * total + m % w * stV t + (colArr e - stAb t) / 2) * slotBytes img

/-- A packet of a stage channel lands; once the last of the transfer has made the tensor visible the hub signals the arrival lantern of its step's parity
(R284). -/
def stageData (s : State) (p : Nat) (e : List Nat) (k : Packet) : State :=
  match (s.ctx (jobKey s p)).image with
  | none => s
  | some img =>
    let q := 4096 * k.pidx + k.off
    let s := engWrite s p (colLand e + stageLanding img e (k.aux / 65536 % 65536) + q) k.body
    if k.last then hubSignal s (jobKey s p) (colArr e + k.aux % 2) 1 else s

/-- What the local slice does with the bytes of a kind-0x6 stream, by the type of its collective; a stage channel to the module
itself lands at once (R284, R312). -/
def takeLocal (s : State) (p : Nat) (m : CoreCmd) (who : Nat × Nat × Nat) (chan : Nat) (e : List Nat) (q : Nat) (bs : Bytes)
    (fin : Bool) : State :=
  match colType e with
  | 1 =>
    let a := m.params.getD 2 0 % 65536 * 65536 + m.params.getD 0 0 % 65536
    let k : Packet := { ty := 1, chan := chan, pidx := q / 4096, off := q % 4096, aux := a, last := fin, body := bs }
    if colRank e (colPeer e) = (s.job p).rank then stageData s p e k else sendFor s p m.key (colRank e (colPeer e)) k
  | 3 =>
    let a := gatherBase s p e + q
    let s := engWrite s p (colLand e + a) bs
    let s := (blockKids s p e (a / 65536)).foldl (fun s r => sendFor s p m.key r
      { ty := 1, chan := chan, pidx := a / 4096, off := a % 4096, last := fin, body := bs }) s
    if fin || (a + bs.length) % 65536 = 0 then arrSignal s p e else s
  | _ =>
    addLocal s p m.key m.cmd (m.params.getD 0 0 % 65536) chan e who (q / 65536) (q % 65536) bs
      (fin || (q + bs.length) % 65536 == 0)

/-- LOCAL_CONTRIBUTION: the local slice accepts the next bytes of a kind-0x6 ST.OUT, up to 4 KiB of its sequence (R315 to
R317); a work area or a port without room holds it in a cycle that R186 accounts for (R299, R316). -/
def execLocalContribution (core slot : Nat) (s : State) : Res :=
  let c := s.core core
  let x := c.slot slot
  match c.cmd with
  | none => .next s
  | some m =>
    if !x.active || x.op != .stOut || slotKind x != 6 || x.halted || x.begun ≤ x.issued then .next s
    else
      let p := cmdPart m
      let chan := slotChan x
      let e := collOf s m.key chan
      let q := x.issued
      let len := packetLen q x.begun
      let r := c.region x.task (stReg x.word)
      let pos := outPos x r q
      if !streamIn c x then .next (refusedStream s core slot m pos)
      else if localHeld s p chan q e then .next (streamIdle s core m)
      else
        match badWord c x.task r pos (wordsOf len) with
        | some w => .next (parityAbort s core m 2 w w)
        | none =>
          let bs := regionBytes c x.task r pos len
          let s := s.setCore core ((c.setSlot slot { x with issued := q + len }).busyCycle 3)
          .next (takeLocal s p m (core, slot, m.cmd) chan e q bs (q + len == slotLen x))

/-! ### Packets at their destination -/

/-- Accept a packet on a port and give what its partition does with it; one of a reserved TYPE is dropped and counted, one of
another TYPE is another command's (R301, R305). -/
def withPacket (s : State) (n ty : Nat) (k : Packet) (f : State → Nat → Nat → State) : State :=
  if !portUp (s.tport n) || k.dest != s.trl.pos || (k.ty != ty && decide (1 ≤ k.ty) && decide (k.ty ≤ 6)) then s
  else
    match acceptPkt s n k with
    | (none, s) => s
    | (some p, s) =>
      match rankAt (s.job p) k.src with
      | some r => f s p r
      | none => s

/-- The bytes of a data packet's body that VALID_M1 says are valid (R302). -/
def bodyOf (k : Packet) : Packet := { k with body := k.body.take (16 * (k.validM1 % 256 + 1)) }

/-- The active ST.IN of a channel on the cores of a partition that run a command, with the command (R194, R312). -/
def channelSlot (s : State) (p chan : Nat) : Option (Nat × Nat × CoreCmd) :=
  (logicalCores s p).findSome? (fun n =>
    match (s.core n).cmd with
    | none => none
    | some m =>
      ((s.core n).slots.find? (fun y => y.2.active && y.2.op == .stIn && slotKind y.2 == 5 && slotChan y.2 == chan)).map
        (fun y => (n, y.1, m)))

/-- An all-gathered packet is written at LAND_VA and passed down the tree; the last of a block makes it visible: the one that ends its 64 KiB,
or the last of the transfer (R302, R312, R313, R317); log 75. -/
def gatherData (s : State) (p : Nat) (e : List Nat) (k : Packet) : State :=
  let a := 4096 * k.pidx + k.off
  let s := engWrite s p (colLand e + a) k.body
  let s := (blockKids s p e (k.pidx / 16)).foldl (fun s r =>
    sendPkt s p r { ty := 1, chan := k.chan, pidx := k.pidx, off := k.off, last := k.last, body := k.body }) s
  if (a + k.body.length) % 65536 = 0 || k.last then arrSignal s p e else s

/-- A packet of a channel enters the region of its receiver, which acknowledges the bytes that the tail has passed (R173, R176, R312,
R317); log 75. -/
def channelData (s : State) (p : Nat) (k : Packet) : State :=
  match channelSlot s p k.chan with
  | none => s
  | some (c, i, m) =>
    let bs := k.body.take (k.body.length / 16 * 16)
    let s := deliverAt s c i m (4096 * k.pidx + k.off) bs
    if (s.core c).cmd == some m then ackTailed s c i m else s

/-- The stream that sends on a channel, where one is active: its core and its slot (R176, R317). -/
def senderSlot (s : State) (p chan : Nat) : Option (Nat × Nat) :=
  (logicalCores s p).findSome? (fun n =>
    ((s.core n).slots.find? (fun y => y.2.active && y.2.op == .stOut && slotKind y.2 == 5 && slotChan y.2 == chan)).map (fun y => (n, y.1)))

/-- The receiver of a channel has acknowledged some bytes to the active ST.OUT that sends on it (R176); log 75. -/
def channelAck (s : State) (p : Nat) (k : Packet) : State :=
  match senderSlot s p k.chan with
  | none => s
  | some (n, i) =>
    let x := (s.core n).slot i
    s.setCore n ((s.core n).setSlot i { x with acked := min x.issued (x.acked + k.aux % two32) })

/-- DATA_PACKET: a DATA packet arrives on port `n` and is delivered to the channel, stage channel or gathered block it names;
packets of protection transfers wait for their transfer (R302, R312, R328). -/
def execDataPacket (n : Nat) (k : Packet) (s : State) : Res :=
  .next (withPacket s n 1 k (fun s p _ =>
    let e := collOf s (jobKey s p) k.chan
    let k := bodyOf k
    if 0xFFF0 ≤ k.chan then s
    else
      match colType e with
      | 0 => channelData s p k
      | 1 => stageData s p e k
      | 3 => gatherData s p e k
      | 4 => gatherData s p e k
      | _ => s))

/-- REDUCE_PACKET: a packet of a child's partial of one block arrives (R302, R314); an adopter drops the resent partials it must
not add (R316). -/
def execReducePacket (n : Nat) (k : Packet) (s : State) : Res :=
  .next (withPacket s n 2 k (fun s p r =>
    let e := collOf s (jobKey s p) k.chan
    let b := k.pidx / partialPkts e
    let i := k.pidx % partialPkts e
    let w := blockWork s p k.chan b
    let n := k.aux % 65536
    if w.drop.contains (r, n) then
      if 4096 * (i + 1) < partialLen e w then s
      else
        let s := setWork (dupDrop s p) p k.chan b { w with drop := w.drop.erase (r, n) }
        if w.kept.isNone && w.lastStep == n then ackDown s p k.chan b [r] else s
    else
      let w := { w with kids := putKid w.kids r (k.contrib % 65536) i (bodyOf k).body, step := n }
      blockTry (setWork s p k.chan b w) p k.chan b))

/-- ACK_PACKET: the parent acknowledges a block: the kept partial goes and the children are acknowledged; or the receiver of a channel
acknowledges its bytes (R176, R316). -/
def execAckPacket (n : Nat) (k : Packet) (s : State) : Res :=
  .next (withPacket s n 3 k (fun s p r =>
    let w := blockWork s p k.chan k.pidx
    let e := collOf s (jobKey s p) k.chan
    if colType e = 0 && !e.isEmpty then channelAck s p k
    else if w.kept.isNone || blockParent s p e k.pidx != some r then s
    else
      let s := setWork s p k.chan k.pidx { w with kept := none }
      blockTry (ackDown s p k.chan k.pidx (blockKids s p e k.pidx)) p k.chan k.pidx))

/-- SCALAR_PACKET: a child's partial (PIDX 0) or the result (PIDX 1) of a scalar collective (R314). -/
def execScalarPacket (n : Nat) (k : Packet) (s : State) : Res :=
  .next (withPacket s n 5 k (fun s p r =>
    if k.pidx = 0 then
      let w := scalarOf s p k.chan
      scalarTry (setScalarWork s p k.chan { w with kids := Tbl.set w.kids r (k.aux % two32) }) p k.chan
    else scalarResult s p k.chan (k.aux % two32)))

/-- CREDIT_PACKET: the receiver of a channel grants credit for a chunk (R318). -/
def execCreditPacket (n : Nat) (k : Packet) (s : State) : Res :=
  .next (withPacket s n 6 k (fun s p _ =>
    let j := s.job p
    s.setJob p { j with credit := Tbl.upd 0 j.credit k.chan (fun v => v + k.aux % two32) }))

end Sys2Proof.Machine
end

