-- ==== Sys2Proof/Machine/GateLib.lean ====
section
/-! DEFINITION. Sys2Proof/Machine/GateLib.lean: what the Gatehouse, management and the hosts' functions do to whole
partitions: crypto-erase (R381), TDIs in error (R350), withdrawing a bed (R346), and signed management commands (R383). -/
namespace Sys2Proof.Machine

/-! ### Contexts of a partition and of a VF -/

/-- The context keys of a partition that are not CLOSED. -/
def openKeys (s : State) (p : Nat) : List Nat := (partKeys s p).filter (fun k => (s.ctx k).state != .closed)

/-- The context keys opened through a VF. -/
def vfKeys (s : State) (port vf : Nat) : List Nat :=
  match partOfVf s port vf with
  | none => []
  | some p => (openKeys s p).filter (fun k => (s.ctx k).vf == vf)

/-- The VFs of a partition. -/
def partVfs (s : State) (p : Nat) : List Nat :=
  let e := s.entry p
  (upto e.vfCount).map (· + e.vfFirstM1 + 1)

/-- TDISP state of a VF's TDI. -/
def tdiOf (s : State) (port vf : Nat) : Tdisp := Tbl.get .unlocked (s.port port).tdi vf

/-- Set it. -/
def setTdi (s : State) (port vf : Nat) (t : Tdisp) : State :=
  let x := s.port port
  s.setPort port { x with tdi := Tbl.set x.tdi vf t }

/-- Whether a TDI of a partition is CONFIG_LOCKED or RUN (R350). -/
def tdiHeld (s : State) (p : Nat) : Bool :=
  (partVfs s p).any (fun v => tdiOf s (s.entry p).port v == .locked || tdiOf s (s.entry p).port v == .run)

/-- Whether a LAYOUT_SWITCH past its switch point changes a slot (R447). -/
def slotSwitching (s : State) (p : Nat) : Bool := s.lay.switch.any (fun w => w.changed.contains p)

/-- Answer a request on a responder (R378 to R380). -/
def answer (s : State) (req result : Nat) (blocks : List (Nat × Bytes)) (signed : Bool) : State :=
  { s with gth := { s.gth with resp := { req := req, result := result, blocks := blocks, signed := signed } } }

/-- A TDI enters ERROR: every context opened through its VF is torn down with cause TDISP (R350, R372). -/
def tdiError (s : State) (port vf : Nat) : State :=
  (vfKeys s port vf).foldl (fun s k => teardown s k stAborted 5 0 0 true) (setTdi s port vf .error)

/-! ### Decode sets -/

/-- A waiting gatherer command leaves its set without an effect. -/
def dgForget (s : State) (k id : Nat) : State :=
  { s with units := { s.units with dsets := s.units.dsets.map (fun x =>
      if x.2.key = k then
        (x.1, { x.2 with joins := x.2.joins.filter (fun j => j.2 != id)
                         steps := x.2.steps.filter (· != id) })
      else x) } }

/-! ### Crypto-erase (R381) -/

/-- Whether a stack-physical address lies in the frames of a slot. -/
def inFrames (e : LayoutEntry) (a : Nat) : Bool :=
  decide (e.firstFrame * mib2 ≤ a) && decide (a < (e.firstFrame + e.frameCount) * mib2)

/-- The stack contents of a slot are no longer readable: its key has gone (R230). -/
def loseStack (s : State) (p : Nat) : State :=
  let e := s.entry p
  s.setStk { s.mems.stk with bytes := s.mems.stk.bytes.filter (fun c => !inFrames e c.1) }

/-- Key a slot afresh (R374, R381 action 2). -/
def keySlot (s : State) (p : Nat) : State :=
  let n := s.gth.keyGen + 1
  { s with gth := { s.gth with keyGen := n, slots := Tbl.set s.gth.slots p { stack := some n } } }

/-- The pool share of a partition is zeroed on every die, with good parity (R160, R235, R381 action 3). -/
def zeroShare (s : State) (p : Nat) : State :=
  (upto 4).foldl (fun s d =>
    let n := 67108864 * bedsOnDie s p d
    let a := shareBase s p d
    if n = 0 then s
    else
      let s := s.setPool d (Mem.zero (s.pool d) a n)
      { s with mems := { s.mems with
          poolBad := Tbl.upd [] s.mems.poolBad d (fun l => l.filter (fun q => decide (4 * q < a) || decide (a + n ≤ 4 * q))) } }) s

/-- Clear the scratchpads of a partition's beds (R158, R381 action 3). -/
def clearPads (s : State) (p : Nat) : State :=
  ((upto 256).filter (fun n => bit (s.entry p).beds (n / 16) && corePresent s.var n)).foldl (fun s n =>
    s.setCore n { s.core n with scratch := [], badPar := [] }) s

/-- Remove the translation-store entries, the stack caches and the pool share of a partition (R235, R354, R381). -/
def clearMaps (s : State) (p : Nat) : State :=
  let x := s.xlate p
  zeroShare (s.setXlate p { x with stack := [], host := [], cache := [], badLn := [], walks := [], unmap := none, busy := false }) p

/-- The traffic keys and the job key of a partition are discarded: the job is no longer valid here (R344, R381). -/
def dropJob (s : State) (p : Nat) : State :=
  let j := s.job p
  s.setJob p { j with valid := false, key := none, keyOld := none, work := [], scalar := [], credit := [] }

/-- The keys of action 1 of R381. -/
def dropKeys (s : State) (p : Nat) : State :=
  let e := s.entry p
  let s := dropJob s p
  let s := (partKeys s p).foldl (fun s k => s.setCtx k { s.ctx k with keyed := false, key := 0 }) s
  { s with gth := { s.gth with
      slots := Tbl.set s.gth.slots p {}
      ide := s.gth.ide.filter (fun i => !(i.port == e.port && i.vf != 0 && (partVfs s p).contains i.vf)) } }

/-- A check unit after a reset; CHK_CFG keeps its value only after a RESET (R435). -/
def chkReset (c : ChkUnit) (keepCfg : Bool) : ChkUnit :=
  let x : ChkUnit := { toPart := c.toPart, port := c.port, part := c.part, exp := c.exp, res := c.res }
  if keepCfg then { x with alvIn := c.alvIn, irqEn := c.irqEn, vector := c.vector, alg := c.alg } else x

/-- Reset every check unit assigned to a partition (R432, R435). -/
def resetPartUnits (s : State) (p : Nat) : State :=
  { s with units := { s.units with
      chk := s.units.chk.map (fun x => if x.2.toPart && x.2.part == p then (x.1, chkReset x.2 false) else x) } }

/-- Crypto-erase of a partition slot (R381, R432). -/
def cryptoErase (s : State) (p : Nat) : State :=
  resetPartUnits (clearPads (clearMaps (keySlot (loseStack (dropKeys s p) p) p) p) p) p

/-! ### Stopping a partition's commands -/

/-- Stop and complete with one status the running core-class command of a partition. -/
def endCore (s : State) (p status : Nat) : State := stopRun s p status 0

/-- Stop and complete with one status the running engine-class command of a partition. -/
def endEngine (s : State) (p status : Nat) : State :=
  match (s.sched p).eng with
  | some (k, id) => complete (stopEngine s p) k id { status := status }
  | none => s

/-- Complete with one status some uncompleted commands of a context. -/
def endCmds (s : State) (k status : Nat) (which : Cmd → Bool) : State :=
  ((s.ctx k).q.cmds.filter which).foldl (fun s m =>
    complete (dgForget s k m.id) k m.id (cutCompl s k status m)) s

/-! ### Withdrawing a bed (R345, R346) -/

/-- The commands of a partition that wait for credit or have it, of a context whose image names a withdrawn bed, complete with UNIT_ABSENT
(R10, R346). -/
def dropAskers (s : State) (p : Nat) : State :=
  ((openKeys s p).filter (bedGone s)).foldl (fun s k =>
    ((s.ctx k).q.cmds.filter (fun m => m.phase == CmdPhase.asking || m.phase == CmdPhase.granted)).foldl (fun s m =>
      refuseCmd s k m.id stUnitAbsent 0) s) s

/-- Withdrawal of a bed: every running command of its partition completes with BED_WITHDRAWN, and the bed is no longer
usable. -/
def withdrawBed (s : State) (b : Nat) : State :=
  let owner := partOfBed s b
  let s := match owner with
    | some p =>
      let s := endEngine (endCore s p stBedWithdrawn) p stBedWithdrawn
      (openKeys s p).foldl (fun s k => endCmds s k stBedWithdrawn (fun m => m.phase == CmdPhase.issued)) s
    | none => s
  let m := s.cfg.bedUsable
  let s := { s with cfg := { s.cfg with bedUsable := if bit m b then m - 2 ^ b else m }
                    units := { s.units with lnt := s.units.lnt.filter (fun x => !(decide (512 * b ≤ x.1) && decide (x.1 < 512 * b + 512))) } }
  match owner with
  | some p => dropAskers s p
  | none => s

/-! ### Signed management commands (R383) -/

/-- The command of one opcode that is next on the management queue of a port; none once a warm restart has begun (R446). -/
def mgmtHead (s : State) (n op : Nat) : Option Cmd :=
  match (s.mq n).cmds with
  | m :: _ => if m.desc.opcode = op ∧ s.boot.warming = false then some m else none
  | [] => none

/-- COUNTER of a signed block. -/
def sbCounter (b : Bytes) : Nat := le64 b 8
/-- PAYLOAD of a signed block, first 64 bits. -/
def sbPayload (b : Bytes) : Nat := le64 b 0x40

/-- Whether a signed block fails: `sigOk` is whether its signature verifies under the management key, `devOk` whether
DEVICE names this module, `width` the payload's bits, `inForce` the counter in force (R383, R387). -/
def sbFails (s : State) (b : Bytes) (op width inForce : Nat) (sigOk devOk : Bool) : Bool :=
  s.shut || !s.gth.keyStore || !sigOk || !devOk || le32 b 0 != op || le32 b 4 != 0 ||
    decide (2 ^ width ≤ sbPayload b) || ((upto 56).any (fun i => b.getD (0x48 + i) 0 != 0)) || decide (sbCounter b ≤ inForce)

/-- Accept a signed command other than LAYOUT_SWITCH: its counter is stored (R383). -/
def mgmtAccept (s : State) (b : Bytes) : State := { s with gth := { s.gth with mgmtCtr := sbCounter b } }

/-- Evict the job of a partition (R344, R350): its commands complete with JOB_HALTED, its traffic keys go, its contexts are
torn down with cause 0x6, its TDIs enter ERROR, and it is crypto-erased. -/
def evict (s : State) (p : Nat) : State :=
  if !(s.entry p).used then s else
  let s := endEngine (endCore s p stJobHalted) p stJobHalted
  let s := (openKeys s p).foldl (fun s k => cutRest (endCmds s k stJobHalted (fun _ => true)) k stJobHalted) s
  let s := dropJob s p
  let s := (openKeys s p).foldl (fun s k => teardown s k stAborted 6 0 0 true) s
  let s := (partVfs s p).foldl (fun s v => tdiError s (s.entry p).port v) s
  cryptoErase s p

/-- JOB_EVICT on the management queue of port `n` (R344). -/
def execJobEvict (n : Nat) (block : Bytes) (sigOk devOk : Bool) (s : State) : Res :=
  match mgmtHead s n opJobEvict with
  | none => .next s
  | some m =>
    if sbFails s block opJobEvict 4 s.gth.mgmtCtr sigOk devOk then .next (completeMgmt s n m.id { status := stSignature })
    else .next (completeMgmt (evict (mgmtAccept s block) (sbPayload block % 16)) n m.id { status := stOk })

/-- BED_WITHDRAW on the management queue of port `n` (R346); of a bed that is absent or already withdrawn it has no effect (R10). -/
def execBedWithdraw (n : Nat) (block : Bytes) (sigOk devOk : Bool) (s : State) : Res :=
  match mgmtHead s n opBedWithdraw with
  | none => .next s
  | some m =>
    if sbFails s block opBedWithdraw 4 s.gth.mgmtCtr sigOk devOk then .next (completeMgmt s n m.id { status := stSignature })
    else if !bit s.cfg.bedUsable (sbPayload block % 16) then
      .next (completeMgmt s n m.id { status := stUnitAbsent, notStarted := true })
    else .next (completeMgmt (withdrawBed (mgmtAccept s block) (sbPayload block % 16)) n m.id { status := stOk })

end Sys2Proof.Machine
end

