-- ==== Sys2Proof/Machine/Jobs.lean ====
section
/-! DEFINITION. Sys2Proof/Machine/Jobs.lean: a job on a partition: admission, epochs, halt and resume (R306 to R310, R316,
R331, R334, R335, R365). -/
namespace Sys2Proof.Machine

/-! ### Membership (R306, R310) -/

/-- Whether a membership record is well formed. -/
def memOk (m : Membership) : Bool :=
  let here := m.ranks.filter (fun e => bit e 15)
  decide (2 ≤ m.jfan) && decide (m.jfan ≤ 8) && decide (1 ≤ m.ranks.length) && decide (m.ranks.length ≤ 1024) &&
    m.ranks.all (fun e => decide (e < 65536) && bits e 10 5 == 0) && here.eraseDups.length == here.length

/-- Ranks whose position differs between two membership records, an absent rank having none. -/
def movedRanks (old new : Job) : List Nat :=
  (upto (max old.mem.ranks.length new.mem.ranks.length)).filter (fun r => rankPos old r != rankPos new r)

/-! ### Power feeds (R331) -/

/-- Whether the members of a shard's group are on ten distinct known feeds. -/
def feedSeparated (s : State) (p : Nat) (x : Shard) : Bool :=
  let ids := x.members.map (fun r => match rankPos (s.job p) r with
    | some pos => Tbl.get 0 s.trl.feeds pos
    | none => 0)
  !ids.contains 0 && ids.eraseDups.length == ids.length

/-- The check of every group the module belongs to, at admission and at every INSTALL: SHARED_FEED and its event. -/
def feedCheck (s : State) (p : Nat) : State :=
  match protTab s p with
  | none => s
  | some pt =>
    let bad := (upto pt.shards.length).filter (fun i => !feedSeparated s p (pt.shards.getD i {}))
    let s := s.setProt p { s.prot p with shared := bad }
    bad.foldl (fun s i => report s 55 (evtPart 0x025 0 0xFF p ((pt.shards.getD i {}).group % 65536))) s

/-! ### Job-scope lanterns (R248, R335, R365) -/

/-- Present members of a job. -/
def jobSize (j : Job) : Nat := ((upto j.mem.ranks.length).filter (rankHere j)).length

/-- What a job-scope lantern is to a step. -/
inductive StepRole where
  | norm | commit | none
  deriving DecidableEq, Repr

/-- The step lanterns as their subscribers tell them before a parameter block is known: both units subscribe to a norm lantern,
the stack controllers alone to a commit lantern (R248); log 30. -/
def roleBySubs (e : Lantern) : StepRole := if e.subStk && e.subUpd then .norm else if e.subStk then .commit else .none

/-- The step lanterns by a parameter block (R248). -/
def roleByBlock (b : StepBlock) (e : Lantern) : StepRole :=
  if e.num = b.normLnt ∨ e.num = b.normLnt + 1 then .norm
  else if e.num = b.commitLnt ∨ e.num = b.commitLnt + 1 then .commit else .none

/-- The target of a job-scope lantern: of a norm lantern the modules of the job, of a commit lantern its present engines,
else that of the lantern table (R248, R335). -/
def jobTarget (s : State) (p : Nat) (role : StepRole) (e : Lantern) : Nat :=
  let n := jobSize (s.job p)
  match role with
  | .norm => n
  | .commit => n * (presentEngines s.var).length
  | .none =>
    match (s.ctx (64 * p + e.ctx)).image with
    | some img => (img.lanterns.getD (e.num - img.lnFirst) {}).target
    | none => e.target

/-- Set every job-scope lantern of a partition to count 0 and its target: at admission with arm generation 0, as a load does,
later with a new one (R198, R335, R365). -/
def setJobLanterns (s : State) (p : Nat) (atAdmit : Bool) (role : Lantern → StepRole) : State :=
  let root := (s.job p).rank == 0
  let put (e : Lantern) : Lantern :=
    let x := armEntry e (jobTarget s p (role e) e)
    { x with armGen := if atAdmit then 0 else x.armGen, reached := reachedBy x x.target, root := root, unsent := 0, due := false }
  { s with units := { s.units with
      lnt := s.units.lnt.map (fun x => if x.2.alloc && x.2.part == p && x.2.scope == 4 then (x.1, put x.2) else x) } }

/-! ### JOB_ADMIT (R365, R376) -/

/-- Whether a slot holds the tenant's keys (R374, R376). -/
def tenantKeys (s : State) (p : Nat) : Bool :=
  let k := Tbl.get {} s.gth.slots p
  k.ptk.isSome && k.jck.isSome

/-- The key under which a tenant's partition expects its job key to be wrapped (R376). -/
def jobWrapKey (s : State) (p tag : Nat) : Nat :=
  Config.kdf ((Tbl.get {} s.gth.slots p).ptk.getD 0) "KT4 JOB" (natLe 2 tag)

/-- The traffic key of an epoch under a job key (R376). -/
def trafficKey (key tag e : Nat) : Nat := Config.kdf key "KT4 TRL" (natLe 2 tag ++ natLe 4 e)

/-- The lowest present member whose VARIANT differs from this module's (R4, R365). -/
def variantMismatch (s : State) (b : AdmitBlock) : Option Nat :=
  (upto b.mem.ranks.length).find? (fun r =>
    bit (b.mem.ranks.getD r 0) 15 && b.variants.getD r (variantCode s.var) != variantCode s.var)

/-! ### An image against a membership (R311, R327) -/

/-- An entry of a collective table that defines nothing. -/
def collEmpty (e : CollWords) : Bool := e.all (· == 0)

/-- A collective entry has a member beyond the job's ranks (R311). -/
def collRankBad (j : Job) (e : CollWords) : Bool := !collEmpty e && decide (j.mem.ranks.length ≤ colRank e (colSize e - 1))

/-- A shard has a member beyond the job's ranks, or another rank in this module's place (R327). -/
def shardRankBad (j : Job) (x : Shard) : Bool :=
  x.members.any (fun r => decide (j.mem.ranks.length ≤ r)) || x.members.getD x.pos 1024 != j.rank

/-- MIRROR_TO or MIRROR_FROM is no rank of the job, or the module's own (R327). -/
def mirrorRankBad (j : Job) (t : ProtTable) : Bool :=
  [t.mirrorTo, t.mirrorFrom].any (fun r => decide (j.mem.ranks.length ≤ r) || r == j.rank)

/-- The result word of check 11 for a table and the index of its failing entry (R125). -/
def tableWord (table i : Nat) : Nat := 2 ^ 29 + table * 2 ^ 24 + i % 2 ^ 24

/-- The first entry of a loaded image's tables that a job's membership makes fail, as a result word: the image was loaded before the
membership was known (R311, R327, R365); log 56. -/
def memberFail (j : Job) (img : Image) : Option Nat :=
  match (upto img.colls.length).find? (fun i => collRankBad j (img.colls.getD i [])) with
  | some i => some (tableWord 4 i)
  | none =>
    match img.prot with
    | none => none
    | some t =>
      match (upto t.shards.length).find? (fun i => shardRankBad j (t.shards.getD i {})) with
      | some i => some (tableWord 8 i)
      | none => if mirrorRankBad j t then some (tableWord 8 0) else none

/-- The job that an admission block describes (R365). -/
def blockJob (k : Nat) (b : AdmitBlock) : Job :=
  { valid := true, ctx := keyCtx k, rank := b.rank, tag := b.tag, seed := b.seed, epoch := b.mem.epoch, sendEp := b.mem.epoch
    mem := b.mem, key := some (trafficKey b.key b.tag b.mem.epoch) }

/-- The job begins on a partition (R320, R365). -/
def admitJob (s : State) (k : Nat) (b : AdmitBlock) : State :=
  let p := keyPart k
  let j := blockJob k b
  let s := s.setJob p j
  let sk := Tbl.get {} s.gth.slots p
  let s := { s with gth := { s.gth with slots := Tbl.set s.gth.slots p { sk with job := some b.key } } }
  let s := s.setProt p { s.prot p with spare := rankPos j b.rank != some s.trl.pos }
  feedCheck (setJobLanterns (s.setUpd p { s.upd p with gen := [] }) p true roleBySubs) p

/-- JOB_ADMIT of context `k` with the admission block its read returns (R365). -/
def execJobAdmit (k : Nat) (b : AdmitBlock) (s : State) : Res :=
  match issuable s k opJobAdmit with
  | none => .next s
  | some m =>
    match (s.ctx k).image with
    | none => .next (refuseCmd s k m.id stMalformed 0)
    | some img =>
    if bedGone s k then .next (refuseCmd s k m.id stUnitAbsent 0)
    else if !hostMapped s (keyPart k) m.desc.arg0 1 then .next (refuseCmd s k m.id stParamUnmapped 0)
    else if !b.sigOk || !b.keyOk || !tenantKeys s (keyPart k) || b.wrapKey != jobWrapKey s (keyPart k) b.tag || !memOk b.mem || b.mem.tag != b.tag ||
        decide (b.mem.ranks.length ≤ b.rank) then .next (complete s k m.id { status := stJobAuth })
    else
      match variantMismatch s b with
      | some r => .next (complete s k m.id { status := stVariant, result := r })
      | none =>
        match memberFail (blockJob k b) img with
        | some w => .next (complete s k m.id { status := stImageRejected, result := w })
        | none => .next (complete (admitJob s k b) k m.id { status := stOk })

/-! ### INSTALL, SWITCH and GRACE_END (R308 to R310, R316) -/

/-- The template position of a rank in a block's tree. -/
def tplPos (e : List Nat) (b r : Nat) : Option Nat :=
  let o := blockOwner e b % colSize e
  (upto (colSize e)).find? (fun u => treeRank e o u == r)

/-- What an adopter drops of one block: the resent partials of the removed children's own children, for each partial it had
accepted (R316 action 2). -/
def adoptDrops (new : Job) (e : List Nat) (b : Nat) (oldKids : List Nat) (w : BlockWork) : List (Nat × Nat) :=
  let o := blockOwner e b % colSize e
  (oldKids.filter (fun r => !rankHere new r)).flatMap (fun r =>
    match tplPos e b r with
    | none => []
    | some t =>
      let below := (treeKids (colFan e) (colSize e) (fun u => rankHere new (treeRank e o u)) 11 t).map (treeRank e o)
      (if w.kids.any (fun x => x.rank == r && kidWhole (partialLen e w) x) then below.map (fun c => (c, w.step)) else []) ++
        (if w.took.contains r then below.map (fun c => (c, w.lastStep)) else []))

/-- One block at an INSTALL: kept partials are resent to a new parent, or dropped with their owner; an adopter notes what
it will drop (R316). `old` is the state before. -/
def adoptBlock (old : State) (p : Nat) (s : State) (key : Nat) : State :=
  let chan := key / 2 ^ 32
  let b := key % 2 ^ 32
  let e := collOf s (jobKey s p) chan
  let w := blockWork s p chan b
  let w := { w with
    drop := w.drop ++ adoptDrops (s.job p) e b (blockKids old p e b) w
    kids := w.kids.filter (fun x => rankHere (s.job p) x.rank || kidWhole (partialLen e w) x) }
  if !rankHere (s.job p) (treeRank e (blockOwner e b % colSize e) 0) then setWork s p chan b { w with kept := none }
  else
    let s := setWork s p chan b w
    let s := match w.kept, blockParent s p e b with
      | some (contrib, bs), some up =>
        if blockParent old p e b = some up then s
        else
          let j := s.job p
          sendReduce (s.setJob p { j with resent := inc32 j.resent }) p w.key chan e b up contrib w.lastStep bs
      | _, _ => s
    blockTry s p chan b

/-- INSTALL takes effect (R309, R316, R331, R376). A block or a scalar that waited only for a rank now absent goes on (R314). -/
def install (s : State) (p : Nat) (rec : Membership) : State :=
  let j := s.job p
  let new := (Tbl.get {} s.gth.slots p).job.map (fun k => trafficKey k j.tag rec.epoch)
  let j' := { j with mem := rec, epoch := rec.epoch, phase := .installed, keyOld := j.key, key := new }
  let y := s.prot p
  let s1 := (s.setJob p j').setProt p { y with changed := (y.changed ++ movedRanks j j').eraseDups }
  let s2 := (j.work.map Prod.fst).foldl (adoptBlock s p) s1
  feedCheck ((j.scalar.map Prod.fst).foldl (fun s chan => scalarTry s p chan) s2) p

/-- INSTALL of context `k` with the membership record its read returns; `sigOk` is whether its signature verifies
(R308, R310). -/
def execInstall (k : Nat) (rec : Membership) (sigOk : Bool) (s : State) : Res :=
  match issuable s k opJobEpoch with
  | none => .next s
  | some m =>
    let p := keyPart k
    let j := s.job p
    if m.desc.arg0 % 4 = 0 then .next (refuseCmd s k m.id stMalformed 0)
    else if m.desc.arg0 % 4 ≠ 1 then .next s
    else if !hostMapped s p m.desc.arg1 1 then .next (refuseCmd s k m.id stParamUnmapped 0)
    else if !j.valid || !sigOk || rec.tag != j.tag || !memOk rec then .next (complete s k m.id { status := stJobAuth })
    else if rec.epoch ≠ j.epoch + 1 || j.phase != .steady then .next (complete s k m.id { status := stEpochOrder })
    else .next (complete (install s p rec) k m.id { status := stOk })

/-- SWITCH of context `k`: the module sends under the new epoch (R303, R308). -/
def execSwitch (k : Nat) (s : State) : Res :=
  match issuable s k opJobEpoch with
  | none => .next s
  | some m =>
    let p := keyPart k
    let j := s.job p
    if m.desc.arg0 % 4 ≠ 2 then .next s
    else if !j.valid || j.phase != .installed then .next (complete s k m.id { status := stEpochOrder })
    else .next (complete (s.setJob p { j with phase := .switched, sendEp := j.epoch, pctr := 0 }) k m.id { status := stOk })

/-- GRACE_END of context `k`: the old epoch is no longer accepted and its traffic key goes (R308, R376). -/
def execGraceEnd (k : Nat) (s : State) : Res :=
  match issuable s k opJobEpoch with
  | none => .next s
  | some m =>
    let p := keyPart k
    let j := s.job p
    if m.desc.arg0 % 4 ≠ 3 then .next s
    else if !j.valid || j.phase != .switched then .next (complete s k m.id { status := stEpochOrder })
    else
      let rx := j.rx.filter (fun x => x.1 / 1024 == j.epoch % two32)
      .next (complete (s.setJob p { j with phase := .steady, keyOld := none, rx := rx }) k m.id { status := stOk })

/-! ### JOB_HALT (R334) -/

/-- Deltas not acknowledged by a rank that has changed position are sent again (R334 action 2). -/
def resendChanged (s : State) (p : Nat) : State :=
  let y := s.prot p
  (y.tx.filter (fun x => x.kind == 1 && y.changed.contains x.rank)).foldl (fun s x => sendTx s p x) s

/-- Whether a command of context `k'` was submitted before JOB_HALT `h` of context `k`, by the order of its own context's queue, or by the
doorbell writes of the partition (R364). -/
def submitted (s : State) (k : Nat) (h : Cmd) (k' : Nat) (m : Cmd) : Bool :=
  if k' != k then decide (m.subNo < h.subNo) else ((s.ctx k).q.cmds.takeWhile (fun x => x.id != h.id)).any (fun x => x.id == m.id)

/-- Whether JOB_HALT `h` of context `k` stops a command of context `k'` (R334 action 1, R364). -/
def halts (s : State) (k : Nat) (h : Cmd) (k' : Nat) (m : Cmd) : Bool :=
  !sweepRuns s k' m.id && !(m.desc.opcode == opJobHalt && m.phase == .issued) && submitted s k h k' m

/-- Whether JOB_HALT `h` of context `k` ends the UPDATE of the partition whose norm event has fired with its sweep (R334 action 2). -/
def haltsSweep (s : State) (k : Nat) (h : Cmd) : Bool :=
  let u := s.upd (keyPart k)
  match u.cmd with
  | none => false
  | some (k', id) => u.normSeen && ((s.ctx k').q.cmds.find? (fun m => m.id == id)).any (submitted s k h k')

/-- Whether JOB_HALT `h` of context `k` stops command `id` of context `k'`. -/
def haltsId (s : State) (k : Nat) (h : Cmd) (k' id : Nat) : Bool :=
  ((s.ctx k').q.cmds.find? (fun m => m.id == id)).any (halts s k h k')

/-- JOB_HALT of context `k`: an UPDATE past its norm event completes its sweep, at once where nothing of it is left (R334). -/
def execJobHalt (k : Nat) (s : State) : Res :=
  match issuable s k opJobHalt with
  | none => .next s
  | some m =>
    let p := keyPart k
    let s := setPhase s k m.id .issued
    let s := match (s.sched p).run with
      | some r => if haltsId s k m r.key r.cmd then endCore s p stJobHalted else s
      | none => s
    let s := match (s.sched p).eng with
      | some (k', id) => if haltsId s k m k' id then endEngine s p stJobHalted else s
      | none => s
    let s := (openKeys s p).foldl (fun s k' =>
      let s := endCmds s k' stJobHalted (halts s k m k')
      if k' = k then s else cutBefore s k' stJobHalted m.subNo) s
    if haltsSweep s k m then .next (settleUpd (resendChanged (s.setUpd p { s.upd p with halt := true }) p) p)
    else .next (finishHalt s p)

/-! ### JOB_RESUME (R335) -/

/-- Records of a partition's update plan: a bound for one engine's sweep. -/
def planRecs (s : State) (p : Nat) : Nat := ((updPlan s p).map segsRecs).foldl (· + ·) 0

/-- The engines are given a step that no UPDATE runs, for command `cmd`, with its S and parameter block, and run its pre-pass (R53,
R335 action 1, R338 action 4). -/
def rollBegin (s : State) (p : Nat) (cmd : Nat × Nat) (blk : StepBlock) (sSum : Nat) : State :=
  let u := s.upd p
  let (f, fl) := clipFactor sSum blk.clip
  let s := s.setUpd p { u with blk := blk, sSum := sSum, clip := f.getD 0x3F800000, hideNorm := false, resume := false, pass := 0, deltas := []
                               serve := some cmd }
  armEngines (prePasses (updFlags s p fl) p) p

/-- The step has been swept; what it sent is sent again until it is acknowledged, and nothing waits for it. -/
def rollEnd (s : State) (p : Nat) : State :=
  let u := s.upd p
  s.setUpd p { u with serve := none, eng := u.eng.map (fun x => (x.1, { x.2 with unacked := [], ended := true, signaled := false })) }

/-- Run a step's sweep on the module's own landings with a given S and parameter block (R335 action 1). -/
def rollSweep (s : State) (p : Nat) (cmd : Nat × Nat) (blk : StepBlock) (sSum : Nat) : State :=
  let s := rollBegin s p cmd blk sSum
  rollEnd (runSweep (planRecs s p + 1) p s) p

/-- Actions 2 and 3 of R335, with the parameter block of step n. The update-pending pages of records lost in step n stay so where the
engines have swept it; any other mark goes, since no engine writes the page before the step is run (DESIGN CHOICE, log 83). -/
def resumeState (s : State) (p n : Nat) (blk : StepBlock) : State :=
  let s := setJobLanterns s p false (roleByBlock blk)
  let s := match (s.ctx (jobKey s p)).image with
    | some img => match img.stage with
      | some t => armArrivals (armArrivals s p t 0) p t 1
      | none => s
    | none => s
  let u := s.upd p
  let pend := if n == committedOf s p + 1 then u.pend else []
  let s := s.setUpd p { u with
    commit := n, held := [], counts := [], next := [], pend := pend, readBlk := [], rows := [], cols := [], rbar := [], deltas := []
    phase := .idle, normSeen := false, normSent := false, halt := false, early := noFlags, hideLanded := 0
    eng := u.eng.map (fun x => (x.1, { x.2 with acc := 0, nonfin := false })) }
  let s := { s with units := { s.units with
    stkCtl := (presentEngines s.var).foldl (fun t k =>
      Tbl.upd {} t k (fun c => { c with committed := Tbl.set c.committed p n })) s.units.stkCtl } }
  let s := clearMapAt (clearMapAt s p 0) p 1
  s.setProt p { s.prot p with map0 := [], map1 := [], seen := [], changed := [], restored := false
                              evNorm := false, evDmap := false, evSwept := false, evStep := n + 1 }

/-- Whether a module can take n as its committed step: its records are those of n, or those of n − 1 and it sweeps step n, or it has swept
it, or they are a host checkpoint's, whose parity a REBUILD PARITY has formed since (R335, R343); log 28. -/
def canResume (s : State) (p n : Nat) : Bool :=
  let c := committedOf s p
  (s.prot p).restored || (n == c && !(s.prot p).evSwept) || n == c + 1

/-- Whether JOB_RESUME of step n runs the step's sweep (R335 action 1). -/
def resumeSweeps (s : State) (p n : Nat) : Bool := n == committedOf s p + 1 && !(s.prot p).evSwept

/-- JOB_RESUME of context `k`: `block` is what the read of the parameter block returns (R333, R335). -/
def execJobResume (k : Nat) (block : Bytes) (s : State) : Res :=
  match issuable s k opJobResume with
  | none => .next s
  | some m =>
    let p := keyPart k
    let n := m.desc.arg0 % two32
    let c := committedOf s p
    if !hostMapped s p m.desc.arg1 576 then .next (refuseCmd s k m.id stParamUnmapped 0)
    else if !canResume s p n then .next (complete s k m.id { status := stResume, result := c })
    else
      let blk := parseBlock block
      let s := if resumeSweeps s p n then rollSweep s p (k, m.id) blk (m.desc.arg2 % two32) else s
      .next (complete (resumeState s p n blk) k m.id { status := stOk, result := n })

end Sys2Proof.Machine
end

