-- ==== Sys2Proof/Machine/Recover.lean ====
section
/-! DEFINITION. Sys2Proof/Machine/Recover.lean: protection transfers at their receiver (R328 to R332) and REBUILD (R338 to
R340). A protection transfer arrives whole, presented as one packet with the protection header and the payload. -/
namespace Sys2Proof.Machine

/-! ### The protection header (R328) -/

/-- KIND. -/
def phKind (b : Bytes) : Nat := leNat (b.take 1)
/-- SLOT. -/
def phSlot (b : Bytes) : Nat := leNat ((b.drop 1).take 1) % 16
/-- PASS. -/
def phPass (b : Bytes) : Nat := leNat ((b.drop 1).take 1) / 16
/-- GROUP. -/
def phGroup (b : Bytes) : Nat := leNat ((b.drop 2).take 2)
/-- STEP. -/
def phStep (b : Bytes) : Nat := le32 b 4
/-- INDEX. -/
def phIndex (b : Bytes) : Nat := le64 b 8
/-- Payload. -/
def phData (b : Bytes) : Bytes := b.drop 16

/-- Accept a whole protection transfer of one kind on a port: its partition, the sender's rank and the body (R305, R328). -/
def withProt (s : State) (n kind : Nat) (k : Packet) (f : State → Nat → Nat → Bytes → State) : State :=
  withPacket s n 1 k (fun s p r => if k.chan < 0xFFF0 || phKind k.body != kind then s else f s p r k.body)

/-- A reply to a transfer: its kind, with the header's other fields (R328). -/
def replyTx (kind rank : Nat) (b : Bytes) : ProtTx :=
  { kind := kind, step := phStep b, idx := phIndex b, rank := rank, pass := phPass b, slot := phSlot b, group := phGroup b, data := [] }

/-! ### DELTA and DACK (R329) -/

/-- Whether a delta has been applied before: by its map bit under PASS 0, else by its match (R329). -/
def deltaSeen (y : ProtPart) (step key r σ pass : Nat) : Bool :=
  if pass = 0 then (mapOf y step).contains key else y.seen.contains (r, σ, pass)

/-- A holder takes a delta of shard `i`, in the role of P-holder or Q-holder. -/
def applyDelta (s : State) (p r i : Nat) (x : Shard) (q : Bool) (b : Bytes) : State :=
  let σ := phIndex b
  let y := s.prot p
  let key := mapKey i σ (phSlot b) q
  if deltaSeen y (phStep b) key r σ (phPass b) then s
  else
    let s := setMapAt (xorParity s p (parityVa x σ q) x.unitBytes (phSlot b) q (phData b)) p (phStep b) key
    let cur := committedOf s p + 1
    let y := setMap (s.prot p) (phStep b) key cur
    let y := if phStep b = cur then { y with evStep := cur % 65536 } else y
    s.setProt p (if phPass b = 0 then y else { y with seen := ((r, σ, phPass b) :: y.seen).take 64 })

/-- PROTECTION_DELTA: a complete DELTA arrives on port `n`: it is applied once and acknowledged; a spare that has not been
rebuilt acknowledges and discards it (R329, R338). -/
def execProtectionDelta (n : Nat) (k : Packet) (s : State) : Res :=
  .next (withProt s n 1 k (fun s p r b =>
    match protTab s p with
    | none => s
    | some pt =>
      match groupShard pt (phGroup b) with
      | none => s
      | some i =>
        let x := pt.shards.getD i {}
        let σ := phIndex b
        let isP := x.members.getD (posP σ) 1024 == (s.job p).rank
        let isQ := x.members.getD (posQ σ) 1024 == (s.job p).rank
        if !isP && !isQ then s
        else
          let s := if (s.prot p).spare then s else applyDelta s p r i x isQ b
          sendProt s p (replyTx 2 r b)))

/-- DACK: a holder acknowledges a delta (R265, R329). -/
def execDack (n : Nat) (k : Packet) (s : State) : Res :=
  .next (withProt s n 2 k (fun s p r b =>
    let s := dropTx s p 1 (phGroup b) (phIndex b) r
    let u := s.upd p
    let done (e : UpdEng) : UpdEng := { e with unacked := e.unacked.filter (· != (phGroup b, phIndex b, r)) }
    settleUpd (s.setUpd p { u with eng := u.eng.map (fun e => (e.1, done e.2)) }) p))

/-! ### MIRROR and MACK (R330) -/

/-- MIRROR: a landing block and its count arrive at the mirror host, are written to its mirror area and acknowledged. -/
def execMirror (n : Nat) (k : Packet) (s : State) : Res :=
  .next (withProt s n 3 k (fun s p r b =>
    match protTab s p with
    | none => s
    | some pt =>
      if r != pt.mirrorFrom then s
      else
        let s := engWrite s p (pt.mirrorVa + 65538 * phIndex b) ((phData b).take 65538)
        sendProt s p (replyTx 4 r b)))

/-- MACK: a mirrored landing block is acknowledged to its owner, whose update may go on (R330). -/
def execMack (n : Nat) (k : Packet) (s : State) : Res :=
  .next (withProt s n 4 k (fun s p r b => landCheck (dropTx s p 3 0 (phIndex b) r) p))

/-! ### SAG (R332) -/

/-- Whether two arrival times lie within 2 ms of each other. -/
def within2ms (a b : Nat) : Bool := decide (a ≤ b + 2000000) && decide (b ≤ a + 2000000)

/-- The shards of a partition whose group holds a rank. -/
def sharedGroups (s : State) (p r : Nat) : List Nat :=
  match protTab s p with
  | none => []
  | some pt => (upto pt.shards.length).filter (fun i => (pt.shards.getD i {}).members.contains r)

/-- Whether a SAG report of rank `r` raises suspicion for shard `i`'s group: the module's own sag, or another member's
report, lies within 2 ms. -/
def sagMatches (s : State) (p r i : Nat) : Bool :=
  let y := s.prot p
  let near (t : Nat) : Bool := within2ms t s.now
  (match y.ownSagAt with
   | some t => near t
   | none => false) ||
  (match protTab s p with
   | none => false
   | some pt => (pt.shards.getD i {}).members.any (fun q => q != r && q != (s.job p).rank &&
      (match Tbl.find y.sagAt q with
       | some t => near t
       | none => false)))

/-- SAG: a partner's sag report arrives (R332, R347). -/
def execSag (n : Nat) (k : Packet) (s : State) : Res :=
  .next (withProt s n 5 k (fun s p r _ =>
    let hit := (sharedGroups s p r).filter (sagMatches s p r)
    let y := s.prot p
    let y := { y with sags := inc32 y.sags, sagAt := Tbl.set y.sagAt r s.now, suspect := (y.suspect ++ hit).eraseDups }
    let y := if y.sagV then y else { y with sagV := true, sagCorr := !hit.isEmpty, sagPos := k.src % 1024 }
    let s := s.setProt p y
    if hit.isEmpty then s else report s 55 (evtPart 0x026 0 0xFF p (k.src % 1024))))

/-! ### RB_REQ (R326, R338) -/

/-- The data unit of slot `j` of a stripe from P or Q and the other seven data units (R326). -/
def formData (len j : Nat) (q : Bool) (par : Bytes) (units : List (Option Bytes)) : Option Bytes :=
  let others := (upto 8).filter (· != j)
  if others.any (fun i => (units.getD i none).isNone) then none
  else
    let term (i : Nat) : Bytes := let d := padTo len ((units.getD i none).getD []); if q then symMap (gfUp i) d else d
    let x := others.foldl (fun a i => xorBytes a (term i)) (padTo len par)
    some (if q then symMap (gfDown j) x else x)

/-- A parity unit from the eight data units of a stripe (R326). -/
def formParity (len : Nat) (q : Bool) (units : List (Option Bytes)) : Option Bytes :=
  if (upto 8).any (fun i => (units.getD i none).isNone) then none
  else
    let term (i : Nat) : Bytes := let d := padTo len ((units.getD i none).getD []); if q then symMap (gfUp i) d else d
    some ((upto 8).foldl (fun a i => xorBytes a (term i)) (List.replicate len 0))

/-- Both map bits of a unit: bit 0 the P-holder's, bit 1 the Q-holder's, from this holder's own and the other's (R328, R338);
log 35. -/
def mapBits (own other q : Bool) : Nat := if q then b2n other + 2 * b2n own else b2n own + 2 * b2n other

/-- The payload of RB_DATA: eight zero bytes, byte 24 with the map bits, seven zero bytes, and from byte 32 the formed
unit, empty if it cannot be formed (R328). -/
def rbPayload (maps : Nat) (unit : Option Bytes) : Bytes :=
  List.replicate 8 0 ++ natLe 1 maps ++ List.replicate 7 0 ++ unit.getD []

/-- RB_REQ: a rebuilding module asks this holder for a unit of a stripe; `units` is what this holder reads from its peers to answer
(R338). -/
def execRbReq (n : Nat) (k : Packet) (units : StripeRead) (s : State) : Res :=
  .next (withProt s n 6 k (fun s p r b =>
    match protTab s p with
    | none => s
    | some pt =>
      match groupShard pt (phGroup b) with
      | none => s
      | some i =>
        let x := pt.shards.getD i {}
        let σ := phIndex b
        let role := phSlot b
        let isQ := x.members.getD (posQ σ) 1024 == (s.job p).rank
        let isP := x.members.getD (posP σ) 1024 == (s.job p).rank
        if !isP && !isQ then s
        else
          let (bad, par, s) := engRead s p (parityVa x σ isQ) x.unitBytes
          let unit := if 8 ≤ role then formParity x.unitBytes (role == 9) units.units
                      else if bad then none else formData x.unitBytes role isQ par units.units
          let maps := mapBits ((mapOf (s.prot p) (phStep b)).contains (mapKey i σ role isQ)) units.other isQ
          sendProt s p { replyTx 7 r b with data := rbPayload maps unit }))

/-! ### REBUILD (R338 to R340) -/

/-- Whether a rank is absent, or has changed position since the step began (R340). -/
def rankGone (s : State) (p r : Nat) : Bool := !rankHere (s.job p) r || (s.prot p).changed.contains r

/-- Whether a group of the module has a member other than this one that is absent or has changed position (R340). -/
def groupAbsent (s : State) (p : Nat) (x : Shard) : Bool := x.members.any (fun r => r != (s.job p).rank && rankGone s p r)

/-- Whether a group's members keep a REBUILD of a mode from its units (R340). A REBUILD PARITY takes what its peers hold now, which a
restore has written also on a member that has just moved, and checks every record of it: only an absent member keeps it back (R339,
R343; DEDUCED, log 28). -/
def rebuildShut (s : State) (p mode : Nat) (x : Shard) : Bool :=
  if mode = 3 then x.members.any (fun r => r != (s.job p).rank && !rankHere (s.job p) r) else groupAbsent s p x

/-- The data units of a shard that hold records, as units to form (R325, R338). -/
def dataTodo (plan : List (List SegWords)) (i : Nat) (x : Shard) : List (Nat × RbUnit) :=
  ((upto x.units).filter (fun q => !(unitRecs plan (x.firstUnit + q)).isEmpty)).map (fun q =>
    let (σ, slot) := stripeOf x.pos q
    (x.firstUnit + q, { shard := i, sigma := σ, role := slot, askQ := false }))

/-- The parity units of a shard, as units to form (R325, R338). -/
def parityTodo (i : Nat) (x : Shard) : List RbUnit :=
  ((upto (10 * cdiv x.units 8)).filter (fun σ => posP σ == x.pos || posQ σ == x.pos)).map (fun σ =>
    { shard := i, sigma := σ, role := if posP σ == x.pos then 8 else 9, askQ := false })

/-- Ask the holder of a unit for it: of a data unit the P-holder, or the Q-holder when P was unreadable; of a parity unit
the other holder of the stripe (R338). -/
def askUnit (s : State) (p : Nat) (pt : ProtTable) (nc : Nat) (t : RbUnit) : State :=
  let x := pt.shards.getD t.shard {}
  let pos := if t.role = 8 then posQ t.sigma else if t.role = 9 then posP t.sigma else if t.askQ then posQ t.sigma else posP t.sigma
  sendProt s p { kind := 6, step := nc, idx := t.sigma, rank := x.members.getD pos 0, pass := 0, slot := t.role
                 group := x.group, data := natLe 1 t.role }

/-- A REBUILD ends with a status; the groups named are beyond the code (R340, R347). -/
def endRebuild (s : State) (p status : Nat) (beyond : List Nat) : State :=
  let y := s.prot p
  match y.rb with
  | none => s
  | some r =>
    let s := s.setProt p { y with rb := none, rebuilding := false, tx := y.tx.filter (fun t => t.kind != 6)
                                  beyond := (y.beyond ++ beyond).eraseDups }
    let s := s.setSched p { s.sched p with eng := none }
    complete s r.cmd.1 r.cmd.2 { status := status, result := (s.prot p).rbDone % two32 }

/-- Form the check records of a segment from its bytes, and write them as one run (R247, R338 action 5). -/
def segChecks (s : State) (p : Nat) (g : List Nat) : State :=
  let (crcs, s) := (upto (gRecs g)).foldl (fun x r =>
    let (_, bs, s) := engReads x.2 p (protAreas g r)
    (x.1 ++ natLe 4 (crc32c bs), s)) (([] : Bytes), s)
  engMeter (engWrite s p (gC g) crcs) p (gRecs g * (recLen g + 4))

/-- Form every check record of the module (R247, R338 action 5). -/
def formChecks (s : State) (p : Nat) : State :=
  let plan := updPlan s p
  (upto 4).foldl (fun s d => (dieSegs plan d).foldl (fun s g => segChecks s p g) s) s

/-- Whether the landings of a rolled-forward step are all here (R338 action 4). -/
def landingsHere (s : State) (p : Nat) : Bool := decide (planBlocks (updPlan s p) ≤ (s.upd p).counts.length)

/-- A landing block and its count as MIRROR_TO returns them are put in their place (R338 action 4). -/
def takeMirror (s : State) (p : Nat) (x : Nat × Nat × Bytes) : State :=
  let d := x.1 / 2 ^ 20
  match blockAt (dieSegs (updPlan s p) d) 0 (x.1 % 2 ^ 20) with
  | none => s
  | some (seg, b) =>
    let g := (dieSegs (updPlan s p) d).getD seg []
    let s := engMeter (engWrite s p (gG g + 65536 * b) (x.2.2.take (2 * (gCount g - 32768 * b)))) p (x.2.2.take (2 * (gCount g - 32768 * b))).length
    let u := s.upd p
    s.setUpd p { u with counts := Tbl.set u.counts x.1 (x.2.1 % 65536) }

/-- Roll the rebuilt shard forward: every record of a unit whose P map bit was clear is swept, and its DELTA sent
(R338 action 4). -/
def rollForward (s : State) (p : Nat) (r : Rebuild) : State :=
  let s := rollBegin s p r.cmd r.blk r.sSum
  let plan := updPlan s p
  let s := (r.maps.filter (fun m => !bit m.2 0)).foldl (fun s m =>
    let d := unitDie plan m.1
    (unitRecs plan m.1).foldl (fun s x =>
      let k := recEngine s.var d x.2
      engBusy (sweepRec s p k x.1 x.2) k) s) s
  rollEnd s p

/-- Finish a REBUILD once every unit has been formed: a roll-forward sweeps records whose check records it has first formed from the units
received (R266, R338 actions 4 to 6), and a REBUILD PARITY leaves parity that agrees with the module's records (R339, R343). -/
def rebuildTry (s : State) (p : Nat) : State :=
  match (s.prot p).rb with
  | none => s
  | some r =>
    if !r.todo.isEmpty then s
    else if r.mode != 1 then
      endRebuild (s.setProt p { s.prot p with restored := (s.prot p).restored || r.mode == 3 }) p stOk []
    else if r.roll && !landingsHere s p then s
    else
      let s := if r.roll then rollForward (formChecks s p) p r else s
      endRebuild (resumeState (formChecks s p) p r.nc r.blk) p stOk []

/-- A REBUILD issues (R338 to R340): its units are asked for. -/
def beginRebuild (s : State) (k : Nat) (m : Cmd) (mode : Nat) (roll : Bool) (block : Bytes) (recs : List (Nat × Nat × Nat)) : State :=
  let p := keyPart k
  let s := clearUp ((setPhase s k m.id .issued).setSched p { s.sched p with eng := some (k, m.id) }) p
  let plan := updPlan s p
  match protTab s p with
  | none => endRebuild (s.setProt p { s.prot p with
      rb := some { cmd := (k, m.id), mode := mode, nc := 0, roll := false, sSum := 0, blk := {}, todo := [], maps := [], recs := []
                   shards := [], parts := [] } }) p stOk []
  | some pt =>
    let shards := (upto pt.shards.length).map (fun i => (i, pt.shards.getD i {}))
    let named (u : Nat) : Bool := recs.any (fun x => unitOfRec plan x.1 x.2.1 x.2.2 == u)
    let data := (shards.flatMap (fun x => dataTodo plan x.1 x.2)).filter (fun t => mode == 1 || (mode == 2 && named t.1))
    let par := if mode = 2 then [] else shards.flatMap (fun x => parityTodo x.1 x.2)
    let todo := (data.map Prod.snd) ++ par
    let nc := m.desc.arg0 / two32
    let y := s.prot p
    let s := s.setProt p { y with rebuilding := true, rbDone := 0, spare := false
                                  rb := some { cmd := (k, m.id), mode := mode, nc := nc, roll := roll, sSum := m.desc.arg2 % two32
                                               blk := parseBlock block, todo := todo, maps := [], recs := recs, parts := []
                                               shards := (todo.map (fun t => t.shard)).eraseDups } }
    let bad := (shards.filter (fun x => todo.any (fun t => t.shard == x.1) && rebuildShut s p mode x.2)).map Prod.fst
    if !bad.isEmpty then endRebuild s p stGroupAbsent bad
    else if roll && rankGone s p pt.mirrorTo then endRebuild s p stSourceLost []
    else rebuildTry (todo.foldl (fun s t => askUnit s p pt nc t) s) p

/-- A REBUILD of one mode at the head of its class: it asks for credit, issues with it, or goes on (R338, R364, R408). -/
def rebuildStep (s : State) (k mode : Nat) (roll : Bool) (block : Bytes) (recs : List (Nat × Nat × Nat)) : State :=
  let p := keyPart k
  match (s.prot p).rb with
  | some r => if r.cmd.1 = k && r.mode = mode then rebuildTry s p else s
  | none =>
    match issuable s k opRebuild with
    | none => s
    | some m =>
      if m.desc.arg0 % 4 = 0 then refuseCmd s k m.id stMalformed 0
      else if m.desc.arg0 % 4 ≠ mode || (s.sched p).eng.isSome || !engTurn s p m then s
      else if (s.ctx k).image.isNone then refuseCmd s k m.id stMalformed 0
      else if bedGone s k then refuseCmd s k m.id stUnitAbsent 0
      else if !hostMapped s p m.desc.arg1 576 then refuseCmd s k m.id stParamUnmapped 0
      else
        match m.phase with
        | .waiting => setPhase s k m.id .asking
        | .granted => beginRebuild s k m mode roll block recs
        | _ => s

/-- REBUILD MEMBER of context `k`: `block` is what the read of the parameter block returns, and `committed` what the module reads
from its peers: the committed step, and landing blocks, which a rebuild that rolls a step forward takes (R338). -/
def execRebuildMember (k : Nat) (block : Bytes) (committed : PeerRead) (s : State) : Res :=
  let nc := match issuable s k opRebuild with
    | some m => m.desc.arg0 / two32
    | none => 0
  let s := match (s.prot (keyPart k)).rb with
    | some r => if r.roll && r.cmd.1 = k && r.mode = 1 then committed.landings.foldl (fun s x => takeMirror s (keyPart k) x) s else s
    | none => s
  .next (rebuildStep s k 1 (nc == committed.step + 1) block [])

/-- Whether a REBUILD RECORDS comes to the read of its record list: its image is loaded and names no withdrawn bed (R10). -/
def listDue (s : State) (k : Nat) (m : Cmd) : Bool :=
  !((s.sched (keyPart k)).eng.isSome || !engTurn s (keyPart k) m) && (s.ctx k).image.isSome && !bedGone s k

/-- REBUILD RECORDS of context `k`: `list` is what the read of the record list returns, each entry 8 bytes (R339, R363); a list that names an
absent die is refused (R10). -/
def execRebuildRecords (k : Nat) (block list : Bytes) (s : State) : Res :=
  match issuable s k opRebuild with
  | none => .next (rebuildStep s k 2 false block [])
  | some m =>
    let a := m.desc.params.getD 0 0 + m.desc.params.getD 1 0 * two32
    let n := m.desc.params.getD 2 0
    let recs := (upto n).map (fun i => let w := le64 list (8 * i); (bits w 62 2, bits w 48 14, bits w 0 48))
    if m.desc.arg0 % 4 = 2 && listDue s k m && !hostMapped s (keyPart k) a (8 * n) then .next (refuseCmd s k m.id stParamUnmapped 0)
    else if m.desc.arg0 % 4 = 2 && listDue s k m && recs.any (fun x => decide (dieCount s.var ≤ x.1)) then
      .next (refuseCmd s k m.id stUnitAbsent 0)
    else .next (rebuildStep s k 2 false block recs)

/-- REBUILD PARITY of context `k` (R339). -/
def execRebuildParity (k : Nat) (block : Bytes) (s : State) : Res := .next (rebuildStep s k 3 false block [])

/-! ### RB_DATA (R338, R339) -/

/-- The bytes of a run at an address, within one codeword, put among those a REBUILD has written of it. -/
def edgeParts (t : Tbl Byte) (va : Nat) (bs : Bytes) (cw : Nat) : Tbl Byte :=
  (upto 64).foldl (fun t i =>
    let a := 64 * cw + i
    if va ≤ a && a < va + bs.length then Tbl.set t a (bs.getD (a - va) 0) else t) t

/-- A run written by a REBUILD: where its edges complete a codeword that the REBUILD has written in parts, the codeword is written whole,
which stores a fresh one (R226, R228, R321, R339). -/
def rbWrite (s : State) (p va : Nat) (bs : Bytes) : State :=
  let s := engMeter (engWrite s p va bs) p bs.length
  match (s.prot p).rb with
  | none => s
  | some r =>
    let edges := (cwsOf va bs.length).filter (fun cw => !(decide (va ≤ 64 * cw) && decide (64 * cw + 64 ≤ va + bs.length)))
    let parts := edges.foldl (fun t cw => edgeParts t va bs cw) r.parts
    let full := edges.filter (fun cw => (upto 64).all (fun i => (Tbl.find parts (64 * cw + i)).isSome))
    let s := s.setProt p { s.prot p with rb := some { r with parts := parts.filter (fun x => !full.contains (x.1 / 64)) } }
    full.foldl (fun s cw => engWrite s p (64 * cw) ((upto 64).map (fun i => Tbl.get 0 parts (64 * cw + i)))) s

/-- Write a string over several areas in a REBUILD. -/
def rbWrites (s : State) (p : Nat) : List (Nat × Nat) → Bytes → State
  | [], _ => s
  | x :: xs, bs => rbWrites (rbWrite s p x.1 (bs.take x.2)) p xs (bs.drop x.2)

/-- Store a formed unit: a parity unit, every record of a data unit, or the listed records with their check records. -/
def storeUnit (s : State) (p : Nat) (r : Rebuild) (x : Shard) (t : RbUnit) (bs : Bytes) : State :=
  if 8 ≤ t.role then rbWrite s p (parityVa x t.sigma (t.role == 9)) (padTo x.unitBytes bs)
  else
    let plan := updPlan s p
    let u := x.firstUnit + 8 * (t.sigma / 10) + t.role
    let d := unitDie plan u
    let segs := dieSegs plan d
    (unitRecs plan u).foldl (fun s y =>
      let g := segs.getD y.1 []
      if r.mode = 2 && !r.recs.contains (d, y.1, y.2) then s
      else
        let cut := padTo (recLen g) (bs.drop (unitOffset plan d y.1 y.2))
        let s := rbWrites s p (protAreas g y.2) cut
        if r.mode = 2 then rbWrite s p (gC g + 4 * y.2) (natLe 4 (crc32c cut)) else s) s

/-- RB_DATA: a formed unit arrives at the rebuilding module; `checksOk` is whether every check record read for it agreed
(R338 to R340). -/
def execRbData (n : Nat) (k : Packet) (checksOk : Bool) (s : State) : Res :=
  .next (withProt s n 7 k (fun s p rank b =>
    let y := s.prot p
    match y.rb, protTab s p with
    | some r, some pt =>
      match r.todo.find? (fun t => (pt.shards.getD t.shard {}).group == phGroup b && t.sigma == phIndex b && t.role == phSlot b) with
      | none => s
      | some t =>
        let x := pt.shards.getD t.shard {}
        let s := dropTx s p 6 x.group t.sigma rank
        let bs := (phData b).drop 16
        let maps := leNat (((phData b).drop 8).take 1)
        if r.mode = 3 && !checksOk then endRebuild s p stCheckFailed [t.shard]
        else if bs.isEmpty then
          if 8 ≤ t.role || t.askQ then endRebuild s p stSourceLost [t.shard]
          else
            let t' := { t with askQ := true }
            let s := s.setProt p { s.prot p with rb := some { r with todo := r.todo.map (fun z => if z = t then t' else z) } }
            askUnit s p pt r.nc t'
        else
          let s := storeUnit s p r x t bs
          let unit := x.firstUnit + 8 * (t.sigma / 10) + t.role
          let r' := { (s.prot p).rb.getD r with todo := r.todo.filter (· != t), maps := if 8 ≤ t.role then r.maps else r.maps ++ [(unit, maps)] }
          let y := s.prot p
          rebuildTry (s.setProt p { y with rb := some r', rbDone := satAdd 64 y.rbDone 1 }) p
    | _, _ => s))

/-! ### PROTECTION_RESEND (R328) -/

/-- PROTECTION_RESEND: the `i`-th transfer of a partition still unacknowledged 1 ms after its last packet is sent again under
new packet counters, to the position of the installed membership. -/
def execProtectionResend (p i : Nat) (s : State) : Res :=
  match (s.prot p).tx[i]? with
  | some x => .next (sendTx s p x)
  | none => .next s

end Sys2Proof.Machine
end

