-- ==== Sys2Proof/Machine/Decoder.lean ====
section
/-! DEFINITION. Sys2Proof/Machine/Decoder.lean: the decode gatherer: decode sets, rows, tiles and step boundaries (R86 to
R94). -/
namespace Sys2Proof.Machine

/-- Decode set by number. -/
def dset (s : State) (d : Nat) : DSet := Tbl.get {} s.units.dsets d

/-- Replace a decode set. -/
def setDset (s : State) (d : Nat) (x : DSet) : State := { s with units := { s.units with dsets := Tbl.set s.units.dsets d x } }

/-- Footprint of a tile of a set in bytes: its rows and its row map (R88). -/
def tileBytesOf (x : DSet) : Nat := 128 * x.row + 512

/-- Bytes of the tile store in use: every tile being filled or waiting (R87). -/
def storeUsed (s : State) : Nat :=
  (s.units.dsets.map (fun d => (d.2.tiles.length + b2n (!d.2.tile.isEmpty)) * tileBytesOf d.2)).foldl (· + ·) 0

/-! ### Step boundaries (R91 to R93) -/

/-- Write bytes at a host virtual address of a partition in 4 KiB pieces. A piece with no translation is not written, and one whose page
lacks write permission is written (DESIGN CHOICE, log 84). -/
def hostPut (s : State) (p va : Nat) (bs : Bytes) : State :=
  (upto (cdiv bs.length 4096)).foldl (fun s i =>
    match walkPage s p true (va + 4096 * i) with
    | some t => s.hostWrite (s.entry p).port (physOf s p t (va + 4096 * i)) ((bs.drop (4096 * i)).take 4096)
    | none => s) s

/-- A slot or join word of the status area (R93). -/
def statusWord (state tag : Nat) : Bytes := natLe 8 (state * 2 ^ 62 + tag % two32)

/-- The status area of a set (R93). -/
def statusArea (x : DSet) : Bytes :=
  (upto 4096).flatMap (fun i => match Tbl.find x.slots i with
    | some q => statusWord 1 q.tag
    | none => natLe 8 0) ++
  (upto 1024).flatMap (fun j => match x.joins[j]? with
    | some q => statusWord 1 q.1.tag
    | none => natLe 8 0)

/-- Key-value bytes reserved by the running sequences of a set (R90). -/
def kvUsed (x : DSet) : Nat := (x.slots.map (fun q => q.2.kv)).foldl (· + ·) 0

/-- The lowest free sequence slot of a set. -/
def freeSlot (x : DSet) : Option Nat := (upto 4096).find? (fun i => (Tbl.find x.slots i).isNone)

/-- Admit waiting joins in order of arrival while they fit: the set, and the slot and command of each admitted (R91
actions 2 and 3). -/
def admitJoins : Nat → DSet → DSet × List (Nat × Nat)
  | 0, x => (x, [])
  | n + 1, x =>
    match x.joins, freeSlot x with
    | (q, id) :: js, some i =>
      if kvUsed x + q.kv ≤ x.kvCap then
        let (y, l) := admitJoins n { x with joins := js, slots := Tbl.set x.slots i q }
        (y, (i, id) :: l)
      else (x, [])
    | _, _ => (x, [])

/-- The actions of a step boundary (R91 to R93). -/
def stepBoundary (s : State) (d : Nat) : State :=
  let x := dset s d
  let y := { x with slots := x.slots.filter (fun q => !x.leaves.any (fun l => l.1 == q.1)), leaves := [], came := [] }
  let (z, got) := admitJoins y.joins.length y
  let s := setDset s d { z with steps := [] }
  let s := x.leaves.foldl (fun s l => complete s x.key l.2 { status := stOk }) s
  let s := got.foldl (fun s g => complete s x.key g.2 { status := stOk, result := g.1 }) s
  let s := hostPut s (keyPart x.key) x.status (statusArea z)
  x.steps.foldl (fun s id => complete s x.key id { status := stOk, result := z.joins.length }) s

/-- Whether every row of the step has been dispatched (R91): a set with no running sequence is always at a boundary. -/
def atBoundary (x : DSet) : Bool := x.tile.isEmpty && x.slots.all (fun q => x.came.contains q.1)

/-- Take the boundary if the set stands at one. -/
def boundaryTry (s : State) (d : Nat) : State := if atBoundary (dset s d) then stepBoundary s d else s

/-! ### Rows and tiles (R87, R88) -/

/-- Dispatch the tile being filled. -/
def dispatchTile (s : State) (d : Nat) : State :=
  let x := dset s d
  if x.tile.isEmpty then s else boundaryTry (setDset s d { x with tile := [], tiles := x.tiles ++ [x.tile] }) d

/-- DECODE_ROW_ARRIVAL: the row of sequence slot `slot` of set `d` arrives from core `core`; a full tile store holds it under
region-full (R87). -/
def execDecodeRowArrival (d slot core : Nat) (row : Bytes) (s : State) : Res :=
  let x := dset s d
  if (Tbl.find s.units.dsets d).isNone || (Tbl.find x.slots slot).isNone || x.came.contains slot then .next s
  else if x.tile.isEmpty && decide (16777216 < storeUsed s + tileBytesOf x) then
    .next (if (s.core core).cmd.isSome then s.setCore core ((s.core core).stall 3 1) else s)
  else
    let y := { x with tile := x.tile ++ [(slot, padTo x.row row)], came := slot :: x.came }
    let s := setDset s d y
    if y.tile.length = 128 || y.slots.all (fun q => y.came.contains q.1) then .next (dispatchTile s d) else .next s

/-- DEADLINE_EXPIRY: the deadline has passed since the first row of the tile being filled arrived (R87). -/
def execDeadlineExpiry (d : Nat) (s : State) : Res := .next (dispatchTile s d)

/-- The physical cores of a set's target beds (R86, R102). -/
def targetCores (s : State) (x : DSet) : List Nat :=
  let bs := usableBeds s (keyPart x.key)
  ((upto bs.length).filter (fun i => bit x.beds i)).flatMap (fun i => (upto 16).map (fun c => 16 * bs.getD i 0 + c))

/-- The bytes of a dispatched tile: 128 rows, then the row map (R87, R88). -/
def tileImage (x : DSet) (rows : List (Nat × Bytes)) : Bytes :=
  padTo (128 * x.row) (rows.flatMap Prod.snd) ++
    (upto 128).flatMap (fun i => match rows[i]? with
      | some r => natLe 4 (r.1 * 65536)
      | none => natLe 4 0xFFFFFFFF)

/-- Whether a core can take a tile of a set: its region has the gatherer in its producer mask and room (R88, R103). A tile waits for a
command of the set's own context (DESIGN CHOICE, log 59). -/
def coreTakes (s : State) (x : DSet) (n : Nat) : Bool :=
  let c := s.core n
  let r := c.region x.task x.region
  (c.cmd.map CoreCmd.key == some x.key) && r.valid && bit r.prod 4 && decide (tileBytesOf x / 16 ≤ regionFree r)

/-- Write a tile into the region of one core: reservation, rows and row map, and the tail advance (R88, R154); an access outside the
task's window is refused at the word the reservation would start at (R152, R167). -/
def putRows (x : DSet) (bs : Bytes) (s : State) (n : Nat) : State :=
  let c := s.core n
  let r := c.region x.task x.region
  match c.cmd with
  | none => s
  | some m =>
  if !regionInWin c x.task r then regionFault s n m 5 6 x.task x.region (regionByteAddr c x.task r (r.tail + r.rsv) 0 / 16)
  else
  let seq := c.nextSeq
  let r1 := reserve r seq (bs.length / 16)
  let c1 := regionWrite x.task r (resvStart r1 seq) c 0 bs
  s.setCore n { c1.setRegion x.task x.region (tailAdvance r1 seq) with nextSeq := seq + 1 }

/-- GATHERED_TILE_DELIVERY: the oldest dispatched tile of set `d` is delivered when every target region has room (R88). The tiles
of a set without a target core stay in the tile store (DESIGN CHOICE, log 59). -/
def execGatheredTileDelivery (d : Nat) (s : State) : Res :=
  let x := dset s d
  match x.tiles with
  | [] => .next s
  | t :: ts =>
    let cores := targetCores s x
    if cores.isEmpty || !cores.all (coreTakes s x) then .next s
    else .next (cores.foldl (putRows x (tileImage x t)) (setDset s d { x with tiles := ts }))

/-! ### The commands (R92 to R94) -/

/-- Every CF.REG of a task and descriptor in an image, as its instruction words (R88). -/
def cfRegs (img : Image) (t g : Nat) : List Nat :=
  let segs := ((img.plans.flatMap (fun pl => pl.cores)).map (fun e =>
    if peCodeOff e t = 0xFFFFFFFF then (0, 0) else (512 * peCodeOff e t, 512 * peCode e t))).eraseDups
  (segs.flatMap (fun z => (img.code.drop z.1).take z.2)).filter (fun w => opOf w == some .cfReg && cfG w == g)

/-- A decode set from its block (R93). -/
def parseDset (k : Nat) (b : Bytes) : DSet :=
  { key := k, row := le32 b 0 % 65536, dlM1 := le32 b 4 % 1024, beds := le32 b 8 % 65536, region := le32 b 12 % 16
    task := le32 b 12 / 16 % 4, kvPer := le32 b 16, kvCap := le64 b 24, status := le64 b 32 }

/-- Whether a decode-set block is malformed (R86, R93). -/
def badDset (s : State) (k : Nat) (b : Bytes) : Bool :=
  let x := parseDset k b
  x.row % 16 != 0 || decide (x.row < 16) || decide (32768 < x.row) || le32 b 0 / 65536 != 0 || le32 b 4 / 1024 != 0 ||
    decide (999 < x.dlM1) || le32 b 8 / 65536 != 0 || decide (2 ^ (usableBeds s (keyPart k)).length ≤ x.beds) ||
    le32 b 12 / 64 != 0 || le32 b 20 != 0 || x.status % 4096 != 0 || (upto 24).any (fun i => b.getD (0x28 + i) 0 != 0)

/-- A gatherer command of context `k` that may issue; on a module without the gatherer, and where the loaded image names a
withdrawn bed, it completes with UNIT_ABSENT (R94, R346). -/
def withGatherer (s : State) (k op : Nat) (f : Cmd → State) : State :=
  match issuable s k op with
  | none => s
  | some m => if dgPresent s.var && !bedGone s k then f m else refuseCmd s k m.id stUnitAbsent 0

/-- A gatherer command that names a set of its context; another set is malformed. -/
def withSet (s : State) (k op : Nat) (f : Cmd → Nat → DSet → State) : State :=
  withGatherer s k op (fun m =>
    let d := m.desc.arg0 % 64
    match Tbl.find s.units.dsets d with
    | some x => if x.key = k then f m d x else refuseCmd s k m.id stMalformed 0
    | none => refuseCmd s k m.id stMalformed 0)

/-- DG_SET of context `k` with the block its read returns (R93): a malformed block is found before a region that is too small, and
that before a full gatherer (DESIGN CHOICE, log 59). -/
def execDgSet (k : Nat) (block : Bytes) (s : State) : Res :=
  .next (withGatherer s k opDgSet (fun m =>
    match (s.ctx k).image with
    | none => refuseCmd s k m.id stMalformed 0
    | some img =>
      let x := parseDset k block
      if !hostMapped s (keyPart k) m.desc.arg0 64 then refuseCmd s k m.id stParamUnmapped 0
      else if badDset s k block then refuseCmd s k m.id stMalformed 0
      else if (cfRegs img x.task x.region).any (fun w => decide ((cfSizeM1 w + 1) * 4096 < tileBytesOf x)) then
        refuseCmd s k m.id stRegionTooSmall 0
      else
        match (upto 64).find? (fun d => (Tbl.find s.units.dsets d).isNone) with
        | none => refuseCmd s k m.id stGathererFull 0
        | some d => complete (setDset s d x) k m.id { status := stOk, result := d }))

/-- DG_JOIN of context `k`; a reservation too large is found before a full join queue (R90, R92, R93; DESIGN CHOICE, log 59). -/
def execDgJoin (k : Nat) (s : State) : Res :=
  .next (withSet s k opDgJoin (fun m d x =>
    let q : DSeq := { tag := m.desc.arg1 % two32, kv := m.desc.arg1 / two32 % two32 * x.kvPer }
    if x.kvCap < q.kv then complete s k m.id { status := stReservation }
    else if 1024 ≤ x.joins.length then complete s k m.id { status := stGathererFull }
    else
      let s := setPhase (setDset s d { x with joins := x.joins ++ [(q, m.id)] }) k m.id .issued
      if x.slots.isEmpty then boundaryTry s d else s))

/-- DG_LEAVE of context `k` (R91 to R93): of a running sequence with the tag, first one whose leave does not wait yet; else of a
waiting join. A second leave of a sequence that is leaving completes with the first, at the boundary that removes it. -/
def execDgLeave (k : Nat) (s : State) : Res :=
  .next (withSet s k opDgLeave (fun m d x =>
    let tag := m.desc.arg1 % two32
    let leave (i : Nat) : State := setPhase (setDset s d { x with leaves := x.leaves ++ [(i, m.id)] }) k m.id .issued
    let tagged := x.slots.filter (fun q => q.2.tag == tag)
    match tagged.find? (fun q => !x.leaves.any (fun l => l.1 == q.1)) with
    | some (i, _) => leave i
    | none =>
      match x.joins.find? (fun j => j.1.tag == tag) with
      | some (_, id) =>
        let s := setDset s d { x with joins := x.joins.filter (fun j => j.2 != id) }
        complete (complete s k id { status := stCancelled }) k m.id { status := stOk }
      | none =>
        match tagged with
        | (i, _) :: _ => leave i
        | [] => complete s k m.id { status := stMalformed }))

/-- DG_STEP of context `k` (R92, R93). -/
def execDgStep (k : Nat) (s : State) : Res :=
  .next (withSet s k opDgStep (fun m d x =>
    let s := setPhase (setDset s d { x with steps := x.steps ++ [m.id] }) k m.id .issued
    if x.slots.isEmpty then boundaryTry s d else s))

end Sys2Proof.Machine
end

