-- ==== Sys2Proof/Machine/Contexts.lean ====
section
/-! DEFINITION. Sys2Proof/Machine/Contexts.lean: contexts, queues and descriptor fetch, functions and layouts (R349 to R361,
R368, R373). -/
namespace Sys2Proof.Machine

/-! ### Who may write (R349, R355) -/

/-- Whether a context exists (R355). -/
def ctxExists (s : State) (k : Nat) : Bool :=
  decide (keyPart k < 16) && (s.entry (keyPart k)).used && decide (keyCtx k ≤ (s.entry (keyPart k)).maxCtxM1)

/-- Whether a function is a VF of a partition. -/
def vfOfPart (s : State) (fn : Fn) (p : Nat) : Bool := partOfFn s fn == some p

/-- Whether a function is the management function of a partition's port. -/
def mgmtOfPart (s : State) (fn : Fn) (p : Nat) : Bool := !s.shut && (s.entry p).used && fn == .mgmt (s.entry p).port

/-- Whether a function owns a context. -/
def owns (s : State) (fn : Fn) (k : Nat) : Bool :=
  (s.ctx k).state != .closed && vfOfPart s fn (keyPart k) && fn == .vf (s.entry (keyPart k)).port (s.ctx k).vf

/-- Whether a function may write the registers of a context: its owner, or while it is CLOSED a VF of the partition. -/
def mayWriteCtx (s : State) (fn : Fn) (k : Nat) : Bool :=
  ctxExists s k && (owns s fn k || ((s.ctx k).state == .closed && vfOfPart s fn (keyPart k)))

/-! ### OPEN, RESUME, FLUSH, TEARDOWN, CLOSE (R355, R356) -/

/-- Whether a submission queue is configured (R373). -/
def sqOk (q : Queue) : Bool := (q.sqFmt == 1 && decide (6 ≤ q.sqLog2) && decide (q.sqLog2 ≤ 16)) || (q.sqFmt == 2 && q.sqLog2 == 0)
/-- Whether a completion queue is configured (R373). -/
def cqOk (q : Queue) : Bool := decide (4 ≤ q.cqLog2) && decide (q.cqLog2 ≤ 16)

/-- A queue at its opening: nothing submitted, fetched or written. -/
def freshQueue (q : Queue) : Queue :=
  { q with sub := 0, pos := 0, fetch := 0, lastDesc := 0, head := 0, tail := 0, phase := true, subs := [], cmds := [] }

/-- OPEN written to PT_CTX_CTL; while a LAYOUT_SWITCH changes the context's slot it is discarded (R355, R447). -/
def execOpen (fn : Fn) (k : Nat) (s : State) : Res :=
  let c := s.ctx k
  match fn with
  | .mgmt _ => .next s
  | .vf _ v =>
    if !ctxExists s k || !vfOfPart s fn (keyPart k) || c.state != .closed || !sqOk c.q || !cqOk c.q || slotSwitching s (keyPart k) then .next s
    else
      let c := { c with vf := v, q := freshQueue c.q, fltValid := false, fltCause := 0, fltCore := 0, fltCmd := 0, runNs := 0
                        keyed := false, key := 0, cut := [], td := none, opening := c.opening + 1
                        stage := { step := shownStep c.stage, entry := shownEntry c.stage, idleNs := c.stage.idleNs } }
      .next (usageOpen (setCtxState (s.setCtx k c) k .open) k c.tenant)

/-- RESUME (R355). -/
def execResume (fn : Fn) (k : Nat) (s : State) : Res :=
  if owns s fn k && (s.ctx k).state == .stopped then .next (setCtxState s k .open) else .next s

/-- FLUSH: every submitted command that has not started is cancelled, those not yet fetched as they are fetched (R355). -/
def execFlush (fn : Fn) (k : Nat) (s : State) : Res :=
  if owns s fn k && (s.ctx k).state == .stopped then
    .next (endCmds (cutRest s k stCancelled) k stCancelled (fun m => m.phase != CmdPhase.issued))
  else .next s

/-- TEARDOWN by the owner, or by the management function, which also moves the TDI of the owner's VF to ERROR (R350, R355,
R356). -/
def execTeardown (fn : Fn) (k : Nat) (s : State) : Res :=
  let c := s.ctx k
  if !ctxExists s k || !(c.state == .open || c.state == .stopped) then .next s
  else if owns s fn k then .next (teardown s k stCancelled 0 0 0 false)
  else if mgmtOfPart s fn (keyPart k) then
    .next (tdiError (teardown s k stAborted 6 0 0 true) (s.entry (keyPart k)).port c.vf)
  else .next s

/-- The context becomes CLOSED or FAULTED: its usage record is closed and its command key discarded (R374, R390). -/
def leaveCtx (s : State) (k : Nat) (st : CtxState) (flags : Nat) : State :=
  let s := usageClose (unloadImage (dropSets s k) k) k flags
  setCtxState (s.setCtx k { s.ctx k with keyed := false, key := 0, td := none, cut := [] }) k st

/-- CLOSE (R355). -/
def execClose (fn : Fn) (k : Nat) (s : State) : Res :=
  let c := s.ctx k
  let idle := (c.state == .open || c.state == .stopped) && c.q.cmds.isEmpty && unfetched c.q == 0
  if owns s fn k && (idle || c.state == .faulted) then .next (leaveCtx s k .closed 0) else .next s

/-- TEARDOWN_END: every submitted command has completed and no sweep runs for the context: actions 5 and 6 of R356, or the end that a
function-level reset gives (R351). -/
def execTeardownEnd (k : Nat) (s : State) : Res :=
  let c := s.ctx k
  let busy := (s.upd (keyPart k)).cmd.map Prod.fst == some k
  match c.td with
  | none => .next s
  | some t =>
    if c.state != .tearingDown || busy || !c.q.cmds.isEmpty then .next s
    else if t.reset then .next (endContext s k fReset)
    else if unfetched c.q != 0 then .next s
    else .next (leaveCtx s k (if t.fault then .faulted else .closed) (if t.fault then fFault else 0))

/-! ### Queues (R357 to R361) -/

/-- Whether a function may write the doorbell and head of a queue. -/
def mayRing (s : State) (fn : Fn) : QRef → Bool
  | .ctx p c => owns s fn (64 * p + c)
  | .mgmt n => fn == .mgmt n && bit (hostMask s.var) n

/-- The queue that a reference names. -/
def hostQueue (s : State) : QRef → Queue
  | .ctx p c => (s.ctx (64 * p + c)).q
  | .mgmt n => s.mq n

/-- Replace it. -/
def setHostQueue (s : State) (q : QRef) (x : Queue) : State :=
  match q with
  | .ctx p c => s.setCtx (64 * p + c) { s.ctx (64 * p + c) with q := x }
  | .mgmt n => s.setMq n x

/-- The first runs that hold n descriptors. -/
def takeRuns : Nat → List (Nat × Nat) → List (Nat × Nat)
  | _, [] => []
  | n, (c, no) :: l => if n = 0 then [] else (min n c, no) :: takeRuns (n - c) l

/-- A queue after doorbell write number `no`: descriptors that it submits are a run of their own, and one that takes some back shortens the
last runs (R357, R358, R364). -/
def submit (q : Queue) (v no : Nat) : Queue :=
  let q := { q with sub := v }
  let had := (q.subs.map Prod.fst).foldl (· + ·) 0
  let n := unfetched q
  { q with subs := if had < n then q.subs ++ [(n - had, no)] else takeRuns n q.subs }

/-- The number of the next doorbell write of a queue's partition, and the state that has counted it. -/
def nextRing (s : State) : QRef → Nat × State
  | .ctx p _ => let x := s.sched p; (x.rings, s.setSched p { x with rings := x.rings + 1 })
  | .mgmt _ => (0, s)

/-- SQ_DOORBELL: a write to HQ_SQ_DB (R357, R358). -/
def execSqDoorbell (fn : Fn) (q : QRef) (value : Nat) (s : State) : Res :=
  let x := hostQueue s q
  let v := value % two32
  if !mayRing s fn q || !sqOk x then .next s
  else if x.sqFmt = 1 && decide (2 ^ x.sqLog2 ≤ v) then .next s
  else
    let (no, s) := nextRing s q
    .next (setHostQueue s q (submit x v no))

/-- CQ_HEAD_WRITE: a write to HQ_CQ_HEAD within the run from the head to the tail (R360). -/
def execCqHeadWrite (fn : Fn) (q : QRef) (value : Nat) (s : State) : Res :=
  let x := hostQueue s q
  let v := value % two32
  if !mayRing s fn q || decide (cqSize x ≤ v) || decide (cqUnread x < (v + cqSize x - x.head) % cqSize x) then .next s
  else .next (setHostQueue s q { x with head := v })

/-- A descriptor from its bytes (R359). -/
def parseDesc (fmt : Nat) (b : Bytes) : Desc :=
  { opcode := le32 b 0 / 65536, irq := bit (le32 b 0) 1, fence := bit (le32 b 0) 0, cmdId := le32 b 4
    arg0 := le64 b 8, arg1 := le64 b 0x10, params := (upto 4).map (fun i => le32 b (0x18 + 4 * i)), arg2 := le64 b 0x28
    energy := if fmt = 2 then le32 b 0x40 else 0 }

/-- The largest values of ARG0, ARG1 and ARG2 that a command may name, as widths in bits, and whether it takes PARAM fields
(R93, R363). -/
def argWidths (d : Desc) : Nat × Nat × Nat × Bool :=
  let op := d.opcode
  if op = 0x01 then (64, 32, 0, false)
  else if op = 0x02 || op = 0x32 then (0, 0, 0, false)
  else if op = 0x10 then (12, 0, 0, true)
  else if op = 0x11 then (32, 0, 0, false)
  else if op = 0x12 then (32, 64, 64, false)
  else if op = 0x22 then (64, 64, 9, false)
  else if op = 0x31 then (2, if d.arg0 % 4 = 1 then 64 else 0, 0, false)
  else if op = 0x33 then (32, 64, 32, false)
  else if op = 0x34 then (64, 64, 32, d.arg0 % 4 == 2)
  else if op = 0x41 then (6, 64, 0, false)
  else if op = 0x42 then (6, 32, 0, false)
  else if op = 0x43 then (6, 0, 0, false)
  else (64, 0, 0, false)

/-- Whether the fields of a descriptor that its command does not name are zero (R363). -/
def argsOk (d : Desc) : Bool :=
  let (w0, w1, w2, ps) := argWidths d
  decide (d.arg0 < 2 ^ w0) && decide (d.arg1 < 2 ^ w1) && decide (d.arg2 < 2 ^ w2) &&
    (ps || d.params.all (· == 0)) &&
    (d.opcode != 0x34 || (bits d.arg0 2 30 == 0 && (d.arg0 % 4 != 2 || d.params.getD 3 0 == 0)))

/-- Check 4 of R361: the opcode is defined, allowed on the queue, and the reserved bytes are zero. -/
def descOk (fmt : Nat) (keyed mgmt : Bool) (b : Bytes) : Bool :=
  let d := parseDesc fmt b
  let cls := classOf d.opcode
  cls != .none && (cls == .mgmt) == mgmt && bits (le32 b 0) 2 14 == 0 && argsOk d &&
    (if fmt = 1 then (upto 16).all (fun i => b.getD (0x30 + i) 0 == 0)
     else (upto 44).all (fun i => b.getD (0x44 + i) 0 == 0) && (keyed || (upto 16).all (fun i => b.getD (0x70 + i) 0 == 0)))

/-- The status of the first check of R361 after the read that a descriptor fails, if any. -/
def descFails (c : Ctx) (b : Bytes) : Option Nat :=
  if c.q.sqFmt = 2 && c.keyed && b.drop 0x70 != natBe 16 (Config.cmac c.key (b.take 0x70)) then some stIntegrity
  else if c.q.sqFmt = 2 && le64 b 0x38 != c.tenant then some stTenant
  else if !descOk c.q.sqFmt c.keyed false b then some stMalformed
  else none

/-- The address of the next descriptor: of QF1 its slot, of QF2 the base or the NEXT field read afresh; none for a bad NEXT
(R357, R358). -/
def nextDesc (q : Queue) (next : Nat) : Option Nat :=
  if q.sqFmt = 1 then some (q.sqBase + 64 * q.pos)
  else if q.fetch = 0 then some q.sqBase
  else if next = 0 || next % 128 ≠ 0 then none else some next

/-- A queue after one descriptor has been fetched as fetch `no` of its partition: its command is outstanding. -/
def fetched (q : Queue) (addr no : Nat) (d : Desc) : Queue :=
  { q with fetch := q.fetch + 1, pos := if q.sqFmt = 1 then (q.pos + 1) % 2 ^ q.sqLog2 else q.pos, lastDesc := addr
           subs := cutNext q.subs
           cmds := q.cmds ++ [{ id := q.fetch, desc := d, fetchNo := no, subNo := (q.subs.map Prod.snd).headD 0 }] }

/-- The descriptor of a completion for a read that returned no data: CMD_ID 0xFFFF_FFFF (R361). -/
def noDesc : Desc := { cmdId := 0xFFFFFFFF }

/-- Fetch of a descriptor of a context (R360, R361): `data` is what its read returns, `next` the NEXT field of the previous
descriptor; none for a read that returns no data. -/
def fetchCtx (s : State) (k : Nat) (data : Option Bytes) (next : Option Nat) : State :=
  let c := s.ctx k
  let q := c.q
  let runs := c.state == .open || c.state == .stopped || (c.state == .tearingDown && !c.td.any Teardown.reset)
  if !runs || s.boot.warming || unfetched q == 0 || decide (cqFree q ≤ q.cmds.length) || (c.state != .tearingDown && tdiOf s (s.entry (keyPart k)).port c.vf == .error) then s
  else
    let addr := match next with
      | some n => nextDesc q n
      | none => if q.sqFmt = 2 && decide (0 < q.fetch) then none else nextDesc q 0
    let id := q.fetch
    let x := s.sched (keyPart k)
    let c' := { c with cut := cutNext c.cut }
    let s := s.setSched (keyPart k) { x with fetches := x.fetches + 1 }
    match addr, data with
    | some a, some b =>
      let d := parseDesc q.sqFmt b
      let s := s.setCtx k { c' with q := fetched q a x.fetches d }
      let ended := match c.cut with
        | e :: _ => some e.2
        | [] => c.td.map Teardown.status
      match (if c.td.isSome then none else descFails c b), ended with
      | some st, _ => complete s k id { status := st, notStarted := true }
      | none, some st => complete s k id { status := st, notStarted := true }
      | none, none => s
    | _, _ =>
      let s := s.setCtx k { c' with q := fetched q q.lastDesc x.fetches noDesc }
      let s := complete s k id { status := stFetchError, result := id % two32, notStarted := true }
      teardown s k stAborted 4 0 0xFFFF true

/-- Fetch of a descriptor of a management queue (R361, R362, R387). -/
def fetchMgmt (s : State) (n : Nat) (data : Option Bytes) (next : Option Nat) : State :=
  let q := s.mq n
  if !bit (hostMask s.var) n || s.boot.warming || !sqOk q || !cqOk q || unfetched q == 0 || decide (cqFree q ≤ q.cmds.length) then s
  else
    let addr := match next with
      | some a => nextDesc q a
      | none => if q.sqFmt = 2 && decide (0 < q.fetch) then none else nextDesc q 0
    let id := q.fetch
    let no := s.gth.fetches
    let s := { s with gth := { s.gth with fetches := no + 1 } }
    match addr, data with
    | some a, some b =>
      let s := s.setMq n (fetched q a no (parseDesc q.sqFmt b))
      if s.shut then
        completeMgmt s n id { status := if s.blv.fatal && !s.gth.locked then stUnitAbsent else stSignature, notStarted := true }
      else if descOk q.sqFmt false true b then s else completeMgmt s n id { status := stMalformed, notStarted := true }
    | _, _ =>
      completeMgmt (s.setMq n (fetched q q.lastDesc no noDesc)) n id { status := stFetchError, result := id % two32, notStarted := true }

/-- DESCRIPTOR_FETCH: the next submitted descriptor of a queue is fetched and checked (R360, R361). -/
def execDescriptorFetch (q : QRef) (data : Option Bytes) (next : Option Nat) (s : State) : Res :=
  match q with
  | .ctx p c => .next (fetchCtx s (64 * p + c) data next)
  | .mgmt n => .next (fetchMgmt s n data next)

/-- EVMASK_WRITE: a write to PT_CTX_EVMASK; one interrupt if it enables a bit already set (R373). -/
def execEvmaskWrite (fn : Fn) (k value : Nat) (s : State) : Res :=
  if !mayWriteCtx s fn k then .next s
  else
    let c := s.ctx k
    let v := value % 32
    let s := s.setCtx k { c with evmask := v }
    if (upto 5).any (fun b => bit v b && !bit c.evmask b && bit c.event b) then
      .next (sendIrq s (s.entry (keyPart k)).port c.vf c.q.cqVec)
    else .next s

/-- WATCHDOG_EXPIRED: the core-class command of partition `p` has run 100 ms, halted time left out (R368). -/
def execWatchdogExpired (p : Nat) (s : State) : Res :=
  match (s.sched p).run with
  | none => .next s
  | some r =>
    match (s.ctx r.key).q.cmds.find? (fun m => m.id == r.cmd) with
    | none => .next s
    | some m =>
      if m.runNs < 100000000 then .next s
      else .next (stopRun (report s 55 (evtOf 0x006 1 0xFF r.key 0)) p stWatchdog 0)

/-! ### Functions (R350, R351) -/

/-- FUNCTION_LEVEL_RESET of a VF (R350, R351, R374): its contexts end without records, its TDI enters ERROR, and the keys of
its IDE streams go. -/
def execFunctionLevelReset (port vf : Nat) (s : State) : Res :=
  let s := (vfKeys s port vf).foldl resetContext s
  let s := { s with gth := { s.gth with ide := s.gth.ide.filter (fun i => !(i.port == port && i.vf == vf)) } }
  .next (tdiError s port vf)

/-- VF_CONFIG_CHANGE: a change to a VF's BAR or its SR-IOV control (R350). -/
def execVfConfigChange (port vf : Nat) (s : State) : Res := .next (tdiError s port vf)

/-- Whether a session of an endpoint is up. -/
def sessionUp (s : State) (e : Endpoint) (id : Nat) : Bool :=
  s.gth.spdm.any (fun x => x.1 == e && x.2.sessions.any (fun y => y.id == id && y.up))

/-- The TDISP error response, as a result of the model: 0x100 plus its message code (PRESUMED, log 42). -/
def tdispError : Nat := 0x17F

/-- TDISP_REQUEST: a TDISP message for a VF's TDI in a secured session of its port's function 0; a lock while a LAYOUT_SWITCH changes
its partition's slot gets an error response (R350, R379, R382, R447). -/
def execTdispRequest (port vf : Nat) (msg : TdispMsg) (session : Nat) (s : State) : Res :=
  if !sessionUp s (.fn (.mgmt port)) session || vf = 0 || 64 < vf then .next s
  else
    match msg, tdiOf s port vf with
    | .lock, .unlocked =>
      if (partOfVf s port vf).any (slotSwitching s) then .next (answer s 0xFE tdispError [] false) else .next (setTdi s port vf .locked)
    | .start, .locked => .next (setTdi s port vf .run)
    | .stop, .unlocked => .next s
    | .stop, _ =>
      let s := setTdi s port vf .unlocked
      match partOfVf s port vf with
      | some p => .next (cryptoErase s p)
      | none => .next s
    | _, _ => .next s

/-! ### Layouts (R354) -/

/-- Dies that hold a bed of an entry. -/
def entryDies (e : LayoutEntry) : List Nat := (upto 4).filter (fun d => bits e.beds (4 * d) 4 != 0)

/-- Whether a slot is changed between two layouts (R354). -/
def slotChanged (old new : Layout) (p : Nat) : Bool :=
  let a := old.entries.getD p {}
  let b := new.entries.getD p {}
  a != b || (entryDies a ++ entryDies b).any (fun d => bits old.split (2 * d) 2 != bits new.split (2 * d) 2)

/-- Tear a changed slot down: it is crypto-erased and nothing of its partition is left (R354 action 3, R382). -/
def dropSlot (s : State) (p : Nat) : State :=
  let ks := (upto 64).map (· + 64 * p)
  let s := ks.foldl freeLanterns (cryptoErase s p)
  let s := ks.foldl (fun s k => if (Tbl.find s.parts.ctxs k).isSome then s.setCtx k { opening := (s.ctx k).opening } else s) s
  { s with parts := { s.parts with sched := Tbl.del s.parts.sched p, xlate := Tbl.del s.parts.xlate p, upd := Tbl.del s.parts.upd p
                                   prot := Tbl.del s.parts.prot p, jobs := Tbl.del s.parts.jobs p }
           gth := { s.gth with uses := s.gth.uses.filter (fun x => keyPart x.1 != p) } }

/-- The stack-cache counters of every partition, STM_PT_CPERR among them, start again when a layout is selected (R242; DESIGN CHOICE,
log 71). -/
def restartCounts (s : State) : State :=
  { s with parts := { s.parts with xlate := s.parts.xlate.map (fun x => (x.1, { x.2 with chit := 0, cmiss := 0, cperr := 0 })) } }

/-- A layout takes effect (R354 action 4): used changed slots are keyed, unused ones hold no key. Pool bytes stay at their pool
addresses where the base of an unchanged slot's share moves (R231; DESIGN CHOICE, log 71). -/
def applyLayout (s : State) (new : Layout) (changed : List Nat) : State :=
  let s := restartCounts (changed.foldl dropSlot s)
  let s := { s with lay := { s.lay with active := new }, alm := { s.alm with energy := [] } }
  (upto 16).foldl (fun s p => if (s.entry p).used then s
    else { s with gth := { s.gth with slots := Tbl.del s.gth.slots p }
                  units := { s.units with chk := s.units.chk.map (fun x =>
                    if x.2.toPart && x.2.part == p then (x.1, chkReset { x.2 with toPart := false, port := 0, part := 0 } false)
                    else x) } }) s

/-- Whether a LAYOUT_SWITCH is the earliest fetched of those on the management queues (R447). -/
def switchTurn (s : State) (m : Cmd) : Bool :=
  (upto 4).all (fun i => (s.mq i).cmds.all (fun x => x.desc.opcode != opLayoutSwitch || decide (m.fetchNo ≤ x.fetchNo)))

/-- Actions 3 and 4 of R354 for the switch under way: its changed slots are torn down and the new entries take effect. -/
def finishSwitch (s : State) : State :=
  match s.lay.switch with
  | none => s
  | some w =>
    let s := applyLayout s w.layout w.changed
    { s with lay := { s.lay with switchCtr := w.counter, switch := none } }

/-- LAYOUT_SWITCH on the management queue of port `n`: its switch point, at which it is refused or the changed slots are set apart, and, as
the row comes again, its actions 3 and 4 (R354, R383, R447; log 77). -/
def execLayoutSwitch (n : Nat) (block : Bytes) (sigOk devOk : Bool) (s : State) : Res :=
  match s.lay.switch, mgmtHead s n opLayoutSwitch with
  | some w, _ => if w.port ≠ n then .next s
    else match w.cmd with
      | some id => .next (completeMgmt (finishSwitch s) n id { status := stOk })
      | none => .next (finishSwitch s)
  | none, none => .next s
  | none, some m =>
    if !switchTurn s m then .next s
    else if sbFails s block opLayoutSwitch 3 s.lay.switchCtr sigOk devOk then .next (completeMgmt s n m.id { status := stSignature })
    else
      match s.lay.stored.find? (fun l => l.number == sbPayload block % 8) with
      | none => .next (completeMgmt s n m.id { status := stMalformed })
      | some new =>
        let changed := (upto 16).filter (slotChanged s.lay.active new)
        match changed.find? (fun p => !(openKeys s p).isEmpty || tdiHeld s p) with
        | some p => .next (completeMgmt s n m.id { status := stLayoutBusy, result := p })
        | none =>
          let w : Switching := { port := n, cmd := some m.id, layout := new, counter := sbCounter block, changed := changed }
          .next { s with lay := { s.lay with switch := some w } }

end Sys2Proof.Machine
end

