-- ==== Sys2Proof/Machine/AdmitCode.lean ====
section
/-! DEFINITION. Sys2Proof/Machine/AdmitCode.lean: program admission of code segments: checks 3 to 10 of R125, with the flow
of control they follow (R88, R89, R104 to R119, R126, R151, R174, R175). -/
namespace Sys2Proof.Machine

/-! ### Words (R104 to R118, check 3) -/

/-- Whether a field is zero. -/
def zeroAt (w lo n : Nat) : Bool := bits w lo n == 0

/-- Whether the reserved fields of an instruction word are zero and its fields in range (R103 to R118, R127). -/
def fieldsOk (op : Op) (w : Nat) : Bool :=
  match op with
  | .mxMm => true
  | .mxCv => zeroAt w 44 5
  | .mxDr => zeroAt w 41 8 && zeroAt w 8 26 && zeroAt w 4 3
  | .mxFmt => zeroAt w 0 13
  | .vxB => decide (vFunct w ≤ 6) && decide (vFmt w ≤ 2) && !bit w 0 && (vBForm w != 3 || (zeroAt w 14 7 && !bit w 1))
  | .vxT =>
    decide (vFunct w ≤ 2) && decide (vFmt w ≤ 2) &&
      (if tBForm w = 3 then zeroAt w 25 4 && !bit w 11 else zeroAt w 5 5) &&
      (if tCForm w = 3 then zeroAt w 21 4 && !bit w 10 else zeroAt w 0 5)
  | .vxCvt | .vxCopy | .vxNeg | .vxAbs | .vxTrn | .vxRsum | .vxRmax | .vxRsumsq => true
  | .fxFwd => decide (vFunct w ≤ 9) && decide (vFmt w ≤ 2) && zeroAt w 0 3 && zeroAt w 9 12 && !bit w 3
  | .fxBwi => decide (vFunct w ≤ 9) && decide (vFmt w ≤ 2) && zeroAt w 0 3
  | .fxBwo => decide (vFunct w ≤ 9) && decide (vFmt w ≤ 2) && zeroAt w 0 3 && vFunct w != 1 && vFunct w != 9
  | .stIn => !bit w 34 && zeroAt w 0 26
  | .stOut => zeroAt w 0 26
  | .stWch => zeroAt w 40 4 && zeroAt w 0 35
  | .stTil => zeroAt w 0 33 && !(tilWide w && tilTile w % 2 == 1)
  | .lnArm | .lnSig | .lnWait | .lnWtc => zeroAt w 32 4 && (if lnVsrc w then zeroAt w 0 32 else zeroAt w 36 5)
  | .sqNop | .sqEnd => zeroAt w 0 56
  | .sqLi => zeroAt w 52 4 && zeroAt w 32 15
  | .sqAlu => decide (sqFunct w ≤ 12) && zeroAt w 32 4
  | .sqLoop => zeroAt w 52 4 && zeroAt w 32 10 && loopBody w != 0
  | .sqBr => decide (sqFunct w ≤ 6) && zeroAt w 32 10
  | .sqLdw | .sqStw => zeroAt w 52 4 && zeroAt w 32 11 && imm32 w % 4 == 0
  | .cfReg => zeroAt w 0 22 && !bit w 26
  | .cfWin => zeroAt w 0 27 && cfWCode w != 0
  | .cfTask => zeroAt w 0 38 && cfW w != 0
  | .cfRng => zeroAt w 0 30

/-- The operation of a word that R104 allows. -/
def goodOp (w : Nat) : Option Op :=
  match opOf w with
  | some op => if fieldsOk op w then some op else none
  | none => none

/-- Kinds that an ST instruction may name (R169). -/
def kindOk (op : Op) (kind : Nat) : Bool :=
  match op with
  | .stIn => decide (1 ≤ kind) && decide (kind ≤ 5)
  | .stOut => kind == 1 || kind == 2 || kind == 3 || kind == 5 || kind == 6
  | .stWch => kind == 7
  | _ => false

/-- Whether an operation names a stream descriptor. -/
def namesDesc (op : Op) : Bool := op == .stIn || op == .stOut || op == .stWch

/-! ### Paths (check 5) -/

/-- The nodes reached from `todo`, depth first, each once. -/
def search (next : Nat → List Nat) : Nat → List Nat → List Nat → List Nat
  | 0, _, seen => seen
  | _, [], seen => seen
  | f + 1, p :: ps, seen => if seen.contains p then search next f ps seen else search next f (next p ++ ps) (p :: seen)

/-- Target of an SQ.BR; one before the segment reads as a place beyond every segment. -/
def brTarget (p w : Nat) : Nat :=
  let t : Int := p + sext 32 (imm32 w)
  if t < 0 then 2 ^ 33 else t.toNat

/-- Where control goes from the instruction at `p`, back edges aside; nowhere from a word that R104 refuses. An SQ.LOOP has the
edge into its body and the edge past it whatever its COUNT (DESIGN CHOICE, log 61). -/
def flowOf (p w : Nat) : List Nat :=
  match goodOp w with
  | none => []
  | some .sqEnd => []
  | some .sqBr => if sqFunct w = 0 then [brTarget p w] else [p + 1, brTarget p w]
  | some .sqLoop => [p + 1, p + loopBody w + 1]
  | some _ => [p + 1]

/-- One task's code segment as a core-plan entry runs it: the task, its words, the size and code size of each window that it
can run in, where it can start, its descriptors, the code sizes of windows 1 to 3, and whether its core is at the head of its
weight sub-chain. -/
structure Seg where
  task   : Nat
  words  : List Nat
  wins   : List (Nat × Nat)
  starts : List Nat
  descs  : List DescWords
  lens   : List Nat
  isHead : Bool
  deriving DecidableEq, Repr

/-- An analysed segment: the reachable places with their words and successors, and the loops as first and last place of
their bodies, with the place of the SQ.LOOP before the first. -/
structure Flow where
  seg   : Seg
  nodes : List (Nat × Nat × List Nat)
  loops : List (Nat × Nat)
  deriving DecidableEq, Repr

/-- Where control can go when it reaches `q` from `p`: `q`, and the start of every loop whose body `p` is in and ends just
before `q` (R117). -/
def withBack (loops : List (Nat × Nat)) (p q : Nat) : List Nat :=
  q :: (loops.filter (fun l => decide (l.1 < p) && decide (p ≤ l.2) && q == l.2 + 1)).map (fun l => l.1 + 1)

/-- Analyse a segment. -/
def flowSeg (g : Seg) : Flow :=
  let n := g.words.length
  let fwd (p : Nat) : List Nat := (flowOf p (g.words.getD p 0)).filter (fun q => decide (q < n))
  let seen := (search fwd (4 * n + 4) (g.starts.filter (fun q => decide (q < n))) []).mergeSort
  let loops := seen.filterMap (fun p =>
    let w := g.words.getD p 0
    if goodOp w = some .sqLoop then some (p, p + loopBody w) else none)
  { seg := g, loops := loops
    nodes := seen.map (fun p =>
      let w := g.words.getD p 0
      (p, w, ((flowOf p w).flatMap (withBack loops p)).eraseDups)) }

/-- Word at a place of a flow. -/
def Flow.word (f : Flow) (p : Nat) : Nat := f.seg.words.getD p 0

/-- Reachable places before `q`. -/
def Flow.preds (f : Flow) (q : Nat) : List Nat := (f.nodes.filter (fun x => x.2.2.contains q)).map Prod.fst

/-- Places on paths to `p`, going no further back than a place that `stop` marks. -/
def Flow.back (f : Flow) (stop : Nat → Bool) (p : Nat) : List Nat :=
  search (fun q => if stop q then [] else f.preds q) (4 * f.nodes.length + 4) (f.preds p) []

/-- Whether some path reaches `p` from a start with none of the marked places before it. -/
def Flow.bare (f : Flow) (stop : Nat → Bool) (p : Nat) : Bool :=
  f.seg.starts.contains p || (f.back stop p).any (fun q => !stop q && f.seg.starts.contains q)

/-- The marked places whose effect can be in force at `p`. -/
def Flow.defs (f : Flow) (mark : Nat → Bool) (p : Nat) : List Nat := (f.back mark p).filter mark

/-- Whether the word at a place is one operation. -/
def Flow.isOp (f : Flow) (op : Op) (q : Nat) : Bool := goodOp (f.word q) == some op

/-- The CF.REG of region `g` at a place. -/
def Flow.isReg (f : Flow) (g q : Nat) : Bool := f.isOp .cfReg q && cfG (f.word q) == g

/-- CF.REGs of a region in force at `p` (R126). -/
def Flow.regs (f : Flow) (g p : Nat) : List Nat := f.defs (f.isReg g) p

/-- The array formats in force at `p` (R106). -/
def Flow.fmts (f : Flow) (p : Nat) : List Nat := (f.defs (f.isOp .mxFmt) p).map f.word

/-- Whether an operation needs an array format: an array operation, or a CVT with an MX format (R106, R109). -/
def needsFmt (op : Op) (w : Nat) : Bool :=
  match op with
  | .mxMm | .mxCv | .mxDr => true
  | .vxCvt => isMx (uFmtS w) || isMx (uFmtR w)
  | _ => false

/-- The array formats an instruction is examined under; 0 for one that reads none. -/
def Flow.under (f : Flow) (p : Nat) (op : Op) (w : Nat) : List Nat := if needsFmt op w then f.fmts p else [0]

/-- Whether control at `p` may break the flow rules: it leaves the segment, crosses a loop body, nests beyond 4 loops, has
no path to SQ.END, or names a task entry outside that task's segment (check 5, R117, R118). -/
def badFlow (f : Flow) (ends : List Nat) (p w : Nat) (next : List Nat) : Bool :=
  let n := f.seg.words.length
  next.any (fun q => decide (n ≤ q)) || !ends.contains p ||
    (match goodOp w with
     | some .sqBr => f.loops.any (fun l =>
        (decide (l.1 < p) && decide (p ≤ l.2)) != (decide (l.1 < brTarget p w) && decide (brTarget p w ≤ l.2)))
     | some .sqLoop =>
        let outer := f.loops.filter (fun l => decide (l.1 < p) && decide (p ≤ l.2))
        decide (4 ≤ outer.length) || outer.any (fun l => decide (l.2 < p + loopBody w))
     | some .cfTask => f.seg.task == 0 && decide (f.seg.lens.getD (cfW w - 1) 0 * 512 ≤ cfPc w)
     | _ => false)

/-- The places from which SQ.END can be reached. -/
def Flow.toEnd (f : Flow) : List Nat :=
  search f.preds (4 * f.nodes.length + 4) ((f.nodes.filter (fun x => f.isOp .sqEnd x.1)).map Prod.fst) []

/-- Starts of a segment that lie outside it (check 5). -/
def badStarts (f : Flow) : List Nat := f.seg.starts.filter (fun q => decide (f.seg.words.length ≤ q))

/-! ### Formats (check 4) -/

/-- Whether a format makes an INT32 pass (R79). -/
def intFmt (fm : Nat) : Bool := afA fm == 11 && afB fm == 11

/-- An array pass onto a half at a place. -/
def Flow.isPass (f : Flow) (h q : Nat) : Bool := (f.isOp .mxMm q || f.isOp .mxCv q) && mxHalf (f.word q) == h

/-- The arithmetic modes half `h` may be in at `p`: INT32 or not; a half no pass has written holds FP32 +0 (R79). -/
def Flow.modes (f : Flow) (h p : Nat) : List Bool :=
  (if f.bare (f.isPass h) p then [false] else []) ++ ((f.defs (f.isPass h) p).flatMap (fun q => (f.fmts q).map intFmt))

/-- Whether the operand region of the pass at `q` may be filled by the decode gatherer (R88). -/
def Flow.gathered (f : Flow) (q : Nat) : Bool :=
  (f.regs (mxOpnd (f.word q)) q).any (fun d => bit (cfProd (f.word d)) 4)

/-- The passes whose results half `h` may hold at `p`: back to and including one with INIT (R80). Each task's segment is followed
alone: the passes of a core's other tasks are not (DESIGN CHOICE, log 61). -/
def Flow.passes (f : Flow) (h p : Nat) : List Nat :=
  (f.back (fun q => f.isPass h q && mxInit (f.word q)) p).filter (f.isPass h)

/-- Whether a drain at `p` may hold an operand that came from a gathered tile (R89). -/
def Flow.drainsGathered (f : Flow) (p : Nat) (op : Op) (w : Nat) : Bool :=
  (op != .mxDr && f.gathered p) ||
    ((op == .mxDr || !mxInit w) && (f.passes (mxHalf w) p).any f.gathered)

/-- The drains that may fill region `g` as the instruction at `p` reads it: those that write one of the definitions in force there. -/
def Flow.fillers (f : Flow) (g p : Nat) : List Nat :=
  let ds := f.regs g p
  (f.nodes.filter (fun x =>
    match goodOp x.2.1 with
    | some op => (op == .mxMm || op == .mxCv || op == .mxDr) && drains op x.2.1 && mxRes x.2.1 == g &&
        (f.regs g x.1).any ds.contains
    | none => false)).map Prod.fst

/-- Whether a region read at `p` may hold MX elements blocked along tokens, as a drain with BLKDIM 1 leaves them (R81). -/
def Flow.blockedByToken (f : Flow) (g p : Nat) : Bool := (f.fillers g p).any (fun q => (f.fmts q).any (fun fm => isMx (afR fm) && afBlk fm))

/-- The format faults of an array operation under one array format (R45, R46, R73, R80, R82, R89, R105, R141). -/
def badArray (f : Flow) (p : Nat) (op : Op) (w fm : Nat) : Bool :=
  let old := f.modes (mxHalf w) p
  let modes := if op = .mxDr then old else [intFmt fm]
  (afBlk fm && mxM w % 32 != 0) ||
    (op != .mxDr && (!pairOk (afA fm) (afB fm) ||
      (op == .mxMm && decide (mxK w > 128) && !(afA fm == 9 && afB fm == 9)) ||
      (is16 (afB fm) && mxTile w % 2 == 1) || (isMx (afB fm) && mxOrder w) ||
      (isMx (afA fm) && f.blockedByToken (mxOpnd w) p) ||
      (!mxInit w && old.any (fun m => m != intFmt fm)))) ||
    (drains op w && ((modes.contains true && !(afR fm == 11 || afR fm == 12)) ||
      (decide (2 ≤ afCmode fm) && f.drainsGathered p op w)))

/-- Whether an ST.OUT into an adding collective reads a region that another drain format fills (R144). -/
def badReduce (colls : List CollWords) (f : Flow) (p w : Nat) : Bool :=
  let d := f.seg.descs.getD (stDesc w) []
  let ty := colType (colls.getD (bits (dBase d) 0 16) [])
  dKind d == 6 && (ty == 2 || ty == 4) &&
    (f.fillers (stReg w) p).any (fun q => (f.fmts q).any (fun fm => !(afR fm == 0 || (afR fm == 1 && afCmode fm == 0))))

/-- Whether the formats of the instruction at `p` break a rule of check 4. -/
def badFormats (colls : List CollWords) (f : Flow) (p w : Nat) : Bool :=
  match goodOp w with
  | none => false
  | some op =>
    (needsFmt op w && f.bare (f.isOp .mxFmt) p) ||
    (match op with
     | .mxFmt => decide (afStream w ≥ 0xFC) || afA w == 0 || decide (afA w > 11) || afB w == 0 || decide (afB w > 11) ||
        decide (afR w > 12)
     | .mxMm | .mxCv | .mxDr => (f.fmts p).any (badArray f p op w)
     | .vxCvt => decide (uStream w ≥ 0xFC) || decide (uFmtS w > 11) || decide (uFmtR w > 11) || (isMx (uFmtS w) && isMx (uFmtR w))
     | .vxCopy | .vxNeg | .vxAbs => decide (uStream w ≥ 0xFC) || decide (uFmtS w > 2) || uFmtR w != uFmtS w
     | .vxTrn => decide (uStream w ≥ 0xFC) || decide (uFmtS w > 2) || uFmtR w != uFmtS w ||
        !(uRows w == 64 || uRows w == 128) || decide (uWidth w > 2)
     | .vxRsum | .vxRmax | .vxRsumsq => decide (uStream w ≥ 0xFC) || decide (uFmtS w > 2) || uFmtR w != 0
     | .stOut => badReduce colls f p w
     | _ => false)

/-! ### Windows (check 6) -/

/-- Whether two ranges overlap. -/
def overlap (a b : Nat × Nat) : Bool := decide (a.1 < b.1 + b.2) && decide (b.1 < a.1 + a.2)

/-- The reachable CF.WINs of task 0, as place, window, base and size. -/
def Flow.winDefs (f : Flow) : List (Nat × Nat × Nat × Nat) :=
  f.nodes.filterMap (fun x =>
    if goodOp x.2.1 = some .cfWin then some (x.1, cfW x.2.1, cfWBase x.2.1, cfWSizeM1 x.2.1 + 1) else none)

/-- A CF.WIN of window t at a place. -/
def Flow.isWin (f : Flow) (t q : Nat) : Bool := f.isOp .cfWin q && cfW (f.word q) == t

/-- Whether the instruction at `p` breaks a rule of check 6; `w0` is the base and size of window 0. -/
def badWindows (w0 : Nat × Nat) (f : Flow) (p w : Nat) : Bool :=
  match goodOp w with
  | some .cfWin =>
    let me := (cfWBase w, cfWSizeM1 w + 1)
    cfW w == 0 || f.seg.task != 0 || decide (me.1 + me.2 > 1024) || decide (cfWCode w > me.2) || overlap me w0 ||
      f.winDefs.any (fun x => x.2.1 != cfW w && overlap me (x.2.2.1, x.2.2.2))
  | some .cfTask => f.seg.task != 0 || f.bare (f.isWin (cfW w)) p
  | _ => false

/-! ### Regions (check 7) -/

/-- Mask bit of the engine of an operation (R103). -/
def engBit (op : Op) : Nat :=
  match engOf op with
  | .mx => 0
  | .vx => 1
  | .fx => 2
  | _ => 3

/-- The CF.REG at `p` leaves a window of its task, lies over the code, overlaps another region that may be defined there, or
names the gatherer with another producer (R88). -/
def badReg (f : Flow) (p w : Nat) : Bool :=
  let me := (cfBase w, cfSizeM1 w + 1)
  f.seg.wins.any (fun z => decide (me.1 + me.2 > z.1) || decide (me.1 < z.2)) ||
    (bit (cfProd w) 4 && cfProd w != 16) ||
    (upto 16).any (fun g => g != cfG w &&
      (f.regs g p).any (fun d => overlap me (cfBase (f.word d), cfSizeM1 (f.word d) + 1)))

/-- Whether a region used at `p` is undefined on some path, or defined with a mask that shuts the engine out. -/
def badUse (f : Flow) (p g : Nat) (maskOk : Nat → Bool) : Bool :=
  f.bare (f.isReg g) p || (f.regs g p).any (fun d => !maskOk (f.word d))

/-- Whether the instruction at `p` breaks a rule of check 7. -/
def badRegions (f : Flow) (p w : Nat) : Bool :=
  match goodOp w with
  | none => false
  | some .cfReg => badReg f p w
  | some .sqLdw => badUse f p (sqReg w) (fun d => cfProd d == 0 && cfCons d == 0)
  | some .sqStw => badUse f p (sqReg w) (fun d => cfProd d == 0 && cfCons d == 0)
  | some .stIn => badUse f p (stReg w) (fun d => bit (cfProd d) 3)
  | some .stOut => badUse f p (stReg w) (fun d => bit (cfCons d) 3)
  | some op =>
    (f.under p op w).any (fun fm =>
      (readsOf op w fm).any (fun u => badUse f p u.g (fun d => bit (cfCons d) (engBit op))) ||
        (writesOf op w fm).any (fun u => badUse f p u.1 (fun d => bit (cfProd d) (engBit op))))

/-! ### Lanterns (check 8) and the weight chain (check 9) -/

/-- Whether a lantern number is outside an image's range (R198). -/
def offLantern (img : Image) (n : Nat) : Bool := decide (n < img.lnFirst) || decide (img.lnFirst + img.lanterns.length ≤ n)

/-- Whether the instruction at `p` breaks a rule of check 8. -/
def badLanterns (img : Image) (f : Flow) (w : Nat) : Bool :=
  match goodOp w with
  | some .lnArm | some .lnSig | some .lnWait => offLantern img (lnLnt w)
  | some .lnWtc => offLantern img (lnLnt w) || (img.lanterns.getD (lnLnt w - img.lnFirst) {}).scope == 4
  | some .stIn | some .stOut | some .stWch =>
    let d := f.seg.descs.getD (stDesc w) []
    (dDoneEn d && offLantern img (dDoneLnt d)) || (dChunkEn d && offLantern img (dChunkLnt d)) ||
      (dKind d == 7 && wchTileEn d && offLantern img (wchTileLnt d))
  | _ => false

/-! ### Footprints (check 10) -/

/-- What an instruction asks of a region: words that must fit, its reservations, its head advances, and its read requirement
(R126, R174, R175). -/
structure Ask where
  g    : Nat
  fits : Nat
  resv : List Nat
  adv  : List Nat
  need : Nat
  deriving DecidableEq, Repr

/-- Sizes in words of the chunks of a stream of `len` bytes. -/
def chunkWords (len chunk : Nat) : List Nat :=
  (if chunk ≤ len then [chunk / 16] else []) ++ (if len % chunk = 0 then [] else [wordsOf (len % chunk)])

/-- What the instruction at `p` asks. -/
def asksOf (f : Flow) (p w : Nat) : List Ask :=
  match goodOp w with
  | none => []
  | some .stIn =>
    [{ g := stReg w, fits := stChunk w / 16, resv := chunkWords (dLen (f.seg.descs.getD (stDesc w) [])) (stChunk w), adv := [], need := 0 }]
  | some .stOut =>
    let len := dLen (f.seg.descs.getD (stDesc w) [])
    let ch := chunkWords len (stChunk w)
    if stRel w then [{ g := stReg w, fits := stChunk w / 16, resv := [], adv := ch, need := ch.foldl max 0 }]
    else [{ g := stReg w, fits := max (stChunk w / 16) (wordsOf len), resv := [], adv := [], need := wordsOf len }]
  | some .sqLdw => [{ g := sqReg w, fits := wordsOf (imm32 w + 4), resv := [], adv := [], need := 0 }]
  | some .sqStw => [{ g := sqReg w, fits := wordsOf (imm32 w + 4), resv := [], adv := [], need := 0 }]
  | some op =>
    (f.under p op w).flatMap (fun fm =>
      (readsOf op w fm).map (fun u =>
        { g := u.g, fits := useWords u, resv := [], adv := if u.rel then [useWords u] else [], need := useWords u }) ++
      (writesOf op w fm).map (fun u => { g := u.1, fits := wordsOf u.2, resv := [wordsOf u.2], adv := [], need := 0 }))

/-- Size in words of the region a CF.REG word defines. -/
def regWords (w : Nat) : Nat := (cfSizeM1 w + 1) * 256

/-- Every request against regions of a segment with its place and the definitions it meets. -/
def allAsks (f : Flow) : List (Nat × Ask × List Nat) :=
  f.nodes.flatMap (fun x => (asksOf f x.1 x.2.1).map (fun a => (x.1, a, f.regs a.g x.1)))

/-- Places whose request exceeds a region (R73, R126, R174). -/
def tooLarge (f : Flow) (asks : List (Nat × Ask × List Nat)) : List Nat :=
  (asks.filter (fun x => x.2.2.any (fun d => decide (regWords (f.word d) < x.2.1.fits)))).map Prod.fst

/-- Places whose read breaks the progress rule of a region (R175). -/
def stuckReads (f : Flow) (asks : List (Nat × Ask × List Nat)) : List Nat :=
  (f.nodes.filter (fun x => f.isOp .cfReg x.1)).flatMap (fun x =>
    if cfProd x.2.1 = 0 && cfCons x.2.1 = 0 then []
    else
      let mine := asks.filter (fun a => a.2.2.contains x.1)
      let res := mine.flatMap (fun a => a.2.1.resv)
      let adv := mine.flatMap (fun a => a.2.1.adv)
      let size := regWords x.2.1
      let u := (res ++ adv).foldl Nat.gcd size
      (mine.filter (fun a => decide (0 < a.2.1.need) && decide (size + u < a.2.1.need + res.foldl max 0))).map Prod.fst)

/-! ### The segments of an image (R95, R96, R119, R151) -/

/-- The words of a code segment; none where the plan entry names none or its units leave the code area. -/
def segWords (img : Image) (e : PlanEntry) (w : Nat) : Option (List Nat) :=
  let off := peCodeOff e w
  if off = 0xFFFFFFFF || decide (img.code.length < 512 * (off + peCode e w)) then none
  else some ((img.code.drop (512 * off)).take (512 * peCode e w))

/-- Task 0 of a plan entry. -/
def seg0 (img : Image) (e : PlanEntry) (isHead : Bool) : Option Flow :=
  (segWords img e 0).map (fun ws => flowSeg
    { task := 0, words := ws, wins := [(peW0SizeM1 e + 1, peW0Code e)], starts := [0], descs := img.descSets.getD (peSet e) []
      lens := [1, 2, 3].map (fun w => if (segWords img e w).isSome then peCode e w else 0), isHead := isHead })

/-- Task t of a plan entry, started by the CF.TASKs of task 0 in the windows that reach them (R151). -/
def segT (img : Image) (e : PlanEntry) (isHead : Bool) (f : Flow) (t : Nat) : Option Flow :=
  let ts := (f.nodes.filter (fun x => goodOp x.2.1 == some .cfTask && cfW x.2.1 == t))
  if ts.isEmpty then none
  else
    (segWords img e t).map (fun ws => flowSeg
      { task := t, words := ws, starts := (ts.map (fun x => cfPc x.2.1)).eraseDups, descs := img.descSets.getD (peSet e) []
        lens := [], isHead := isHead
        wins := (ts.flatMap (fun x => (f.defs (f.isWin t) x.1).map (fun d => (cfWSizeM1 (f.word d) + 1, cfWCode (f.word d))))).eraseDups })

/-- The flows of one plan entry, with window 0. -/
def entryFlows (img : Image) (e : PlanEntry) (isHead : Bool) : List ((Nat × Nat) × Flow) :=
  match seg0 img e isHead with
  | none => []
  | some f => (f :: [1, 2, 3].filterMap (segT img e isHead f)).map (fun x => ((peW0Base e, peW0SizeM1 e + 1), x))

/-- The plan entries that run, with whether their core is at the head of its weight sub-chain, each kind once. -/
def runEntries (s : State) (p : Nat) (img : Image) : List (PlanEntry × Bool) :=
  let cs := logicalCores s p
  (img.plans.flatMap (fun pl =>
    ((upto (min pl.entries 256)).filter (fun i => peRun (pl.cores.getD i {}))).map (fun i =>
      (pl.cores.getD i {}, chainPos s (cs.getD i 0) == 0)))).eraseDups

/-- All flows of an image. -/
def imageFlows (s : State) (p : Nat) (img : Image) : List ((Nat × Nat) × Flow) :=
  (runEntries s p img).flatMap (fun x => entryFlows img x.1 x.2)

/-! ### Checks 3 to 10 -/

/-- Failures as result words: task and place (R125). -/
def failAt (f : Flow) (ps : List Nat) : List Nat := ps.map (fun p => f.seg.task % 4 * 2 ^ 30 + p % 65536)

/-- Places of a flow whose word fails a test. -/
def Flow.where (f : Flow) (t : Nat → Nat → Bool) : List Nat := (f.nodes.filter (fun x => t x.1 x.2.1)).map Prod.fst

/-- Check 3: words, and the descriptor an ST instruction names (R104, R169, R171). -/
def check3 (f : Flow) : List Nat :=
  failAt f (f.where (fun _ w =>
    match goodOp w with
    | none => true
    | some op => namesDesc op &&
        (decide (f.seg.descs.length ≤ stDesc w) || !kindOk op (dKind (f.seg.descs.getD (stDesc w) [])))))

/-- Check 5: flow. -/
def check5 (f : Flow) : List Nat :=
  let ends := f.toEnd
  failAt f (badStarts f ++ (f.nodes.filter (fun x => badFlow f ends x.1 x.2.1 x.2.2)).map Prod.fst)

/-- Check 10: footprints. -/
def check10 (f : Flow) : List Nat :=
  let asks := allAsks f
  failAt f (tooLarge f asks ++ stuckReads f asks)

/-- The lowest of some result words. -/
def lowest : List Nat → Option Nat
  | [] => none
  | x :: xs => some (xs.foldl min x)

/-- The first of checks 3 to 10 that fails, with its status and result word (R125). -/
def codeChecks (s : State) (p : Nat) (img : Image) : Option (Nat × Nat) :=
  let fs := imageFlows s p img
  let tests : List (Nat × (((Nat × Nat) × Flow) → List Nat)) :=
    [(stImageRejected, fun x => check3 x.2),
     (stImageRejected, fun x => failAt x.2 (x.2.where (badFormats img.colls x.2))),
     (stImageRejected, fun x => check5 x.2),
     (stImageRejected, fun x => failAt x.2 (x.2.where (badWindows x.1 x.2))),
     (stImageRejected, fun x => failAt x.2 (x.2.where (badRegions x.2))),
     (stImageRejected, fun x => failAt x.2 (x.2.where (fun _ w => badLanterns img x.2 w))),
     (stImageRejected, fun x => failAt x.2 (x.2.where (fun _ w => goodOp w == some .stWch && !x.2.seg.isHead))),
     (stRegionTooSmall, fun x => check10 x.2)]
  (tests.filterMap (fun t => (lowest (fs.flatMap t.2)).map (fun r => (t.1, r)))).head?

end Sys2Proof.Machine
end

