-- ==== Sys2Proof/Machine/AdmitTab.lean ====
section
/-! DEFINITION. Sys2Proof/Machine/AdmitTab.lean: program admission of an image's tables: check 2 and check 11 of R125 (R12,
R96, R171, R189, R198, R245, R246, R282, R311, R327, R341). -/
namespace Sys2Proof.Machine

/-! ### Fingerprint (R12, check 2) -/

/-- Whether every bit of a fingerprint word is present. -/
def covers (have' want : Nat) : Bool := want &&& have' == want

/-- CFG_BEDS (R7, R9). -/
def cfgBeds (s : State) : Nat := (s.cfg.bedUsable &&& bedMask s.var) * 65536 + bedMask s.var

/-- The image names only units that are present, its update plan only present dies (R12, R245). -/
def fingerprintOk (s : State) (img : Image) : Bool :=
  img.fp0 == 0 && covers (cfgUnits s.var) img.fp1 && covers (stackMask s.var) img.fp2 && covers (cfgBeds s) img.fp3 &&
    (upto img.plan.length).all (fun d => (img.plan.getD d []).isEmpty || bit (dieMask s.var) d)

/-! ### Core plans (R96) -/

/-- A CF.WIN that task 0 can execute disagrees with the plan entry. -/
def winDisagrees (e : PlanEntry) (f : Flow) : Bool :=
  f.seg.task == 0 && f.nodes.any (fun x =>
    goodOp x.2.1 == some .cfWin && cfW x.2.1 != 0 &&
      (cfWBase x.2.1 != peBase e (cfW x.2.1) || cfWCode x.2.1 != peCode e (cfW x.2.1)))

/-- A plan entry that R96 refuses: every entry is examined, the code of window 0 and its CF.WIN only of a core that runs. -/
def badEntry (img : Image) (e : PlanEntry) : Bool :=
  bits e.w0 0 24 != 0 || bits e.w3 0 13 != 0 ||
    decide (peW0Base e + peW0SizeM1 e + 1 > 1024) || decide (peW0Code e > peW0SizeM1 e + 1) ||
    decide (img.descSets.length ≤ peSet e) ||
    (upto 4).any (fun w => peCodeOff e w != 0xFFFFFFFF &&
      ((segWords img e w).isNone || decide (peBase e w + peCode e w > 1024))) ||
    (peRun e && (peW0Code e == 0 || peCodeOff e 0 == 0xFFFFFFFF || (entryFlows img e true).any (fun x => winDisagrees e x.2)))

/-- A core plan that R96 refuses. -/
def badPlan (img : Image) (pl : CorePlan) : Bool :=
  pl.rsv != 0 || pl.entries == 0 || decide (pl.entries > 256) || pl.cores.length != pl.entries || pl.cores.any (badEntry img)

/-! ### Stream descriptors (R168, R169, R171, R189) -/

/-- The dimensions' fields of a descriptor break R171. -/
def badDims (d : DescWords) : Bool :=
  decide (dDimsM1 d > 4) || bits (dWord d 2) 0 32 != 0 || dExtent d 0 % 16 != 0 ||
    (upto 5).any (fun k => decide (k > dDimsM1 d) && dWord d (2 + k) != 0) || decide (dLen d ≥ 2 ^ 48)

/-- A kind-0x7 descriptor breaks R189; `sub` is the length of a weight sub-chain of a die that runs it. -/
def badDelivery (sub : Nat) (d : DescWords) : Bool :=
  bits (dWord d 7) 0 23 != 0 || bits (dWord d 7) 38 2 == 3 || dLen d % wchRecBytes d != 0 ||
    (wchWide d && (bits (dWord d 7) 38 2 != 0 || wchSlot0 d % 2 == 1 || wchStep d % 2 == 1)) ||
    decide (wchLast d < wchFirst d) || decide (sub ≤ wchLast d)

/-- A descriptor that R169 or R171 refuses. A kind-0x5 or 0x6 descriptor must name an entry of the collective table. -/
def badDesc (sub : Nat) (colls : List CollWords) (d : DescWords) : Bool :=
  let kind := dKind d
  kind == 0 || decide (kind > 7) || bits (dWord d 0) 0 22 != 0 || decide (dPf d > 16) || badDims d ||
    ((kind == 1 || kind == 2 || kind == 4 || kind == 7) && dBase d % 16 != 0) ||
    (kind == 3 && bits (dBase d) 28 36 != 0) ||
    ((kind == 5 || kind == 6) && (bits (dBase d) 16 48 != 0 || decide (colls.length ≤ dBase d))) ||
    (kind == 4 && dDimsM1 d != 1) || (kind != 4 && kind != 7 && dWord d 7 != 0) || (kind == 7 && badDelivery sub d)

/-- Whether a core's code has an ST.WCH on a descriptor (R189). -/
def issuesWch (img : Image) (e : PlanEntry) (i : Nat) : Bool :=
  (entryFlows img e true).any (fun x => x.2.nodes.any (fun n => goodOp n.2.1 == some .stWch && stDesc n.2.1 == i))

/-- The shortest weight sub-chain of the cores that issue ST.WCH on descriptor `i` of a set (R188, R189). -/
def setSubLen (s : State) (p : Nat) (img : Image) (set i : Nat) : Nat :=
  let cs := logicalCores s p
  (img.plans.flatMap (fun pl =>
    ((upto (min pl.entries 256)).filter (fun n =>
      let e := pl.cores.getD n {}
      peRun e && peSet e == set && issuesWch img e i)).map (fun n => subLen s (cs.getD n 0)))).foldl min 64

/-! ### Lantern table (R198) -/

/-- A declaration whose home index R198 refuses, or of no scope. -/
def badDecl (s : State) (p : Nat) (d : LanternDecl) : Bool :=
  let beds := (usableBeds s p).length
  match d.scope with
  | 0 => decide (16 * beds ≤ d.home)
  | 1 => decide (beds ≤ d.home)
  | 2 => decide (beds ≤ d.home)
  | 3 => d.home != 0
  | 4 => d.home != 0
  | _ => true

/-- Whether a lantern number lies in the declared range of another context loaded in the partition (R198). -/
def lanternTaken (s : State) (k num : Nat) : Bool :=
  s.parts.ctxs.any (fun x => x.1 != k && keyPart x.1 == keyPart k &&
    (match x.2.image with
     | some o => decide (o.lnFirst ≤ num) && decide (num < o.lnFirst + o.lanterns.length)
     | none => false))

/-! ### Collective table (R311, R312, R327) -/

/-- Descriptors of an image. -/
def imageDescs (img : Image) : List DescWords := img.descSets.flatten

/-- An entry that R311 or R327 refuses: a reserved field, a TYPE of no collective or not allowed for a descriptor that names
it, a member rank beyond the job, or any entry from 0xFFF0. -/
def badColl (s : State) (p : Nat) (img : Image) (c : Nat) (e : CollWords) : Bool :=
  let j := s.job p
  let used (kind : Nat) : Bool := (imageDescs img).any (fun d => dKind d == kind && dBase d == c)
  (!collEmpty e && decide (0xFFF0 ≤ c)) ||
    bits (e.getD 0 0) 0 27 != 0 || bits (e.getD 1 0) 0 24 != 0 || bits (e.getD 5 0) 0 32 != 0 ||
    e.getD 6 0 != 0 || e.getD 7 0 != 0 || decide (colType e > 6) ||
    (used 5 && colType e != 0) || (used 6 && !(decide (1 ≤ colType e) && decide (colType e ≤ 4))) ||
    (j.valid && collRankBad j e)

/-! ### Stage and probe tables (R281, R282, R286, R341) -/

/-- Entries of a table with their index. -/
def numbered (l : List Nat) : List (Nat × Nat) := (upto l.length).map (fun i => (i, l.getD i 0))

/-- The WAIT_EN that every entry of a direction and chunk must have; none where it depends on the module's place in the
pipeline. -/
def waitFixed (t : StageTable) (dir chunk : Nat) : Option Bool :=
  if stP t = 1 then some (chunk != (if dir = 0 then 0 else stV t - 1))
  else if chunk = (if dir = 0 then 0 else stV t - 1) then none else some true

/-- The entry at index `i` breaks a rule of R282. `probe` tables hold the forward entries of micro-batch 0. -/
def badStageEntry (t : StageTable) (probe : Bool) (i e : Nat) : Bool :=
  let before := (numbered t.entries).take i
  bits e 0 43 != 0 || decide (stV t ≤ seChunk e) || decide (stMb t ≤ seMb e) ||
    before.any (fun x => seDir x.2 == seDir e && seChunk x.2 == seChunk e && decide (seMb e ≤ seMb x.2)) ||
    (seDir e == 1 && !before.any (fun x => seDir x.2 == 0 && seChunk x.2 == seChunk e && seMb x.2 == seMb e)) ||
    (match waitFixed t (seDir e) (seChunk e) with
     | some w => seWait e != w
     | none => before.any (fun x => seDir x.2 == seDir e && seChunk x.2 == seChunk e && seWait x.2 != seWait e)) ||
    (probe && (seDir e == 1 || seMb e != 0))

/-- Whether a lantern number is a module-scope lantern of the image. -/
def moduleLantern (img : Image) (n : Nat) : Bool :=
  !offLantern img n && (img.lanterns.getD (n - img.lnFirst) {}).scope == 3

/-- The warm-up of module 0 of a pipeline (R286). -/
def warmup0 (t : StageTable) : Nat := if stV t = 1 then stP t - 1 else 2 * (stP t - 1) + (stV t - 1) * stP t

/-- A header word of a table has a reserved bit set (R281, R282). -/
def headerReserved (t : StageTable) : Bool :=
  bits (stWord t 0) 20 12 != 0 || bits (stWord t 4) 14 18 != 0 || bits (stWord t 5) 14 18 != 0 || stWord t 6 != 0 || stWord t 7 != 0

/-- The table as a whole breaks R281, R282 or R286: its header, its arrival lanterns, its slot depth, an entry that is
missing, or both ends of a pipeline of several modules on one module. -/
def badStageTable (img : Image) (t : StageTable) (probe : Bool) : Bool :=
  let first := t.entries.filter (fun e => seDir e == 0 && seChunk e == 0)
  let last := t.entries.filter (fun e => seDir e == 1 && seChunk e == stV t - 1)
  let count := if probe then stV t else 2 * stV t * stMb t
  headerReserved t || stP t == 0 || stV t == 0 || decide (stV t > 8) || stMb t == 0 || decide (stMb t > 65536) ||
    stWord t 3 != count || t.entries.length != count ||
    decide (stW t < (if probe then 0 else min (warmup0 t) (stV t * stMb t)) + 1) ||
    (upto (2 * stV t)).any (fun i => !moduleLantern img (stAf t + i) || !moduleLantern img (stAb t + i)) ||
    (decide (1 < stP t) && !probe && first.any (fun e => !seWait e) && last.any (fun e => !seWait e)) ||
    (stP t == 2 && !probe && first.any seWait && last.any seWait)

/-- The lowest failing entry of a stage or probe table; entry 0 where the table fails as a whole. -/
def stageFails (img : Image) (probe : Bool) : Option StageTable → Option Nat
  | none => none
  | some t =>
    match (numbered t.entries).find? (fun x => badStageEntry t probe x.1 x.2) with
    | some x => some x.1
    | none => if badStageTable img t probe then some 0 else none

/-! ### Update plan (R245, R246) -/

/-- A plan entry that R246 refuses. -/
def badSegment (g : SegWords) : Bool :=
  let fm := gDfmt g
  let der := gDfwd g || gDbwd g
  !(decide (1 ≤ gOpt g) && decide (gOpt g ≤ 4)) || bits (gWord g 0) 0 47 != 0 || gBase g % 64 != 0 ||
    (if gTiled g then bits (gWord g 2) 48 16 != 0 || bits (gWord g 2) 0 16 != 0
     else bits (gWord g 2) 40 24 != 0 || gCount g % 64 != 0) ||
    [3, 4, 5, 6, 8, 9, 10].any (fun k => gWord g k % 4096 != 0) || gG g % 65536 != 0 ||
    [11, 12, 13, 14, 15].any (fun k => gWord g k != 0) ||
    (gCompact g && gL g != 0) || ((gOpt g == 2 || gOpt g == 3) && gS g != 0) ||
    (!gDfwd g && gDf g != 0) || (!gDbwd g && gDb g != 0) || (!der && (fm != 0 || gDsat g != 0)) ||
    (der && !(decide (3 ≤ fm) && decide (fm ≤ 9))) ||
    (!gTiled g && (gOpt g == 4 || der || (decide (5 ≤ fm) && decide (fm ≤ 9)))) ||
    (fm == 9 && ((gDfwd g && gTr g % 2 == 1) || (gDbwd g && gTc g % 2 == 1)))

/-- The lowest failing segment of a die's plan: a bad entry, one past 16,384, or the one whose parameters pass 2^34 or whose landing
blocks pass the 524,288 that the die's count store holds (R245, R250). -/
def dieFail (segs : List SegWords) : Option Nat :=
  (upto segs.length).find? (fun i =>
    badSegment (segs.getD i []) || decide (16384 ≤ i) ||
      decide (2 ^ 34 < ((segs.take (i + 1)).map gCount).foldl (· + ·) 0) ||
      decide (524288 < ((segs.take (i + 1)).map gBlocks).foldl (· + ·) 0))

/-- The lowest failing entry of the update plan, as die × 16,384 + segment. -/
def planFail (plan : List (List SegWords)) : Option Nat :=
  ((upto plan.length).filterMap (fun d => (dieFail (plan.getD d [])).map (fun i => d * 16384 + min i 16383))).head?

/-! ### Protection table (R327) -/

/-- Protected units of a plan. -/
def planUnits (plan : List (List SegWords)) : Nat := ((upto plan.length).map (dieUnits plan)).foldl (· + ·) 0

/-- Length of a unit. -/
def unitBytesOf (plan : List (List SegWords)) (u : Nat) : Nat :=
  ((unitRecs plan u).map (fun x => recLen ((dieSegs plan (unitDie plan u)).getD x.1 []))).foldl (· + ·) 0

/-- Units of a shard that exist: those past the plan's last are empty ones that pad it (R325); log 57. -/
def realUnits (units : Nat) (x : Shard) : Nat := min x.units (units - x.firstUnit)

/-- A shard that R327 refuses. -/
def badShard (j : Job) (plan : List (List SegWords)) (x : Shard) : Bool :=
  x.rsv != 0 || x.unitBytes % 2 == 1 || decide (x.unitBytes < 2) || decide (x.unitBytes > 6176) ||
    x.members.eraseDups.length != x.members.length || x.members.length != 10 || decide (x.pos > 9) ||
    (upto (realUnits (planUnits plan) x)).any (fun i => decide (x.unitBytes < unitBytesOf plan (x.firstUnit + i))) ||
    (j.valid && shardRankBad j x)

/-- Whether the shards, in some order, cover every unit once. -/
def shardsCover (shards : List Shard) (units : Nat) : Bool :=
  (shards.map (realUnits units)).foldl (· + ·) 0 == units &&
    (upto shards.length).all (fun i => (upto i).all (fun h =>
      let a := shards.getD i {}
      let b := shards.getD h {}
      !overlap (a.firstUnit, realUnits units a) (b.firstUnit, realUnits units b)))

/-- The lowest failing shard of a protection table; shard 0 where the table fails as a whole. -/
def protFail (j : Job) (plan : List (List SegWords)) : Option ProtTable → Option Nat
  | none => none
  | some t =>
    match (upto t.shards.length).find? (fun i => badShard j plan (t.shards.getD i {})) with
    | some i => some i
    | none =>
      if t.rsv != 0 || t.shards.isEmpty || decide (t.shards.length > 16) || !shardsCover t.shards (planUnits plan) ||
          (j.valid && mirrorRankBad j t) then some 0
      else none

/-! ### Check 11 -/

/-- The first index of a list that fails a test. -/
def failIdx {α : Type} (l : List α) (t : Nat → α → Bool) : Option Nat :=
  (l.zipIdx.find? (fun x => t x.2 x.1)).map Prod.snd

/-- The lowest failing descriptor, as set × 4,096 + index. -/
def descFail (s : State) (p : Nat) (img : Image) : Option Nat :=
  (img.descSets.zipIdx.filterMap (fun x =>
    (failIdx x.1 (fun i d => decide (4096 ≤ i) || badDesc (setSubLen s p img x.2 i) img.colls d)).map (fun i => x.2 * 4096 + i))).head?

/-- The result word of check 11: the first table with a failing entry, and that entry (R125). -/
def tableChecks (s : State) (k : Nat) (img : Image) : Option Nat :=
  let p := keyPart k
  let fails : List (Nat × Option Nat) :=
    [(1, failIdx img.plans (fun i pl => decide (4096 ≤ i) || badPlan img pl)),
     (2, if 4096 < img.descSets.length then some (4096 * 4096) else descFail s p img),
     (3, failIdx img.lanterns (fun i d =>
        decide (16384 ≤ img.lnFirst + i) || badDecl s p d || lanternTaken s k (img.lnFirst + i))),
     (4, failIdx img.colls (badColl s p img)),
     (5, stageFails img false img.stage),
     (6, stageFails img true img.probe),
     (7, planFail img.plan),
     (8, protFail (s.job p) img.plan img.prot)]
  (fails.filterMap (fun x => x.2.map (tableWord x.1))).head?

/-! ### Admission (R125) -/

/-- Program admission of an image for context `k`: none where every check passes, else the status and result word of the
first that fails. -/
def admitImage (s : State) (k : Nat) (img : Image) : Option (Nat × Nat) :=
  if !img.formatOk then some (stImageRejected, 0)
  else if !fingerprintOk s img then some (stUnitAbsent, 0)
  else
    match codeChecks s (keyPart k) img with
    | some x => some x
    | none => (tableChecks s k img).map (fun r => (stImageRejected, r))

end Sys2Proof.Machine
end

