-- ==== Sys2Proof/Machine/Load.lean ====
section
/-! DEFINITION. Sys2Proof/Machine/Load.lean: LOAD and UNLOAD of a machine image (R125, R198, R253, R272, R347, R362). -/
namespace Sys2Proof.Machine

/-- Whether pool ranges of an image overlap those of another loaded context of the partition (R362). -/
def poolClash (s : State) (k : Nat) (img : Image) : Bool :=
  s.parts.ctxs.any (fun x => x.1 != k && keyPart x.1 == keyPart k &&
    (match x.2.image with
     | some o => o.pool.any (fun a => img.pool.any (fun b => overlap a b))
     | none => false))

/-- The update registers and norm accumulators of a partition when an image is loaded (R253, R272). An engine-class command of the
partition that runs goes on, and its registers show what it does from then on. The count store and the stack controllers'
committed step stay as they are (R29, R446). -/
def resetUpd (s : State) (p : Nat) : State :=
  let u := s.upd p
  let idle := (s.sched p).eng.isNone
  s.setUpd p { u with
    phase := if idle then .idle else u.phase
    hidePhase := if idle then .idle else u.phase
    hideLanded := u.counts.length
    eng := u.eng.map (fun x => (x.1, { x.2 with acc := 0, nonfin := false }))
    hideNorm := true
    commit := 0, short := 0, lostN := 0, ovf := false, rngDisc := 0 }

/-- The protection registers of a partition when an image with a protection table is loaded (R347). -/
def resetProt (s : State) (p : Nat) : State :=
  let y := s.prot p
  s.setProt p { y with
    valid := true, alert := false, shared := [], suspect := [], beyond := [], rbDone := 0, sagV := false, sagCorr := false
    sagPos := 0, sags := 0, ownSag := 0 }

/-- The image is loaded: its lanterns are `s`'s already. -/
def putImage (s : State) (k : Nat) (img : Image) : State :=
  let p := keyPart k
  let s := s.setCtx k { s.ctx k with image := some img }
  let s := resetUpd s p
  if img.prot.isSome then resetProt s p else s

/-- LOAD of context `k`: `img` is the machine image that its read of host memory returns (R125, R198, R362). -/
def execLoad (k : Nat) (img : Option Image) (s : State) : Res :=
  match issuable s k opLoad with
  | none => .next s
  | some m =>
    if (s.ctx k).image.isSome then .next (refuseCmd s k m.id stMalformed 0)
    else if !hostMapped s (keyPart k) m.desc.arg0 (m.desc.arg1 % two32) then .next (refuseCmd s k m.id stParamUnmapped 0)
    else
      match img with
      | none => .next (refuseCmd s k m.id stImageRejected 0)
      | some x =>
        match admitImage s k x with
        | some (st, r) => .next (refuseCmd s k m.id st r)
        | none =>
          if poolClash s k x then
            let (n, s) := drawFree s
            .next (refuseCmd s k m.id stImageRejected (Config.freeWord n).toNat)
          else
            match allocTable k s x.lnFirst x.lanterns with
            | none => .next (refuseCmd s k m.id stLanternShortage 0)
            | some s' => .next (complete (putImage s' k x) k m.id { status := stOk })

/-- UNLOAD of context `k` (R213, R362). -/
def execUnload (k : Nat) (s : State) : Res :=
  match issuable s k opUnload with
  | none => .next s
  | some m =>
    if (s.ctx k).image.isNone then .next (refuseCmd s k m.id stMalformed 0)
    else .next (complete (unloadImage s k) k m.id { status := stOk })

end Sys2Proof.Machine
end

