-- ==== Sys2Proof/Machine/Belvedere.lean ====
section
/-! DEFINITION. Sys2Proof/Machine/Belvedere.lean: host links going down (R351, R386, R397, R422, R446, R455) and the Belvedere
(R419 to R426). -/
namespace Sys2Proof.Machine

/-! ### Host links -/

/-- The used partitions assigned to a host port. -/
def portParts (s : State) (n : Nat) : List Nat := (upto 16).filter (fun p => (s.entry p).used && (s.entry p).port == n)

/-- An endpoint on a function of a port. -/
def endpointOn (n : Nat) : Endpoint → Bool
  | .fn f => f.port == n
  | .smbus _ => false

/-- The link of a host port goes down, which resets its functions: every context opened through them ends by `stop`, its
management queue stops, its IDE keys and SPDM sessions go, and a held TDI enters ERROR (R350, R351, R374, R377). -/
def linkDown (stop : State → Nat → State) (s : State) (n : Nat) : State :=
  let s := (portParts s n).foldl (fun s p => (openKeys s p).foldl stop s) s
  let x := s.port n
  let tdi := x.tdi.map (fun t => (t.1, if t.2 = .unlocked then Tdisp.unlocked else Tdisp.error))
  let s := s.setPort n { x with up := false, tdi := tdi }
  let s := s.setMq n {}
  let cut (w : Switching) : Switching := if w.port = n then { w with cmd := none } else w
  let s := { s with lay := { s.lay with switch := s.lay.switch.map cut } }
  { s with gth := { s.gth with ide := s.gth.ide.filter (fun i => i.port != n)
                               spdm := s.gth.spdm.filter (fun e => !endpointOn n e.1) } }

/-- The present host ports. -/
def hostPorts (s : State) : List Nat := (upto 4).filter (bit (hostMask s.var))

/-- Every link goes down. -/
def linksDown (stop : State → Nat → State) (s : State) : State := (hostPorts s).foldl (linkDown stop) s

/-- A host port trains, unless it is absent or its PERST_N is low (R455). -/
def linkUp (s : State) (n : Nat) : State :=
  if bit (hostMask s.var) n && !s.pins.perstLow.contains n then s.setPort n { s.port n with up := true } else s

/-- Every port trains. -/
def linksUp (s : State) : State := (hostPorts s).foldl linkUp s

/-- No Trellis sender sends: the jobs of the module end here. -/
def stopJobs (s : State) : State :=
  { s with parts := { s.parts with jobs := s.parts.jobs.map (fun x => (x.1, { x.2 with valid := false })) } }

/-! ### Taking an event (R419 to R422) -/

/-- A history entry (R420). -/
def histEntry (s : State) (line : Nat) (e : Evt) : Nat :=
  s.alm.time % 2 ^ 64 * 2 ^ 64 + b2n s.alm.unset * 2 ^ 63 + e.sev % 4 * 2 ^ 61 + line % 64 * 2 ^ 52 + e.code % 4096 * 2 ^ 40 +
    e.unit % 256 * 2 ^ 32 + e.part % 16 * 2 ^ 28 + (if e.part % 16 = 15 then 0 else e.ctx % 64) * 2 ^ 22 + e.detail % 2 ^ 22

/-- The interrupts of an event (R431). -/
def eventIrqs (s : State) (sev : Nat) : State :=
  (hostPorts s).foldl (fun s n =>
    let c := Tbl.get {} s.blv.ctl n
    if c.irqEn && (s.port n).up && decide (c.minSev ≤ sev) then sendIrq s n 0 c.vector else s) s

/-- Actions 2 to 5 of the fatal sequence; the ports train again where Daybreak has reached them (R422, R443). -/
def fatalStop (s : State) : State :=
  let s := { s with blv := { s.blv with aliveRun := false } }
  let s := (upto 16).foldl (fun s n => s.setTport n { s.tport n with sendq := [] }) s
  let s := linksDown (fun s k => endContext s k fReset) (stopJobs s)
  if 6 ≤ s.boot.step then linksUp s else s

/-- The Belvedere takes an event: its bit in the fault word, its history entry, its interrupts, and for a FATAL event the
record of it (R419, R420, R422, R431). -/
def noteEvent (s : State) (line : Nat) (e : Evt) : State :=
  let h := histEntry s line e
  let b := s.blv
  let s := { s with blv := { b with
    fault := b.fault ||| 2 ^ line, hist := Tbl.set b.hist b.head h, head := (b.head + 1) % 16, events := satAdd 64 b.events 1
    lastFatal := if e.sev = 3 then h else b.lastFatal, fatal := b.fatal || e.sev == 3 } }
  eventIrqs s e.sev

/-- Take an event and act on it: a core-fatal error withdraws its bed, a FATAL event stops the module (R345, R421, R422). -/
def takeEvent (s : State) (line : Nat) (e : Evt) : State :=
  let s := noteEvent s line e
  let s := if e.code = 0x041 then withdrawBed s (e.unit / 16) else s
  if e.sev = 3 then fatalStop s else s

/-- BELVEDERE_EVENT: the Belvedere takes the oldest event that the block of `line` holds (R419). -/
def execBelvedereEvent (line : Nat) (s : State) : Res :=
  match Tbl.get [] s.blv.bufs line with
  | [] => .next s
  | e :: es => .next (takeEvent { s with blv := { s.blv with bufs := Tbl.set s.blv.bufs line es } } line e)

/-- HEARTBEAT_LOST: the hub units in `missing` ([0] schedulers, [1] Almanac, [2] Gatehouse) have sent no heartbeat for 500 µs
(R426). -/
def execHeartbeatLost (missing : Nat) (s : State) : Res :=
  let m := missing % 8
  if m = 0 || !s.boot.rails || s.pins.resetLow then .next s
  else
    let line := if bit m 0 then 55 else if bit m 1 then 53 else 52
    .next (takeEvent s line (evtNone 0x050 3 0xFF m))

/-- Whether ALIVE toggles: Daybreak is at its last step with an image, no FATAL event has been taken, the module is not locked
and no power-fail sequence has begun (R425, R441). -/
def aliveOk (s : State) : Bool :=
  s.boot.rails && s.boot.done && !s.boot.warming && s.boot.bank != 0 && !s.blv.fatal && !s.gth.locked && !s.pins.resetLow

/-- ALIVE_TOGGLE (R425). -/
def execAliveToggle (s : State) : Res :=
  if aliveOk s then .next { s with blv := { s.blv with alive := !s.blv.alive } } else .next s

/-! ### History (R424) -/

/-- A read of word 0 of a history entry latches words 1 to 3 of it (R424). -/
def histLatch (s : State) (entry : Nat) : State :=
  { s with blv := { s.blv with latch := Tbl.set s.blv.latch entry (Tbl.get 0 s.blv.hist entry / two32) } }

/-- HISTORY_WORD0_READ: a management function reads word 0 of entry `i`, which latches words 1 to 3 (R424). -/
def execHistoryWord0Read (fn : Fn) (entry : Nat) (s : State) : Res :=
  match fn with
  | .vf _ _ => .next { s with readOut := 0 }
  | .mgmt n =>
    if !bit (hostMask s.var) n || 16 ≤ entry then .next { s with readOut := 0 }
    else
      .next { histLatch s entry with readOut := Tbl.get 0 s.blv.hist entry % two32 }

end Sys2Proof.Machine
end

