-- ==== Sys2Proof/Machine/CheckUnits.lean ====
section
/-! DEFINITION. Sys2Proof/Machine/CheckUnits.lean: the check units (R432 to R435, R437). -/
namespace Sys2Proof.Machine

/-- Whether a function owns check unit `u` (R432). -/
def ownsUnit (s : State) (fn : Fn) (u : Nat) : Bool :=
  let c := s.chk u
  decide (u < 32) && !s.shut &&
    (match fn with
     | .mgmt n => !c.toPart && c.port == n && bit (hostMask s.var) n
     | .vf n v => c.toPart && partOfVf s n v == some c.part)

/-- The interrupt of a unit's owner (R434, R437): vector of the management function, or of the first VF of the partition. -/
def unitIrq (s : State) (c : ChkUnit) : State :=
  if !c.irqEn then s
  else if c.toPart then sendIrq s (s.entry c.part).port ((s.entry c.part).vfFirstM1 + 1) c.vector
  else sendIrq s c.port 0 c.vector

/-- Error bit b of CHK_STAT is set: the open record has set it, and one that was clear interrupts and is reported (R434). -/
def setErr (s : State) (u b : Nat) : State :=
  let c := s.chk u
  let had := bit c.errs6 b
  let c := { c with errs6 := if had then c.errs6 else c.errs6 + 2 ^ b
                    setBits := if c.isOpen then c.setBits ||| 2 ^ b else c.setBits }
  let s := s.setChk u c
  if had then s else report (unitIrq s c) 57 (evtNone 0x070 0 u c.errs6)

/-- The first `n` entries of the feed queue enter the CRC. -/
def drain (c : ChkUnit) (n : Nat) : ChkUnit :=
  { c with crc := (c.queue.take n).foldl (crcFeed c.alg) c.crc, queue := c.queue.drop n }

/-- Run an operation of the owner on unit `u`, after `fed` entries of its feed queue have entered the CRC. -/
def withUnit (s : State) (fn : Fn) (u fed : Nat) (f : State → ChkUnit → State) : Res :=
  if !ownsUnit s fn u then .next s
  else
    let c := drain (s.chk u) fed
    .next (f (s.setChk u c) c)

/-- A feed write of `n` bytes (R434). -/
def feedWrite (s : State) (fn : Fn) (u value fed n : Nat) : Res :=
  withUnit s fn u fed (fun s c =>
    if !c.isOpen then setErr s u 5
    else if 16 ≤ c.queue.length then setErr s u 3
    else s.setChk u { c with queue := c.queue ++ [natLe n (value % 2 ^ (8 * n))] })

/-- CHK_D8: a feed of one byte. -/
def execChkD8 (fn : Fn) (u value fed : Nat) (s : State) : Res := feedWrite s fn u value fed 1
/-- CHK_D16: a feed of a half-word. -/
def execChkD16 (fn : Fn) (u value fed : Nat) (s : State) : Res := feedWrite s fn u value fed 2
/-- CHK_D32: a feed of a word. -/
def execChkD32 (fn : Fn) (u value fed : Nat) (s : State) : Res := feedWrite s fn u value fed 4

/-- START with ALIVE: a record is open with the CRC at its initial value (R434 action 1). -/
def execChkStart (fn : Fn) (u alive fed : Nat) (s : State) : Res :=
  withUnit s fn u fed (fun s c =>
    let was := c.isOpen
    let s := s.setChk u { c with isOpen := true, crc := crcInit c.alg, rcv := alive % 256, setBits := 0
                                 queue := if c.alvIn then [natLe 1 (alive % 256)] else [] }
    if was then setErr s u 4 else s)

/-- Whether the result differs from CHK_EXP, to the width of the check (R434 action 3). -/
def mismatch (c : ChkUnit) (res : Nat) : Bool := c.exp % 2 ^ crcWidth c.alg != res

/-- The alive counter's error, if any: REPEAT or SKIP (R434 action 4). -/
def aliveErr (c : ChkUnit) : Option Nat :=
  if !c.base then none
  else if c.rcv = c.last then some 1
  else if c.rcv = (c.last + 1) % 256 then none
  else some 2

/-- END: the queue empties, the record closes, and its result and alive counter are checked (R434 actions 3 to 5). -/
def execChkEnd (fn : Fn) (u fed : Nat) (s : State) : Res :=
  withUnit s fn u fed (fun s c =>
    if !c.isOpen then s
    else
      let c := drain c 16
      let res := crcOut c.alg c.crc
      let s := s.setChk u { c with res := res }
      let s := if mismatch c res then setErr s u 0 else s
      let s := match aliveErr c with
        | some b => setErr s u b
        | none => s
      let d := s.chk u
      s.setChk u { d with
        isOpen := false, base := true, last := if aliveErr c = some 1 then d.last else d.rcv
        recs := inc32 d.recs, errCnt := if d.setBits = 0 then d.errCnt else inc32 d.errCnt, setBits := 0 })

/-- RESET of a unit by its owner (R435). -/
def execChkReset (fn : Fn) (u : Nat) (s : State) : Res :=
  withUnit s fn u 0 (fun s c => s.setChk u (chkReset c true))

/-- CHK_ASSIGN: a management function assigns unit `u`, unless a record is open (R17, R432, R435). -/
def execChkAssign (fn : Fn) (u value : Nat) (s : State) : Res :=
  match fn with
  | .vf _ _ => .next s
  | .mgmt n =>
    if !bit (hostMask s.var) n || s.shut || 32 ≤ u || (s.chk u).isOpen then .next s
    else
      let c := { s.chk u with toPart := bit value 31, port := bits value 8 2, part := bits value 0 4 }
      .next (s.setChk u (chkReset c false))

end Sys2Proof.Machine
end

