-- ==== Sys2Proof/Machine/Gatehouse.lean ====
section
/-! DEFINITION. Sys2Proof/Machine/Gatehouse.lean: identity and attestation (R377, R378), IDE keys (R379), the vendor-defined
requests (R380), TIME_SET (R415), tamper events (R384 to R386), usage boundaries and the usage ring (R390 to R392), and the
end of the backup cell (R374). -/
namespace Sys2Proof.Machine

/-! ### The responders (R377, R387) -/

/-- Whether the module answers as a locked module does: it is locked, or it has no image (R387, R441). -/
def State.lockedLike (s : State) : Bool := s.gth.locked || s.noImage

/-- The module's 7-bit SMBus address: 0b110_00, SMB_ADDR1, SMB_ADDR0 (R453). -/
def smbusAddr (s : State) : Nat := 0x60 + s.pins.smbAddr % 4

/-- Whether an endpoint has an SPDM responder that can be reached. -/
def hasResponder (s : State) : Endpoint → Bool
  | .smbus a => s.gth.identOk && a == smbusAddr s
  | .fn (.mgmt n) => s.gth.identOk && bit (hostMask s.var) n && (s.port n).up
  | .fn (.vf n v) => s.gth.identOk && bit (hostMask s.var) n && (s.port n).up && (partOfVf s n v).isSome

/-- What an endpoint's responder has negotiated. -/
def spdmOf (s : State) (e : Endpoint) : Spdm :=
  match s.gth.spdm.find? (fun x => x.1 == e) with
  | some x => x.2
  | none => {}

/-- Replace it. -/
def setSpdm (s : State) (e : Endpoint) (x : Spdm) : State :=
  { s with gth := { s.gth with spdm := (e, x) :: s.gth.spdm.filter (fun y => y.1 != e) } }

/-- An SPDM error response: 0x100 plus the error code of DSP0274. -/
def spdmError (s : State) (req code : Nat) : State := answer s req (0x100 + code) [] false

/-- InvalidRequest. -/
def errInvalid : Nat := 0x01
/-- UnexpectedRequest. -/
def errUnexpected : Nat := 0x04
/-- SessionLimitExceeded. -/
def errSessions : Nat := 0x0A

/-! ### Measurements (R378) -/

/-- One byte of the configuration flash; erased bytes read 0xFF. -/
def flashByte (s : State) (a : Nat) : Byte := ~~~(Mem.rd s.boot.flash a)

/-- Bytes of the flash from an address. -/
def flashBytes (s : State) (a n : Nat) : Bytes := (upto n).map (fun i => flashByte s (a + i))

/-- First flash address of a bank: 1 for A, 2 for B (R439). -/
def bankBase (b : Nat) : Nat := if b = 2 then 0x10000000 else 0

/-- The accepted configuration image: LENGTH bytes of its bank (R440). -/
def imageBytes (s : State) : Bytes :=
  if s.boot.bank = 0 then []
  else flashBytes s (bankBase s.boot.bank) (leNat (flashBytes s (bankBase s.boot.bank + 0x10) 4))

/-- CFG_IDENT to CFG_BEDS in register order (R7). -/
def capWords (s : State) : List Nat :=
  [0x4B54 * 65536 + variantCode s.var * 256 + s.cfg.rev % 256, 0, cfgUnits s.var, stackMask s.var,
   s.cfg.bedUsable % 65536 * 65536 + bedMask s.var]

/-- The 32 bytes of a layout entry (R352). -/
def entryBytes (e : LayoutEntry) : Bytes :=
  natLe 4 (b2n e.used * 2 ^ 31 + b2n e.cached * 2 ^ 30 + e.maxCtxM1 % 64 * 2 ^ 24 + e.port % 4 * 65536 + e.beds % 65536) ++
    natLe 4 (e.vfCount % 128 * 64 + e.vfFirstM1 % 64) ++ natLe 4 e.firstFrame ++ natLe 4 e.frameCount ++ natLe 4 e.tsQuota ++
    List.replicate 12 0

/-- SHA-384 of a string, 48 bytes. -/
def digest (b : Bytes) : Bytes := natBe 48 (Config.sha384 b)

/-- Measurement 1. -/
def meas1 : Bytes := digest Config.firmware
/-- Measurement 2. -/
def meas2 (s : State) : Bytes := digest (imageBytes s)
/-- The 16 bytes of a tamper-log entry. -/
def tlogBytes (t : TamperLog) : Bytes := (upto 4).flatMap (fun i => natLe 4 (tlogWord t i))

/-- Measurement 4: alarm level, the tamper-log entries in use, LOCKED. -/
def meas4 (s : State) : Bytes :=
  let used := s.gth.tlog.filter (fun x => x.2.valid)
  digest (natLe 1 s.gth.level ++ natLe 1 used.length ++ used.flatMap (fun x => natLe 1 x.1 ++ tlogBytes x.2) ++ natLe 1 (b2n s.gth.locked))

/-- The measurement blocks of an endpoint, by index (R378). -/
def measurements (s : State) (e : Endpoint) : List (Nat × Bytes) :=
  let num := natLe 1 s.lay.active.number
  let part : Option Nat := match e with
    | .fn f => partOfFn s f
    | .smbus _ => none
  let five : Bytes := match part with
    | some p => num ++ entryBytes (s.entry p)
    | none => num ++ (upto 16).flatMap (fun p => entryBytes (s.entry p))
  let imgs : List (Nat × Bytes) := match part with
    | some p => (partKeys s p).map (fun k => (0x10 + k % 64, match (s.ctx k).image with
        | some img => natBe 48 (Config.imageDigest img)
        | none => List.replicate 48 0))
    | none => []
  [(1, meas1), (2, meas2 s), (3, (capWords s).flatMap (natLe 4)), (4, meas4 s), (5, digest five),
   (6, natLe 8 s.alm.time ++ natLe 1 (b2n s.alm.unset))] ++ imgs

/-! ### Requests without a session (R377) -/

/-- GET_VERSION: the versions supported; what was negotiated before is discarded. -/
def execGetVersion (e : Endpoint) (s : State) : Res :=
  if !hasResponder s e then .next s
  else .next (answer (setSpdm s e { version := true }) 0x84 0 [(0, natLe 2 0x1300)] false)

/-- The requests the responder serves, by their codes of DSP0274, in the order of R377. -/
def servedReqs : List Nat := [0x84, 0xE1, 0xE3, 0x81, 0x82, 0x83, 0xE0, 0xE4, 0xE5, 0xE8, 0xE9, 0xEC, 0xFE]

/-- The requests R377 names as not supported: PSK_EXCHANGE, SET_CERTIFICATE, GET_CSR. -/
def unservedReqs : List Nat := [0xE6, 0xEE, 0xED]

/-- What GET_CAPABILITIES answers: each request of R377 with 1 where it is served and 0 where it is not; then, under 0, the
sessions at once and the heartbeat period in seconds, and no mutual authentication and no chunking (log 60). -/
def capBlocks : List (Nat × Bytes) :=
  servedReqs.map (fun r => (r, natLe 1 1)) ++ unservedReqs.map (fun r => (r, natLe 1 0)) ++
    [(0, natLe 1 4 ++ natLe 1 60 ++ natLe 1 0 ++ natLe 1 0)]

/-- What NEGOTIATE_ALGORITHMS answers: the one algorithm of each kind that R377 names, as DSP0274 codes kinds and algorithms (log
60): ECDSA P-384, SHA-384, secp384r1, AES-256-GCM, the SPDM key schedule. -/
def algBlocks : List (Nat × Bytes) :=
  [(0, natLe 4 0x80), (1, natLe 4 0x02), (2, natLe 2 0x10), (3, natLe 2 0x02), (5, natLe 2 0x01)]

/-- GET_CAPABILITIES. -/
def execGetCapabilities (e : Endpoint) (s : State) : Res :=
  let x := spdmOf s e
  if !hasResponder s e then .next s
  else if !x.version then .next (spdmError s 0xE1 errUnexpected)
  else .next (answer (setSpdm s e { x with caps := true }) 0xE1 0 capBlocks false)

/-- NEGOTIATE_ALGORITHMS. -/
def execNegotiateAlgorithms (e : Endpoint) (s : State) : Res :=
  let x := spdmOf s e
  if !hasResponder s e then .next s
  else if !x.caps then .next (spdmError s 0xE3 errUnexpected)
  else .next (answer (setSpdm s e { x with algs := true }) 0xE3 0 algBlocks false)

/-- The certificate chain of a slot. -/
def chain (s : State) (slot : Nat) : Bytes := Config.certChain slot meas1 (meas2 s)

/-- GET_DIGESTS: the digests of certificate slots 0 and 1. -/
def execGetDigests (e : Endpoint) (s : State) : Res :=
  if !hasResponder s e then .next s
  else if !(spdmOf s e).algs then .next (spdmError s 0x81 errUnexpected)
  else .next (answer s 0x81 0 [(0, digest (chain s 0)), (1, digest (chain s 1))] false)

/-- GET_CERTIFICATE of slot 0 or 1. -/
def execGetCertificate (e : Endpoint) (slot : Nat) (s : State) : Res :=
  if !hasResponder s e then .next s
  else if !(spdmOf s e).algs then .next (spdmError s 0x82 errUnexpected)
  else if 2 ≤ slot then .next (spdmError s 0x82 errInvalid)
  else .next (answer s 0x82 0 [(slot, chain s slot)] false)

/-- CHALLENGE: the digest of the chain of a certificate slot, signed by the attestation key. -/
def execChallenge (e : Endpoint) (slot : Nat) (s : State) : Res :=
  if !hasResponder s e then .next s
  else if !(spdmOf s e).algs then .next (spdmError s 0x83 errUnexpected)
  else if 2 ≤ slot then .next (spdmError s 0x83 errInvalid)
  else .next (answer s 0x83 0 [(slot, digest (chain s slot))] true)

/-- GET_MEASUREMENTS: index 0 returns the number of blocks, 0xFF all of them, any other the block of that index. -/
def execGetMeasurements (e : Endpoint) (index : Nat) (s : State) : Res :=
  let ms := measurements s e
  if !hasResponder s e then .next s
  else if !(spdmOf s e).algs then .next (spdmError s 0xE0 errUnexpected)
  else if index = 0 then .next (answer s 0xE0 0 [(0, natLe 1 ms.length)] true)
  else if index = 0xFF then .next (answer s 0xE0 0 ms true)
  else match ms.filter (fun m => m.1 == index) with
    | [] => .next (spdmError s 0xE0 errInvalid)
    | bs => .next (answer s 0xE0 0 bs true)

/-! ### Sessions (R377) -/

/-- KEY_EXCHANGE starts a session whose handshake has not finished: at most 4 at once, none on a locked module (R377, R387). -/
def execKeyExchange (e : Endpoint) (s : State) : Res :=
  let x := spdmOf s e
  if !hasResponder s e then .next s
  else if s.lockedLike || !x.algs then .next (spdmError s 0xE4 errUnexpected)
  else if 4 ≤ x.sessions.length then .next (spdmError s 0xE4 errSessions)
  else
    let n := s.gth.sessGen + 1
    let s := setSpdm s e { x with sessions := { id := n, up := false, beat := s.now } :: x.sessions }
    let s := { s with gth := { s.gth with sessGen := n } }
    .next (answer s 0xE4 0 [(0, natLe 4 n), (1, natLe 1 60)] true)

/-- The session of an endpoint with a number and a state of its handshake. -/
def sessionIn (s : State) (e : Endpoint) (id : Nat) (up : Bool) : Bool :=
  (spdmOf s e).sessions.any (fun y => y.id == id && y.up == up)

/-- Change a session of an endpoint. -/
def updSession (s : State) (e : Endpoint) (id : Nat) (f : Session → Session) : State :=
  let x := spdmOf s e
  setSpdm s e { x with sessions := x.sessions.map (fun y => if y.id = id then f y else y) }

/-- Remove a session of an endpoint. -/
def dropSession (s : State) (e : Endpoint) (id : Nat) : State :=
  let x := spdmOf s e
  setSpdm s e { x with sessions := x.sessions.filter (fun y => y.id != id) }

/-- FINISH: `ok` is whether the requester's verify data is right; a wrong one ends the session. -/
def execFinish (e : Endpoint) (id : Nat) (ok : Bool) (s : State) : Res :=
  if !hasResponder s e || !sessionIn s e id false then .next s
  else if ok then .next (answer (updSession s e id (fun y => { y with up := true })) 0xE5 0 [] false)
  else .next (spdmError (dropSession s e id) 0xE5 errInvalid)

/-- HEARTBEAT inside a session. -/
def execHeartbeat (e : Endpoint) (id : Nat) (s : State) : Res :=
  if !hasResponder s e || !sessionIn s e id true then .next s
  else .next (answer (updSession s e id (fun y => { y with beat := s.now })) 0xE8 0 [] false)

/-- KEY_UPDATE inside a session. -/
def execKeyUpdate (e : Endpoint) (id : Nat) (s : State) : Res :=
  if !hasResponder s e || !sessionIn s e id true then .next s
  else .next (answer (updSession s e id (fun y => { y with keys := y.keys + 1 })) 0xE9 0 [] false)

/-- END_SESSION. -/
def execEndSession (e : Endpoint) (id : Nat) (s : State) : Res :=
  if !hasResponder s e || !sessionIn s e id true then .next s
  else .next (answer (dropSession s e id) 0xEC 0 [] false)

/-! ### IDE_KM (R348, R374, R379) -/

/-- Request code of a message carried inside a session. -/
def reqVendor : Nat := 0xFE

/-- Whether a port's function 0 has the session in which IDE_KM messages are accepted. -/
def ideSession (s : State) (port id : Nat) : Bool :=
  hasResponder s (.fn (.mgmt port)) && sessionUp s (.fn (.mgmt port)) id

/-- Whether two keys are of one stream and set. -/
def sameSet (port stream kset : Nat) (i : IdeKey) : Bool := i.port == port && i.stream == stream && i.kset == kset

/-- KEY_PROG: the key of one set of a stream; VF 0 names the link stream of the port, and a VF has at most one selective
stream. -/
def execKeyProg (port session stream kset vf key : Nat) (s : State) : Res :=
  if !ideSession s port session then .next s
  else if 64 < vf || 2 ≤ kset || s.gth.ide.any (fun i => i.port == port && ((i.vf == vf) != (i.stream == stream))) then
    .next (answer s reqVendor 4 [] false)
  else
    let ide := { port := port, stream := stream, kset := kset, vf := vf, key := key, active := false } ::
      s.gth.ide.filter (fun i => !sameSet port stream kset i)
    .next (answer { s with gth := { s.gth with ide := ide } } reqVendor 0 [] false)

/-- K_SET_GO: a programmed set is active. -/
def execKSetGo (port session stream kset : Nat) (s : State) : Res :=
  if !ideSession s port session then .next s
  else if !s.gth.ide.any (sameSet port stream kset) then .next (answer s reqVendor 1 [] false)
  else
    let ide := s.gth.ide.map (fun i => if sameSet port stream kset i then { i with active := true } else i)
    .next (answer { s with gth := { s.gth with ide := ide } } reqVendor 0 [] false)

/-- K_SET_STOP: a set stops and its keys are discarded. -/
def execKSetStop (port session stream kset : Nat) (s : State) : Res :=
  if !ideSession s port session then .next s
  else
    let ide := s.gth.ide.filter (fun i => !sameSet port stream kset i)
    .next (answer { s with gth := { s.gth with ide := ide } } reqVendor 0 [] false)

/-- QUERY: the IDE streams of the port: stream, set, VF, active. -/
def execQuery (port session : Nat) (s : State) : Res :=
  if !ideSession s port session then .next s
  else
    let bs := (s.gth.ide.filter (fun i => i.port == port)).map (fun i =>
      (i.stream, natLe 1 i.kset ++ natLe 1 i.vf ++ natLe 1 (b2n i.active)))
    .next (answer s reqVendor 0 bs false)

/-! ### Vendor-defined requests (R380) -/

/-- The partition that a request inside a session of a VF acts for. -/
def vendorPart (s : State) (port vf session : Nat) : Option Nat :=
  let e := Endpoint.fn (.vf port vf)
  if hasResponder s e && sessionUp s e session then partOfVf s port vf else none

/-- Keys of a partition slot. -/
def slotKeys (s : State) (p : Nat) : SlotKeys := Tbl.get {} s.gth.slots p

/-- TENANT_SETUP: PTK (32 bytes) and job controller key (97 bytes, uncompressed point); STATE while a LAYOUT_SWITCH changes the slot
(R447). -/
def execTenantSetup (port vf session : Nat) (payload : Bytes) (s : State) : Res :=
  match vendorPart s port vf session with
  | none => .next s
  | some p =>
    let k := slotKeys s p
    let ptk := leNat (payload.take 32)
    let jck := payload.drop 32
    if payload.length ≠ 129 || jck.getD 0 0 ≠ 4 then .next (answer s reqVendor 4 [] false)
    else if slotSwitching s p then .next (answer s reqVendor 1 [] false)
    else if k.ptk.isSome then
      .next (answer s reqVendor (if k.ptk = some ptk && k.jck = some jck then 0 else 2) [] false)
    else
      let slots := Tbl.set s.gth.slots p { k with ptk := some ptk, jck := some jck }
      .next (answer { s with gth := { s.gth with slots := slots } } reqVendor 0 [] false)

/-- BIND_CONTEXT: context number (1 byte) and command key (32 bytes); STATE while a LAYOUT_SWITCH changes the slot (R447). -/
def execBindContext (port vf session : Nat) (payload : Bytes) (s : State) : Res :=
  match vendorPart s port vf session with
  | none => .next s
  | some p =>
    let c := leNat (payload.take 1)
    let k := 64 * p + c
    let x := s.ctx k
    if payload.length ≠ 33 then .next (answer s reqVendor 4 [] false)
    else if slotSwitching s p then .next (answer s reqVendor 1 [] false)
    else if 64 ≤ c || !(x.state == .open || x.state == .stopped) || x.q.sqFmt != 2 || x.vf != vf then
      .next (answer s reqVendor 1 [] false)
    else if x.keyed then .next (answer s reqVendor 2 [] false)
    else .next (answer (s.setCtx k { x with keyed := true, key := leNat (payload.drop 1) }) reqVendor 0 [] false)

/-- GET_USAGE_HEAD: context number (1 byte). -/
def execGetUsageHead (port vf session : Nat) (payload : Bytes) (s : State) : Res :=
  match vendorPart s port vf session with
  | none => .next s
  | some p =>
    let c := leNat (payload.take 1)
    if payload.length ≠ 1 || 64 ≤ c then .next (answer s reqVendor 4 [] false)
    else match (useOf s (64 * p + c)).last with
      | some r => .next (answer s reqVendor 0 [(0, useBytes r)] false)
      | none => .next (answer s reqVendor 4 [] false)

/-- The partition that PARTITION_ERASE erases: the VF's own, or `p` of function 0's port. -/
def erasePart (s : State) (fn : Fn) (session p : Nat) : Option Nat :=
  match fn with
  | .vf n v => vendorPart s n v session
  | .mgmt n =>
    if hasResponder s (.fn fn) && sessionUp s (.fn fn) session && !s.shut && (s.entry p).used && (s.entry p).port == n
    then some p else none

/-- PARTITION_ERASE (R380, R381). -/
def execPartitionErase (fn : Fn) (session p : Nat) (s : State) : Res :=
  match erasePart s fn session p with
  | none => .next s
  | some p =>
    if !(openKeys s p).isEmpty || tdiHeld s p then .next (answer s reqVendor 3 [] false)
    else .next (answer (cryptoErase s p) reqVendor 0 [] false)

/-! ### TIME_SET (R390, R415) -/

/-- The keys of the contexts whose usage interval is open. -/
def usageKeys (s : State) : List Nat := (s.gth.uses.filter (fun u => u.2.isOpen)).map Prod.fst

/-- A minute in ns. -/
def minute : Nat := 60000000000

/-- The clock steps to a time (R390 point 4, R415). -/
def stepClock (s : State) (new : Nat) : State :=
  let s := (usageKeys s).foldl (fun s k => usageStep s k s.alm.time new) s
  { s with alm := { s.alm with time := new, unset := false }, gth := { s.gth with boundary := new / minute } }

/-- TIME_SET on the management queue of port `n`. -/
def execTimeSet (n : Nat) (block : Bytes) (sigOk devOk : Bool) (s : State) : Res :=
  match mgmtHead s n opTimeSet with
  | none => .next s
  | some m =>
    if sbFails s block opTimeSet 64 s.gth.mgmtCtr sigOk devOk then .next (completeMgmt s n m.id { status := stSignature })
    else .next (completeMgmt (stepClock (mgmtAccept s block) (sbPayload block)) n m.id { status := stOk })

/-! ### Tamper events (R384 to R386) -/

/-- The packets of this module's own jobs that wait at a Trellis port are not sent: they have no traffic key any more (R386). -/
def stopSenders (s : State) : State :=
  (upto 16).foldl (fun s n =>
    let x := s.tport n
    s.setTport n { x with sendq := x.sendq.filter (fun o => o.arr != 15) }) s

/-- The level-1 response (R386). -/
def tamperResponse (s : State) : State :=
  let used := (upto 16).filter (fun p => (s.entry p).used)
  let s := (upto 16).foldl dropKeys s
  let s := linksDown (fun s k => endContext s k (fReset ||| fTamper)) (stopSenders (stopJobs s))
  let s := used.foldl cryptoErase s
  if 6 ≤ s.boot.step then linksUp s else s

/-- The configuration keys are erased and the module is locked: no session is left, on the SMBus either, since a locked responder answers
no more than GET_MEASUREMENTS (R386, R387). -/
def lockModule (s : State) : State :=
  { s with gth := { s.gth with keyStore := false, locked := true, spdm := s.gth.spdm.map (fun x => (x.1, { x.2 with sessions := [] })) } }

/-- Severity of a tamper event by level (R423). -/
def tamperSev (level : Nat) : Nat := if level = 0 then 0 else if level = 1 then 1 else 3

/-- TAMPER_EVENT: one or more of the five sensors. On backup power the Belvedere takes its event at once, and BLV_LASTFATAL keeps a FATAL
one (R384, R386, R422); log 45. -/
def execTamperEvent (sensors : Nat) (s : State) : Res :=
  let m := sensors % 32
  if m = 0 then .next s
  else
    let g := s.gth
    let backup := !s.boot.rails
    let e : TamperLog := { time := s.alm.time, valid := true, unset := s.alm.unset, backup := backup, sensors := m
                           level := g.level }
    let s := { s with gth := { g with tamper := g.tamper ||| m, onBackup := backup, tlog := Tbl.set g.tlog g.tlogNext e
                                      tlogNext := (g.tlogNext + 1) % 8 } }
    let e := evtNone 0x040 (tamperSev g.level) 0xFF (g.level % 4 * 32 + m)
    if backup then
      let s := noteEvent s 52 e
      .next (if 2 ≤ g.level then lockModule s else s)
    else
      let s := report s 52 e
      let s := if 1 ≤ g.level then tamperResponse s else s
      .next (if 2 ≤ g.level then lockModule s else s)

/-- The least time without 48 V that the backup cell lasts: 30 days, in nanoseconds (R5). -/
def minBackupNs : Nat := 30 * 86400 * 1000000000
/-- The nanoseconds without 48 V for which the backup cell lasts (R5, R413; log 79). -/
def backupNs : Nat := minBackupNs + Config.backupSpare.toNat

/-- BACKUP_CELL_EXHAUSTED without 48 V: no backup remains, the configuration keys are lost, the module is locked and the clock is unset
(R374, R387, R413, R414). Before 30 days without 48 V it cannot be, and changes nothing (R5; log 79). -/
def execBackupCellExhausted (s : State) : Res :=
  if s.boot.rails || decide (s.alm.spent < minBackupNs) then .next s
  else .next { lockModule s with alm := { s.alm with unset := true, spent := backupNs } }

/-! ### Usage boundaries and rings (R390 to R392) -/

/-- USAGE_BOUNDARY: the next whole minute of the calendar clock has been reached. -/
def execUsageBoundary (s : State) : Res :=
  let b := s.gth.boundary + 1
  if s.alm.time / minute < b then .next s
  else
    let s := (usageKeys s).foldl (fun s k => usageBoundary s k (b * minute)) s
    .next { s with gth := { s.gth with boundary := b } }

/-- Whether a waiting record belongs to the ring of a port: its partition is assigned to it (R391). -/
def ofPort (s : State) (n : Nat) (r : UseRec) : Bool := (s.entry r.part).used && (s.entry r.part).port == n

/-- USAGE_RING_WRITE: the oldest waiting record of a port enters its ring (R391, R392). -/
def execUsageRingWrite (n : Nat) (s : State) : Res :=
  let r := Tbl.get {} s.gth.rings n
  let size := 2 ^ r.log2
  match s.gth.store.find? (ofPort s n) with
  | none => .next s
  | some u =>
    if !(s.port n).up || !r.enable || r.log2 < 6 || 16 < r.log2 || (r.tail + 1) % size = r.head % size then .next s
    else
      let s := s.hostWrite n (r.base + 256 * r.tail) (useBytes u)
      let s := { s with gth := { s.gth with store := s.gth.store.filter (fun x => x.seq != u.seq)
                                            rings := Tbl.set s.gth.rings n { r with tail := (r.tail + 1) % size } } }
      .next (sendIrq s n 0 r.vector)

end Sys2Proof.Machine
end

