-- ==== Sys2Proof/Machine/Cold.lean ====
section
/-! DEFINITION. Sys2Proof/Machine/Cold.lean: what a loss of power or a cold start leaves of the module (R397, R445), and the
Almanac's worst-case hot state (R406). -/
namespace Sys2Proof.Machine

/-- Thermal design power in W: the default of CAP (R4, R416). -/
def tdp : Variant → Nat
  | .kt960 => 2800
  | .kt640 => 2650
  | .kt320 => 1500

/-- Largest configurable cap in W (R4, R416). -/
def largestCap : Variant → Nat
  | .kt960 => 3000
  | .kt640 => 2850
  | .kt320 => 1650

/-- The defaults of R416. -/
def powerDefaults (v : Variant) : Power := { cap := tdp v, capMax := largestCap v }

/-- What the backup domain keeps of the Gatehouse (R374, R383 to R388, R393, R397). -/
def keptGth (g : Gatehouse) : Gatehouse :=
  { locked := g.locked, level := g.level, keyStore := g.keyStore, keyGen := g.keyGen, sessGen := g.sessGen, store := g.store
    seq := g.seq, mgmtCtr := g.mgmtCtr, tamper := g.tamper, onBackup := g.onBackup, tlog := g.tlog, tlogNext := g.tlogNext }

/-- What is left of the module without power, or at the begin of a cold start: the backup domain, the flash, the pins, the
input as sampled and what has left the module (R374, R393, R397, R413, R445). -/
def coldState (s : State) : State :=
  { cfg := { variant := s.cfg.variant, rev := s.cfg.rev, bedUsable := bedMask s.var }
    lay := { switchCtr := s.lay.switchCtr }
    mems := { host := s.mems.host }
    trl := { outPkts := s.trl.outPkts }
    blv := { lastFatal := s.blv.lastFatal }
    gth := keptGth s.gth
    alm := { inp := { s.alm.inp with pin := 0, pd := 0, overI := false, okUs := 0, lowUs := 0, absUs := 0, highUs := 0 }, pw := powerDefaults s.var, phys := s.alm.phys
             time := s.alm.time, unset := s.alm.unset, spent := s.alm.spent }
    boot := { floor := s.boot.floor, flash := s.boot.flash }
    pins := s.pins, readOut := s.readOut, irqs := s.irqs, now := s.now, freeCount := s.freeCount, pending := s.pending }

/-- The temperature of each die in the worst-case hot state (R406). -/
def hotDie (s : State) : Rat := 45 + (6 * s.alm.pw.cap : Nat) / (100 * dieCount s.var : Nat)

/-- The worst-case hot state of the Almanac's model under the cap in force (R406). -/
def hotModel (s : State) : State :=
  let a := s.alm
  let t := hotDie s
  { s with alm := { a with tin := 45 * 16, tdie := (upto (dieCount s.var)).map (fun d => (d, t)), charge := 40000
                           measured := false, peff := a.pw.cap, bfr := 0 } }

end Sys2Proof.Machine
end

