-- ==== Sys2Proof/Machine/Almanac.lean ====
section
/-! DEFINITION. Sys2Proof/Machine/Almanac.lean: the 48 V input, load shaping, the power frame, the thermal model, energy
credit and the core clocks (R394 to R412), and the counters that follow time (R182, R289, R366, R368, R389, R409, R429). -/
namespace Sys2Proof.Machine

/-! ### Time: every input sample is 10 µs (R394) -/

/-- Nanoseconds of a sample. -/
def sampleNs : Nat := 10000

/-- Whether a stream slot of a core is halted. -/
def coreHalted (c : Core) : Bool := c.slots.any (fun x => x.2.active && x.2.halted)

/-- A command has run over one more sample of the tick under way (R407, R408). -/
def addShare (s : State) (p k id : Nat) (eng : Bool) : State :=
  let is (x : RunShare) : Bool := x.part == p && x.key == k && x.cmd == id && x.eng == eng
  let ran := if s.alm.ran.any is then s.alm.ran.map (fun x => if is x then { x with n := x.n + 1 } else x)
    else { part := p, key := k, cmd := id, eng := eng, n := 1 } :: s.alm.ran
  { s with alm := { s.alm with ran := ran } }

/-- The time of the running core-class command of a partition: its watchdog or halted time, its context's running time and
quantum, and its core-nanoseconds (R182, R366, R368, R373, R389). -/
def runTime (s : State) (p : Nat) : State :=
  match (s.sched p).run with
  | none => s
  | some r =>
    let halted := r.all.any (fun n => coreHalted (s.core n))
    let s := updCmd s r.key r.cmd (fun m =>
      if halted then { m with haltNs := m.haltNs + sampleNs } else { m with runNs := m.runNs + sampleNs })
    let c := s.ctx r.key
    let s := s.setCtx r.key { c with runNs := satAdd 64 c.runNs sampleNs }
    let x := s.sched p
    let s := if x.cur = keyCtx r.key then s.setSched p { x with left := x.left - sampleNs } else s
    meter (addShare s p r.key r.cmd false) r.key (fun u => { u with coreNs := satAdd 64 u.coreNs (sampleNs * (logicalCores s p).length) })

/-- The time of the running engine-class command of a partition, for its metering (R408). -/
def engTime (s : State) (p : Nat) : State :=
  match (s.sched p).eng with
  | some (k, id) => addShare s p k id true
  | none => s

/-- The measured bubble of a context whose STAGE waits for an arrival (R289). -/
def stageIdle (s : State) (k : Nat) : State :=
  let c := s.ctx k
  let running := match (s.sched (keyPart k)).run with
    | some r => r.key == k
    | none => false
  if c.stage.run && !c.stage.probe && !running && !arrivalOk s k then
    s.setCtx k { c with stage := { c.stage with idleNs := satAdd 64 c.stage.idleNs sampleNs } }
  else s

/-- The REBUILD of a partition that waits for credit. -/
def rebuildAsk (s : State) (p : Nat) : Option (Nat × Cmd) :=
  (partKeys s p).findSome? (fun k =>
    ((s.ctx k).q.cmds.find? (fun m => m.desc.opcode == opRebuild && m.phase == CmdPhase.asking)).map (fun m => (k, m)))

/-- The core-class candidate of a partition that waits for credit: the chosen one (R366, R409). -/
def coreAsk (s : State) (p : Nat) : Option Cand :=
  if (s.sched p).run.isSome then none
  else match coreCands s p with
    | c :: _ => if candPhase s c == .asking then some c else none
    | [] => none

/-- Whether the sweep of a partition waits for credit or for its home slot (R403). -/
def sweepAsk (s : State) (p : Nat) : Bool := (s.upd p).cmd.isSome && (s.upd p).ask == .asking

/-- The time a partition is held for credit or for its home slot (R409). -/
def holdTime (s : State) (p : Nat) : State :=
  if (coreAsk s p).isSome || sweepAsk s p || (rebuildAsk s p).isSome then
    { s with alm := { s.alm with hold := Tbl.upd 0 s.alm.hold p (fun n => satAdd 64 n sampleNs) } }
  else s

/-- Whether engine k awaits a DACK after its sweep, or a DELTA of its has no room at the port it leaves by (R299, R429). -/
def deltaWaits (s : State) (p k : Nat) : Bool :=
  let e := updEng s p k
  (e.ended && !e.unacked.isEmpty) ||
    (s.prot p).tx.any (fun x => x.kind == 1 && e.unacked.contains (x.group, x.idx, x.rank) && flowBusy s p x.rank (0xFFF0 + x.idx % 16))

/-- The stall cause of update engine k in a partition's command, if it is stalled (R429). The walks of action 1 of R249 count when
the command issues (beginUpd). -/
def upCause (s : State) (p k : Nat) : Option Nat :=
  let u := s.upd p
  if u.cmd.isSome then
    match u.phase with
    | .idle => none
    | .landing => some (if u.counts.length < planBlocks (updPlan s p) then 0 else 5)
    | .norm => if !u.normSeen then some 2 else if u.ask != .granted then some 7 else none
    | .sweep => if deltaWaits s p k then some 5 else none
    | .acks => if deltaWaits s p k then some 5 else none
  else
    match (s.prot p).rb with
    | some r => some (if r.todo.isEmpty && (s.prot p).tx.any (fun x => x.kind == 1) then 5 else 0)
    | none => none

/-- The cycles of one sample at the clock of a die. -/
def sampleCycles (s : State) (d : Nat) : Nat := 10 * Tbl.get 800 s.alm.clocks d

/-- Stall cycles of the update engines, at their dies' core clocks (R429). -/
def upTime (s : State) (p : Nat) : State :=
  (presentEngines s.var).foldl (fun s k =>
    match upCause s p k with
    | none => s
    | some c =>
      let n := sampleCycles s (k / 3)
      { s with blv := { s.blv with upStall := Tbl.upd 0 s.blv.upStall (8 * k + c) (fun v => satAdd 64 v n) } }) s

/-- Whether some block of a partition has its local contributions and awaits a child on a die (R314, R429). -/
def sliceWaits (s : State) (p d : Nat) : Bool :=
  (s.job p).work.any (fun w =>
    let chan := w.1 / 2 ^ 32
    let e := collOf s (jobKey s p) chan
    w.2.kept.isNone && decide (0 < w.2.locals) && decide (colLexp e ≤ w.2.locals) &&
      (match engSpa s p (colWa e) with
       | some spa => dieOfSpa s.var spa == d
       | none => false))

/-- The stack controllers that hold the writes of a landing block of the next step: those of its granules (R217, R250). -/
def heldCtls (s : State) (p : Nat) (h : Held) : List Nat :=
  let segs := dieSegs (updPlan s p) (h.key / 2 ^ 20)
  match blockAt segs 0 (h.key % 2 ^ 20) with
  | none => []
  | some (seg, b) =>
    let g := segs.getD seg []
    ((upto (cdiv (min 65536 (2 * (gCount g - 32768 * b))) 256)).filterMap (fun i =>
      (engSpa s p (gG g + 65536 * b + 256 * i)).map (ctlOfSpa s.var))).eraseDups

/-- The time landing writes are held: UPD_DHOLD of the engine at each controller that holds one (R250, R273). -/
def landHoldTime (s : State) : State :=
  (((upto 16).flatMap (fun p => (s.upd p).held.flatMap (heldCtls s p))).eraseDups).foldl (fun s k =>
    let x := s.updReg k
    s.setUpdReg k { x with dhold := satAdd 32 x.dhold (sampleCycles s (k / 3)) }) s

/-- Stall time of the Trellis ports and the reduction slices: a slice waits for children's partials. The wait of a held landing write is
no stall of a slice: R428 governs by R20 (R429). -/
def trTime (s : State) : State :=
  let add (s : State) (t c : Nat) : State :=
    { s with blv := { s.blv with trStall := Tbl.upd 0 s.blv.trStall (8 * t + c) (fun n => satAdd 64 n sampleNs) } }
  let s := ((upto 16).filter (fun n => portUp (s.tport n) && !(s.tport n).sendq.isEmpty)).foldl (fun s n => add s n 5) s
  ((upto (dieCount s.var)).filter (fun d => (upto 16).any (fun p => sliceWaits s p d))).foldl (fun s d => add s (16 + d) 0) s

/-- The wait of an UPDATE for its landing blocks (R248). -/
def landTime (s : State) (p : Nat) : State :=
  let u := s.upd p
  if u.cmd.isSome && u.phase == .landing then s.setUpd p { u with waited := u.waited + sampleNs } else s

/-- Whether a core's sequencer could dispatch: its queues are empty and a task is neither held nor ended (R423). -/
def seqStuck (c : Core) : Bool := c.cmd.isSome && c.q == {} && (upto 4).any (taskReady c)

/-- Whether no task of a core has dispatched for 1 ms, and one has just reached that time (R423). -/
def seqDead (c : Core) : Bool := c.tasks.all (fun t => decide (1000000 ≤ t.2.idleNs)) && c.tasks.any (fun t => t.2.idleNs == 1000000)

/-- The sequencer of a core over one more sample: one that could dispatch and has dispatched nothing for 1 ms is a core-fatal error
(R423). -/
def seqTime (s : State) (n : Nat) : State :=
  let c := s.core n
  let stuck := seqStuck c
  let c := { c with tasks := c.tasks.map (fun t => (t.1, { t.2 with idleNs := if stuck then t.2.idleNs + sampleNs else 0 })) }
  let s := s.setCore n c
  if seqDead c then report s (n / 16) (evtNone 0x041 2 n 1) else s

/-- The sequencers of a partition's running command. -/
def seqTimes (s : State) (p : Nat) : State :=
  match (s.sched p).run with
  | none => s
  | some r => r.cores.foldl seqTime s

/-- Errors that a block has found in itself are reported: core-fatal ones by core and unit, those of the hub's memories, and lost
clocks (R423; log 49). -/
def reportMarks (s : State) : State :=
  let b := s.blv
  let s := { s with blv := { b with coreDead := [], hubMem := [], clockLost := [] } }
  let s := b.coreDead.foldl (fun s x => report s (x.1 / 16) (evtNone 0x041 2 x.1 (x.2 % 8))) s
  let s := b.hubMem.foldl (fun s m => report s 61 (evtNone 0x051 3 0xFF (m % 16))) s
  b.clockLost.foldl (fun s d => report s 60 (evtNone 0x052 3 (d % 256) 0)) s

/-- Everything that counts time over one sample. -/
def passTime (s : State) : State :=
  let s := reportMarks { s with alm := { s.alm with samples := s.alm.samples + 1 } }
  let s := (upto 16).foldl seqTimes s
  let s := (upto 16).foldl (fun s p => landTime (upTime (holdTime (engTime (runTime s p) p) p) p) p) s
  trTime <| landHoldTime ((s.parts.ctxs.map Prod.fst).foldl stageIdle s)

/-- The clocks that run with and without 48 V. -/
def clockTime (s : State) : State :=
  { s with now := s.now + sampleNs, alm := { s.alm with time := (s.alm.time + sampleNs) % 2 ^ 64 } }

/-! ### The 48 V input (R394 to R397) -/

/-- How long a condition has lasted after one more sample. -/
def lasted (us : Nat) (holds : Bool) : Nat := if holds then us + 10 else 0

/-- The measurements of a sample: mV and units of 10 mA (R394). -/
def sampled (a : Almanac) (vin iin : Nat) : Almanac :=
  let i := a.inp
  let high := decide (8000 < iin) || (i.overI && decide (7600 ≤ iin))
  { a with
    inp := { i with
      vin := vin, iin := iin, sagUs := lasted i.sagUs (decide (vin < a.pw.sagMv))
      upUs := lasted i.upUs (decide (a.pw.sagMv + 1000 ≤ vin)), lowUs := lasted i.lowUs (decide (vin < 40000))
      absUs := lasted i.absUs (iin == 0), highUs := lasted i.highUs (decide (60000 < vin))
      okUs := lasted i.okUs (decide (40000 ≤ vin) && decide (vin ≤ 60000)), overI := high }
    overCnt := if high && !i.overI then inc32 a.overCnt else a.overCnt }

/-- Energy in mJ of a power in mW over one sample. -/
def sampleMj (p : Rat) : Rat := p / 100000

/-- The change of the input draw that the slew limit allows over one sample, in mW (R398). -/
def slewStep (a : Almanac) : Rat := (a.inp.vin * a.pw.slew : Nat) / (100 : Nat)

/-- The draw the module would take: the demand, and up to 200 W of recharge within the cap (R395). -/
def wanted (a : Almanac) : Rat :=
  let cap : Rat := 1000 * a.peff
  let pd := a.inp.pd
  if a.phys < 180000 && pd < cap then min (pd + 200000) cap else pd

/-- Whether the input stage is disconnected: the input is above 62 V (R394, R451). -/
def inputOff (a : Almanac) : Bool := decide (62000 < a.inp.vin)

/-- The draw after one sample, under the slew limit; nothing from an input that is disconnected (R394, R398, R399). -/
def slewed (a : Almanac) : Rat :=
  let lim := slewStep a
  if inputOff a then 0
  else max (a.inp.pin - lim) (min (a.inp.pin + lim) (wanted a))

/-- Floor every die's clock at 0.8 GHz (R399, R412). -/
def slowClocks (v : Variant) (a : Almanac) : Almanac :=
  { a with slow := true, clocks := (upto (dieCount v)).map (fun d => (d, 800)) }

/-- Settle the draw against the demand over one sample (R395, R399, R400). -/
def settle (v : Variant) (a : Almanac) : Almanac :=
  let p := slewed a
  let d := p - a.inp.pd
  if 0 ≤ d then
    let c := min (min d 200000) (max 0 ((180000 - a.phys) * 100000))
    let f : Rat := if a.pw.fillEn then min (d - c) (400000 * dieCount v : Nat) else 0
    let x := d - c - f
    { a with inp := { a.inp with pin := p - x }, phys := a.phys + sampleMj c, fill := a.fill + sampleMj f, slow := false
             slewViol := if 0 < x then inc32 a.slewViol else a.slewViol }
  else
    let c := min (-d) (max 0 ((a.phys - 40000) * 100000))
    let a := { a with inp := { a.inp with pin := p }, phys := a.phys - sampleMj c }
    if c < -d then slowClocks v { a with slewViol := inc32 a.slewViol } else { a with slow := false }

/-- INPUT_SAMPLE: 10 µs have passed; the input voltage in mV, the input current in units of 10 mA, and the demand of the dies
in mW; without 48 V the backup cell runs (R394, R399, R413). -/
def execInputSample (vin iin pd : Nat) (s : State) : Res :=
  let s := clockTime s
  let s := { s with alm := sampled s.alm vin iin }
  if !s.boot.rails then .next (if vin < 40000 then { s with alm := { s.alm with spent := s.alm.spent + sampleNs } } else s)
  else
    let a := s.alm
    let a := settle s.var { a with inp := { a.inp with pd := pd }, frame := { a.frame with since := a.frame.since + 10 } }
    .next (passTime { s with alm := a })

/-- The partners of a partition's module as ranks (R328). -/
def partners (s : State) (p : Nat) : List Nat :=
  match protTab s p with
  | none => []
  | some pt => (((pt.shards.flatMap (fun x => x.members)) ++ [pt.mirrorTo, pt.mirrorFrom]).filter (fun r => r != (s.job p).rank)).eraseDups

/-- The reports of other members that lie within 2 ms of an own sag event (R332). -/
def recentSags (s : State) (p : Nat) : List Nat :=
  ((s.prot p).sagAt.filter (fun x => within2ms x.2 s.now)).map Prod.fst

/-- A partition's own sag event: suspicion from reports that have just come, and SAG to every partner (R332). -/
def ownSag (s : State) (p : Nat) : State :=
  if !(s.prot p).valid || !(s.job p).valid then s
  else
    let near := recentSags s p
    let hit := near.flatMap (sharedGroups s p)
    let y := s.prot p
    let s := s.setProt p { y with ownSag := inc32 y.ownSag, ownSagAt := some s.now, suspect := (y.suspect ++ hit).eraseDups }
    let s := near.foldl (fun s r =>
      if (sharedGroups s p r).isEmpty then s
      else report s 55 (evtPart 0x026 0 0xFF p ((rankPos (s.job p) r).getD 0))) s
    let data := natLe 8 s.alm.time ++ natLe 1 (b2n s.alm.unset)
    (partners s p).foldl (fun s r =>
      sendProt s p { kind := 5, step := 0, idx := 0, rank := r, pass := 0, slot := 0, group := 0, data := data }) s

/-- SAG_EVENT: the input has been below SAG_MV for 20 µs (R394, R396). -/
def execSagEvent (s : State) : Res :=
  let a := s.alm
  if !s.boot.rails || a.sag || a.inp.sagUs < 20 then .next s
  else
    let s := { s with alm := { a with sag := true, sags := inc32 a.sags, sagTime := a.time } }
    .next ((upto 16).foldl ownSag s)

/-- SAG_EVENT_END: the input has been at SAG_MV + 1 V or more for 1 ms (R396). -/
def execSagEventEnd (s : State) : Res :=
  if s.alm.sag && 1000 ≤ s.alm.inp.upUs then .next { s with alm := { s.alm with sag := false } } else .next s

/-- Whether the input calls for the power-fail sequence (R394). -/
def powerFails (i : Input) : Bool := decide (100 ≤ i.lowUs) || decide (100 ≤ i.absUs) || decide (1000 ≤ i.highUs)

/-- POWER_FAIL_SEQUENCE (R397, R422): everything stops, every context ends with its CLOSE record, the links go down and the
rails switch off. The reservoir then discharges (R460), and the test access port starts again at IDCODE (R456). -/
def execPowerFailSequence (s : State) : Res :=
  if !s.boot.rails || !powerFails s.alm.inp then .next s
  else
    let s := noteEvent s 53 (evtNone 0x033 3 0xFF (b2n (decide (1000 ≤ s.alm.inp.highUs))))
    let s := coldState (linksDown (fun s k => endContext s k fPower) (stopJobs s))
    .next { s with alm := { s.alm with phys := 0 }, pins := { s.pins with ir := 2 } }

/-! ### The power frame (R401 to R403) -/

/-- The frame is lost: the internal frame runs from the last edge (R401). -/
def loseFrame (s : State) (since : Nat) : State :=
  let a := s.alm
  let f := a.frame
  let f := { f with lost := true, ivals := [], good := 0, period := a.pw.frameDef, since := since, home := f.home && since != 0 }
  report { s with alm := { a with frame := f } }
    53 (evtNone 0x030 0 0xFF 0)

/-- The mean of some intervals. -/
def meanOf (l : List Nat) : Nat := l.foldl (· + ·) 0 / max 1 l.length

/-- FRAME_EDGE: a rising edge, `ival` µs after the edge before it (R401). -/
def execFrameEdge (ival : Nat) (s : State) : Res :=
  let f := s.alm.frame
  let put (f : Frame) : Res := .next { s with alm := { s.alm with frame := f } }
  if !s.boot.rails then .next s
  else if ival < 500 || 10000 < ival then
    if f.lost then put { f with ivals := [], good := 0 } else .next (loseFrame s 0)
  else
    let l := (ival :: f.ivals).take 8
    if !f.lost then put { f with ivals := l, period := meanOf l, since := 0, home := false }
    else if 8 ≤ f.good then put { f with lost := false, ivals := l, good := 0, period := meanOf l, since := 0, home := false }
    else put { f with ivals := l, good := f.good + 1 }

/-- FRAME_TIMEOUT: no edge for 12.5 ms (R401). -/
def execFrameTimeout (s : State) : Res :=
  let f := s.alm.frame
  if s.boot.rails && !f.lost && 12500 ≤ f.since then .next (loseFrame s f.since) else .next s

/-- INTERNAL_FRAME_EDGE: an edge of the internal frame while the frame is lost (R401). -/
def execInternalFrameEdge (s : State) : Res :=
  let a := s.alm
  let f := a.frame
  if !s.boot.rails || !f.lost || f.since < a.pw.frameDef then .next s
  else .next { s with alm := { a with frame := { f with since := f.since - a.pw.frameDef, home := false } } }

/-- Whether a candidate is a heavy start: the first pass command of a STAGE (R403). -/
def heavyCand (s : State) (c : Cand) : Bool :=
  let st := (s.ctx c.key).stage
  c.pass.isSome && !st.probe && st.entry == 0 && st.blk == 0

/-- The heavy starts of a partition that are otherwise ready: a STAGE's first pass by R366, also while the cores run another command. -/
def heavyReady (s : State) (p : Nat) : List Nat :=
  let core := ((coreCands s p).filter (fun c => heavyCand s c && (candPhase s c == .waiting || candPhase s c == .asking))).map (fun c => 2 * c.key)
  let sweep := match (s.upd p).cmd with
    | some (k, _) => if sweepAsk s p then [2 * k + 1] else []
    | none => []
  core ++ sweep

/-- HOME_SLOT_START: the home slot of the frame in use starts (R402, R403). -/
def execHomeSlotStart (s : State) : Res :=
  let a := s.alm
  let f := a.frame
  if !s.boot.rails || f.home || 16 * f.since < a.pw.offset * f.period then .next s
  else
    let ready := (upto 16).flatMap (heavyReady s)
    .next { s with alm := { a with frame := { f with home := true }, eligible := (a.eligible ++ ready).eraseDups } }

/-! ### Energy credit (R407 to R410) -/

/-- What asks for credit. -/
inductive RequestKind where
  | core (c : Cand)
  | sweep
  | rebuild
  deriving DecidableEq, Repr

/-- A request: its partition, command, estimate in mJ, planned duration in ns, and whether it may be granted now as far as
its home slot goes (R403, R408, R409). -/
structure Request where
  kind : RequestKind
  part : Nat
  key  : Nat
  cmd  : Nat
  est  : Nat
  plan : Nat
  elig : Bool
  deriving DecidableEq, Repr

/-- The request of a core-class candidate. -/
def candRequest (s : State) (p : Nat) (c : Cand) : Request :=
  let (plan, est) := candEnergy s c
  { kind := .core c, part := p, key := c.key, cmd := c.cmd.id, est := clipEst s est, plan := plan
    elig := !heavyCand s c || s.alm.eligible.contains (2 * c.key) }

/-- The requests of a partition, with the core-class candidate that asks. -/
def requestsWith (s : State) (p : Nat) (asks : Option Cand) : List Request :=
  let core := match asks with
    | some c => [candRequest s p c]
    | none => []
  let sweep := match (s.upd p).cmd with
    | some (k, id) =>
      (match (s.ctx k).q.cmds.find? (fun m => m.id == id) with
       | some m => if sweepAsk s p then
           [{ kind := .sweep, part := p, key := k, cmd := id, est := (engEnergy s k m).1, plan := (engEnergy s k m).2
              elig := s.alm.eligible.contains (2 * k + 1) : Request }] else []
       | none => [])
    | none => []
  let rb := match rebuildAsk s p with
    | some (k, m) => [{ kind := .rebuild, part := p, key := k, cmd := m.id, est := (engEnergy s k m).1
                        plan := (engEnergy s k m).2, elig := true : Request }]
    | none => []
  core ++ sweep ++ rb

/-- The requests that a partition can have granted at a tick: a core-class one only at a core-class boundary (R366, R409). -/
def requestsOf (s : State) (p : Nat) : List Request := requestsWith s p (coreAsk s p)

/-- What waits for credit in a partition, a command that others have bypassed and that now run included (R409, R410). -/
def waitersOf (s : State) (p : Nat) : List Request :=
  requestsWith s p ((coreCands s p).find? (fun c => candPhase s c == .asking))

/-- The hottest die of the model. -/
def hottest (a : Almanac) : Rat :=
  match a.tdie.map Prod.snd with
  | [] => 0
  | t :: ts => ts.foldl max t

/-- The thermal credit in mJ (R407). -/
def bth (s : State) : Rat :=
  let run : Nat := (s.alm.grants.map (fun g => g.est - g.met)).foldl (· + ·) 0
  1000 * 80 * (dieCount s.var : Nat) * (95 - hottest s.alm) - run

/-- The reservoir credit in mJ (R407). -/
def bres (a : Almanac) : Rat := a.charge - 40000

/-- The power in mW that a grant adds to the demand (R408, R409). -/
def addPower (est plan : Nat) : Rat := if plan = 0 then 0 else (est * 1000000000 : Nat) / (plan : Nat)

/-- The ramp energy of a request in mJ (R408). -/
def rampMj (a : Almanac) (est plan : Nat) : Rat :=
  let x := a.inp.pd + addPower est plan - a.inp.pin
  if x ≤ 0 then 0 else x * x / (2000 * a.inp.vin * a.pw.slew : Nat)

/-- Whether a request is granted (R394, R403, R409). -/
def grantable (s : State) (r : Request) : Bool :=
  let a := s.alm
  !a.inp.overI && r.elig && decide (0 < a.inp.vin) && decide ((r.est : Rat) ≤ a.bfr) && decide ((r.est : Rat) ≤ bth s) &&
    decide (rampMj a r.est r.plan ≤ bres a)

/-- Grant a request (R409). -/
def doGrant (s : State) (r : Request) : State :=
  let s := match r.kind with
    | .core c => setCandPhase s c .granted
    | .sweep => s.setUpd r.part { s.upd r.part with ask := .granted }
    | .rebuild => setPhase s r.key r.cmd .granted
  let s := updCmd s r.key r.cmd (fun m => { m with waitUs := 0, bypass := 0, due := false })
  let a := s.alm
  let done := match r.kind with
    | .core _ => 2 * r.key
    | _ => 2 * r.key + 1
  { s with alm := { a with
      bfr := a.bfr - (r.est : Nat), inp := { a.inp with pd := a.inp.pd + addPower r.est r.plan }
      grants := { key := r.key, cmd := r.cmd, est := r.est, met := 0 } :: a.grants.filter (fun g => !(g.key == r.key && g.cmd == r.cmd))
      lastPart := r.part, dueQ := a.dueQ.filter (· != (r.key, r.cmd)), eligible := a.eligible.filter (· != done) } }

/-- A cheaper command of the same class goes ahead of one that is not granted: a bypass, counted on it (R409). -/
def bypass (s : State) (p : Nat) (r : Request) : State :=
  let alts := (((coreCands s p).drop 1).filter (fun c => (candRefusal s c).isNone && candPhase s c != .granted)).map (candRequest s p)
  match alts.find? (fun x => decide (x.est < r.est) && grantable s x) with
  | some x => doGrant (updCmd s r.key r.cmd (fun m => { m with bypass := m.bypass + 1 })) x
  | none => s

/-- One request of a partition while nothing is due. -/
def tryRequest (s : State) (r : Request) : State :=
  if grantable s r then doGrant s r
  else match r.kind with
    | .core _ => bypass s r.part r
    | _ => s

/-- What waits for credit anywhere in the module. -/
def allWaiters (s : State) : List Request := (upto 16).flatMap (waitersOf s)

/-- The due commands that a list of requests names, in the order in which they became due. -/
def dueIn (s : State) (rs : List Request) : List Request :=
  s.alm.dueQ.filterMap (fun d => rs.find? (fun r => r.key == d.1 && r.cmd == d.2))

/-- Whether a command that waits for credit can be granted at this tick as far as its partition's scheduler goes (R366, R409). -/
def asksNow (s : State) (r : Request) : Bool := (requestsOf s r.part).any (fun x => x.key == r.key && x.cmd == r.cmd)

/-- The due requests are granted in the order in which they became due, up to the first that does not fit or cannot run yet, for which the
frame credit grows undrawn (R410). -/
def grantDue : List Request → State → State
  | [], s => s
  | r :: rs, s => if asksNow s r && grantable s r then grantDue rs (doGrant s r) else s

/-- The grants of a tick: the due requests first, and nothing else while a command is due (R409, R410). -/
def grantAll (s : State) : State :=
  let s := grantDue (dueIn s (allWaiters s)) s
  if !(dueIn s (allWaiters s)).isEmpty then s
  else
    let first := s.alm.lastPart + 1
    (upto 16).foldl (fun s i => (requestsOf s ((first + i) % 16)).foldl tryRequest s) s

/-- Every command that waits for credit, its home slot aside, has waited 100 µs more (R410). -/
def waitTick (s : State) : State :=
  ((allWaiters s).filter (fun r => r.elig)).foldl (fun s r => updCmd s r.key r.cmd (fun m => { m with waitUs := m.waitUs + 100 })) s

/-- COMMAND_DUE: a command has waited for credit for DUE_US, or has been bypassed 4 times (R410). -/
def execCommandDue (k id : Nat) (s : State) : Res :=
  if s.alm.dueQ.contains (k, id) || !(allWaiters s).any (fun r => r.key == k && r.cmd == id) then .next s
  else
    match (s.ctx k).q.cmds.find? (fun m => m.id == id) with
    | none => .next s
    | some m =>
      if m.waitUs < s.alm.pw.dueUs && m.bypass < 4 then .next s
      else
        let s := updCmd s k id (fun m => { m with due := true })
        .next { s with alm := { s.alm with dueQ := s.alm.dueQ ++ [(k, id)], dueCnt := inc32 s.alm.dueCnt } }

/-! ### The tick (R404 to R407, R412) -/

/-- One tick of the model of one die (R404). -/
def dieTick (i : TickIn) (t : Rat) (d : Nat) : Rat :=
  let p : Rat := (i.power.getD d 0 : Nat) / (1000 : Nat)
  let tin : Rat := (i.tin : Rat) / 16
  let t := t + (p - (t - tin) * 100 / 6) / 800000
  max t ((i.sens.getD d 0 : Int) / (16 : Rat))

/-- The effective cap in W (R405). -/
def effCap (cap : Nat) (tin : Int) : Rat :=
  if tin ≤ 720 then cap else max 0 ((cap : Nat) * (1 - ((tin : Rat) / 16 - 45) / 10))

/-- Whether the effective cap lies below the cap in force: the inlet is above 45 °C (R405). -/
def inletHigh (tin : Int) : Bool := decide (720 < tin)

/-- The clock of a die after a tick, and whether it is held below its target for heat (R412). -/
def dieClock (a : Almanac) (d : Nat) : Nat × Bool :=
  let t := Tbl.get 0 a.tdie d
  let c := Tbl.get 800 a.clocks d
  let hot := decide (92 ≤ t)
  if a.slow then (800, false)
  else if hot || a.fset < c then (max 800 (c - 50), (hot || a.thr.contains d) && decide (max 800 (c - 50) < a.fset))
  else if t ≤ 87 && c < a.fset then (c + 50, a.thr.contains d && decide (c + 50 < a.fset))
  else (c, a.thr.contains d && decide (c < a.fset))

/-- The clocks move one step (R412). -/
def clockTick (v : Variant) (a : Almanac) : Almanac :=
  let ds := upto (dieCount v)
  { a with clocks := ds.map (fun d => (d, (dieClock a d).1)), thr := ds.filter (fun d => (dieClock a d).2) }

/-- The model and the frame credit advance (R404, R405, R407). -/
def modelTick (s : State) (i : TickIn) : State :=
  let a := s.alm
  let phys : Rat := if a.measured then a.phys else i.charge
  let peff := effCap a.pw.cap i.tin
  let b := a.bfr + peff / 10
  let cap : Rat := (1000 * a.pw.depthJ : Nat)
  let onset := inletHigh i.tin && !inletHigh a.tin
  let s := { s with alm := { a with
    tin := i.tin, tdie := (upto (dieCount s.var)).map (fun d => (d, dieTick i (Tbl.get 0 a.tdie d) d))
    sens := (upto (dieCount s.var)).map (fun d => (d, i.sens.getD d 0))
    phys := phys, charge := phys, measured := true, peff := peff, bfr := if cap < b then cap else b } }
  if onset then report s 53 (evtNone 0x031 0 0xFF (field 16 i.tin)) else s

/-- Energy metered to a command: to its grant, or to the frame credit where its grant has been settled since the last tick (R407). -/
def meterCmd (s : State) (k id n : Nat) : State :=
  let a := s.alm
  if a.grants.any (fun g => g.key == k && g.cmd == id) then
    { s with alm := { a with grants := a.grants.map (fun g => if g.key = k && g.cmd = id then { g with met := g.met + n } else g) } }
  else if a.late.contains (k, id) then { s with alm := { a with bfr := a.bfr - (n : Nat) } }
  else s

/-- What runs in a partition at a tick that no sample has come before. -/
def runNow (s : State) (p : Nat) : List RunShare :=
  let core := match (s.sched p).run with
    | some r => [{ part := p, key := r.key, cmd := r.cmd, eng := false, n := 1 : RunShare }]
    | none => []
  let eng := match (s.sched p).eng with
    | some (k, id) => [{ part := p, key := k, cmd := id, eng := true, n := 1 : RunShare }]
    | none => []
  core ++ eng

/-- The energy metered over a tick: of the partition, and of each command that has run in it, ended or not, its part by the samples over
which it ran (R389, R407, R408; log 36). -/
def meterTick (s : State) (i : TickIn) (p : Nat) : State :=
  let e := i.beds.getD p 0
  let s := { s with alm := { s.alm with energy := Tbl.upd 0 s.alm.energy p (fun n => satAdd 64 n e) } }
  let all := s.alm.samples
  let ran := if all = 0 then runNow s p else s.alm.ran.filter (fun x => x.part == p)
  ran.foldl (fun s x =>
    let n := (if x.eng then i.engines.getD p 0 else e) * x.n / max 1 all
    let s := meterCmd s x.key x.cmd n
    if x.eng then s else useEnergy s x.key n) s

/-- ALMANAC_TICK: 100 µs have passed (R404, R407, R409, R412). -/
def execAlmanacTick (i : TickIn) (s : State) : Res :=
  if !s.boot.rails then .next s
  else
    let s := (upto 16).foldl (fun s p => if (s.entry p).used then meterTick s i p else s) (modelTick s i)
    let s := { s with alm := { s.alm with ran := [], late := [], samples := 0 } }
    let s := grantAll (waitTick s)
    .next { s with alm := clockTick s.var s.alm }

end Sys2Proof.Machine
end

