-- ==== Sys2Proof/Machine/Image.lean ====
section
/-! DEFINITION. Sys2Proof/Machine/Image.lean: the configuration image: acceptance of a bank (R440, R441) and its sections (R442),
with the checks of layouts (R188, R218, R353), function tables (R131), the power section (R416), the topology (R293) and the
fuse overlays (R85). -/
namespace Sys2Proof.Machine

/-! ### The header (R440, R441) -/

/-- A 32-bit word of the flash. -/
def flash32 (s : State) (a : Nat) : Nat := leNat (flashBytes s a 4)
/-- A 64-bit word of the flash. -/
def flash64 (s : State) (a : Nat) : Nat := leNat (flashBytes s a 8)
/-- Whether a run of flash bytes is zero. -/
def flashZero (s : State) (a n : Nat) : Bool := (upto n).all (fun i => flashByte s (a + i) == 0)

/-- A used directory entry: type, offset, size, CRC-32C. -/
structure DirEnt where
  ty   : Nat
  off  : Nat
  size : Nat
  crc  : Nat
  deriving DecidableEq, Repr

/-- The used directory entries of the image at a base. -/
def dirOf (s : State) (base : Nat) : List DirEnt :=
  ((upto 16).map (fun i =>
    let a := base + 0x40 + 16 * i
    ({ ty := flash32 s a, off := flash32 s (a + 4), size := flash32 s (a + 8), crc := flash32 s (a + 12) } : DirEnt))).filter
    (fun e => e.ty != 0)

/-- SERIAL of the image at a base. -/
def imgSerial (s : State) (base : Nat) : Nat := flash64 s (base + 8)
/-- LENGTH. -/
def imgLength (s : State) (base : Nat) : Nat := flash32 s (base + 0x10)

/-- Check 1: MAGIC, FORMAT and the zero fields. -/
def headOk (s : State) (b : Nat) : Bool :=
  flash32 s b == 0x4B54494D && flash32 s (b + 4) == 1 && decide (flash32 s (b + 0x14) < 256) && decide (flash32 s (b + 0x18) < 8) &&
    flashZero s (b + 0x1C) 4 && flashZero s (b + 0x28) 24 && flashZero s (b + 0x140) 64 && flashZero s (b + 0x1E0) 32

/-- Whether two directory entries share a byte. -/
def entsOverlap (x y : DirEnt) : Bool := decide (x.off < y.off + y.size) && decide (y.off < x.off + x.size)

/-- Whether the entries of a list exclude each other pairwise. -/
def pairwiseOk (bad : DirEnt → DirEnt → Bool) : List DirEnt → Bool
  | [] => true
  | e :: es => es.all (fun x => !bad e x) && pairwiseOk bad es

/-- Check 3: LENGTH and the directory. -/
def dirOk (s : State) (b : Nat) : Bool :=
  let len := imgLength s b
  let es := dirOf s b
  decide (0x200 ≤ len) && decide (len ≤ 0x10000000) &&
    es.all (fun e => decide (e.ty ≤ 7) && decide (0x200 ≤ e.off) && e.off % 64 == 0 && decide (e.off + e.size ≤ len)) &&
    pairwiseOk (fun x y => entsOverlap x y || x.ty == y.ty) es

/-- The bytes that the signature covers: the whole image with the signature field read as zero. -/
def signedBytes (s : State) (b : Nat) : Bytes :=
  (upto (imgLength s b)).map (fun i => if 0x180 ≤ i ∧ i < 0x1E0 then 0 else flashByte s (b + i))

/-- The IMAGE_ERR code of the image at a base, 0 if it passes (R441). -/
def imageErr (s : State) (b : Nat) : Nat :=
  if !headOk s b then 1
  else if flash32 s (b + 0x14) ≠ variantCode s.var then 2
  else if !dirOk s b then 3
  else if imgSerial s b < s.boot.floor then 4
  else if !Config.imageSigOk (signedBytes s b) (flashBytes s (b + 0x180) 96) then 5
  else 0

/-- The bank accepted, 0 if none, and the IMAGE_ERR code (R441). -/
def acceptBank (s : State) : Nat × Nat :=
  if !s.gth.keyStore then (0, 6)
  else
    let first := if imgSerial s (bankBase 1) < imgSerial s (bankBase 2) then 2 else 1
    let other := 3 - first
    if imageErr s (bankBase first) = 0 then (first, 0)
    else if imageErr s (bankBase other) = 0 then (other, 0)
    else (0, imageErr s (bankBase other))

/-! ### Sections (R442) -/

/-- A section of the accepted image. -/
inductive Section where
  | absent
  | bad
  | good (bytes : Bytes)
  deriving DecidableEq, Repr

/-- The section of a type, its CRC checked. -/
def sectionOf (s : State) (ty : Nat) : Section :=
  if s.boot.bank = 0 then .absent
  else
    match (dirOf s (bankBase s.boot.bank)).find? (fun e => e.ty == ty) with
    | none => .absent
    | some e =>
      let bs := flashBytes s (bankBase s.boot.bank + e.off) e.size
      if crc32c bs = e.crc then .good bs else .bad

/-- Mark a section type as absent or rejected in CFG_BOOT. -/
def markSection (s : State) (ty : Nat) (absent : Bool) : State :=
  let b := s.boot
  if absent then { s with boot := { b with sectAbs := b.sectAbs ||| 2 ^ (ty - 1) } }
  else { s with boot := { b with sectBad := b.sectBad ||| 2 ^ (ty - 1) } }

/-- Apply a section whose fields pass a rule; otherwise mark it, if there is an image, and apply what stands in its place. A locked
module takes none (R387, R444). -/
def withSection (s : State) (ty : Nat) (ok : Bytes → Bool) (use : State → Bytes → State) (miss : State → State) : State :=
  if s.boot.bank = 0 || s.gth.locked then miss s
  else match sectionOf s ty with
  | .absent => miss (markSection s ty true)
  | .bad => miss (markSection s ty false)
  | .good bs => if ok bs then use s bs else miss (markSection s ty false)

/-- A 32-bit word of a section. -/
def sec32 (b : Bytes) (o : Nat) : Nat := leNat ((b.drop o).take 4)

/-! ### Layouts (R188, R218, R352, R353) -/

/-- An entry from its 32 bytes. -/
def parseEntry (b : Bytes) : LayoutEntry :=
  let w0 := sec32 b 0
  let w1 := sec32 b 4
  let w2 := sec32 b 8
  let w3 := sec32 b 12
  let w4 := sec32 b 16
  { used := bit w0 31, cached := bit w0 30, maxCtxM1 := bits w0 24 6, port := bits w0 16 2, beds := bits w0 0 16
    vfCount := bits w1 6 7, vfFirstM1 := bits w1 0 6, firstFrame := bits w2 0 19, frameCount := bits w3 0 19
    tsQuota := bits w4 0 21
    rsv := bits w0 18 6 + bits w1 13 19 + bits w2 19 13 + bits w3 19 13 + bits w4 21 11 + leNat ((b.drop 20).take 12) }

/-- A layout from its 544 bytes. -/
def parseLayout (b : Bytes) : Layout :=
  { number := bits (sec32 b 0) 0 8, split := bits (sec32 b 0) 8 8, rsv := bits (sec32 b 0) 16 16 + leNat ((b.drop 4).take 28)
    entries := (upto 16).map (fun i => parseEntry ((b.drop (32 + 32 * i)).take 32)) }

/-- The used entries of a layout. -/
def usedEntries (l : Layout) : List LayoutEntry := l.entries.filter (fun e => e.used)

/-- Whether entries exclude each other pairwise. -/
def entriesApart (bad : LayoutEntry → LayoutEntry → Bool) : List LayoutEntry → Bool
  | [] => true
  | e :: es => es.all (fun x => !bad e x) && entriesApart bad es

/-- Whether two entries collide: a shared bed, VF ranges of one port, or frame ranges (R218, R353). -/
def collide (x y : LayoutEntry) : Bool :=
  x.beds &&& y.beds != 0 ||
    (x.port == y.port && decide (x.vfFirstM1 < y.vfFirstM1 + y.vfCount) && decide (y.vfFirstM1 < x.vfFirstM1 + x.vfCount)) ||
    (decide (x.firstFrame < y.firstFrame + y.frameCount) && decide (y.firstFrame < x.firstFrame + x.frameCount))

/-- Whether a used entry stands on its own (R218, R353). -/
def entryOk (v : Variant) (e : LayoutEntry) : Bool :=
  (upto 16).all (fun b => !bit e.beds b || bit (bedMask v) b) && bit (hostMask v) e.port && e.vfCount != 0 &&
    decide (e.vfFirstM1 + e.vfCount ≤ 64) && e.firstFrame % 512 == 0 &&
    decide (e.firstFrame + e.frameCount ≤ framesPerDie v * dieCount v)

/-- Whether the split of every die fits the partitions on it (R188). -/
def splitOk (l : Layout) : Bool :=
  (upto 4).all (fun d => decide (((usedEntries l).filter (fun e => bits e.beds (4 * d) 4 != 0)).length ≤ 1) ||
    decide (2 ≤ bits l.split (2 * d) 2))

/-- Whether Daybreak accepts a layout (R353). -/
def layoutOk (v : Variant) (l : Layout) : Bool :=
  decide (l.number < 8) && l.rsv == 0 && l.entries.all (fun e => e.rsv == 0) && (usedEntries l).all (entryOk v) &&
    entriesApart collide (usedEntries l) && decide (((usedEntries l).map (fun e => e.tsQuota)).foldl (· + ·) 0 ≤ 1048576) && splitOk l

/-- The layouts of a section, in order. -/
def sectionLayouts (b : Bytes) : List Layout := (upto (leNat (b.take 1))).map (fun i => parseLayout ((b.drop (64 + 544 * i)).take 544))

/-- The rule of the layout section. -/
def layoutsOk (b : Bytes) : Bool :=
  let n := leNat (b.take 1)
  decide (1 ≤ n) && decide (n ≤ 8) && ((b.drop 1).take 63).all (· == 0) && decide (64 + 544 * n ≤ b.length)

/-- Take the layouts of the section in order; one that fails its checks, or whose NUMBER a layout earlier in the section has, is refused
with an event (R442). -/
def storeLayouts (s : State) (b : Bytes) : State :=
  let ls := sectionLayouts b
  (upto ls.length).foldl (fun s i =>
    let l := ls.getD i {}
    if layoutOk s.var l && !(ls.take i).any (fun x => x.number == l.number) then
      { s with lay := { s.lay with stored := s.lay.stored ++ [l] } }
    else noteEvent s 59 (evtNone 0x060 0 0xFF (l.number % 8))) { s with lay := { s.lay with stored := [] } }

/-- The layout selected at a cold start: DEFAULT_LAYOUT, else the lowest number stored, else the built-in layout. -/
def selectLayout (s : State) : Layout :=
  let d := flash32 s (bankBase s.boot.bank + 0x18) % 8
  match s.lay.stored.find? (fun l => l.number == d) with
  | some l => l
  | none =>
    match (upto 8).findSome? (fun n => s.lay.stored.find? (fun l => l.number == n)) with
    | some l => l
    | none => {}

/-! ### Power (R416) -/

/-- The parameters of the section. -/
def parsePower (b : Bytes) : Power :=
  { cap := sec32 b 0, capMin := sec32 b 4, capMax := sec32 b 8, slew := sec32 b 12, fillEn := sec32 b 16 == 1, frameDef := sec32 b 20
    offset := sec32 b 24, sagMv := sec32 b 28, depthJ := sec32 b 32, dueUs := sec32 b 36, boost := sec32 b 40 == 1 }

/-- Whether a value lies in a range. -/
def within (lo hi v : Nat) : Bool := decide (lo ≤ v) && decide (v ≤ hi)

/-- The ranges of R416. -/
def powerOk (v : Variant) (b : Bytes) : Bool :=
  let p := parsePower b
  decide (44 ≤ b.length) && within 600 3000 p.cap && within 600 3000 p.capMin && within 600 (largestCap v) p.capMax &&
    within p.capMin p.capMax p.cap && within 2 50 p.slew && decide (sec32 b 16 ≤ 1) && within 500 10000 p.frameDef &&
    decide (p.offset ≤ 15) && within 40000 56000 p.sagMv && within 16 128 p.depthJ && within 500 20000 p.dueUs && decide (sec32 b 40 ≤ 1)

/-! ### Function tables (R127 to R131) -/

/-- The header and entries of a table. -/
def parseTable (b : Bytes) : FnTable :=
  let w := sec32 b 0
  { l := bits w 20 3, emin := sext 8 (bits w 0 8), emax := sext 8 (bits w 8 8), lowA := sec32 b 4, lowB := sec32 b 8, hipA := sec32 b 12
    hipB := sec32 b 16, hinA := sec32 b 20, hinB := sec32 b 24
    ents := (upto ((b.length - 32) / 16)).map (fun i =>
      (sec32 b (32 + 16 * i), sec32 b (36 + 16 * i), sec32 b (40 + 16 * i))) }

/-- EMAX that R129 gives a reduced function. -/
def redEmax (f : Nat) : Int := if f = fnRsqrt || f = fnSqrt then 1 else 0

/-- Whether a table is accepted (R131), its CRC apart. -/
def tableOk (b : Bytes) : Bool :=
  let w := sec32 b 0
  let f := bits w 24 8
  let t := parseTable b
  let n := (b.length - 32) / 16
  let per : Int := (t.emax - t.emin + 1) * (2 ^ t.l : Nat)
  decide (32 ≤ b.length) && (b.length - 32) % 16 == 0 && decide (f ≤ 9) && f != fnRelu && bits w 16 4 == 0 && sec32 b 28 == 0 &&
    (upto n).all (fun i => sec32 b (44 + 16 * i) == 0) && decide (t.l ≤ 6) && decide (n ≤ 1024) &&
    (if fnDirect f then decide (t.emin ≤ t.emax) && decide ((n : Int) = 2 * per)
     else decide (t.emin = 0) && decide (t.emax = redEmax f) && decide ((n : Int) = per))

/-- The tables of the section from an offset, in order: whether the CRC holds, and the bytes. -/
def sectionTables (b : Bytes) : Nat → Nat → List (Bool × Bytes)
  | 0, _ => []
  | n + 1, o =>
    let len := sec32 b o
    let t := (b.drop (o + 8)).take len
    (decide (t.length = len) && crc32c t == sec32 b (o + 4), t) :: sectionTables b n (o + 8 + len)

/-- Take the tables in order; each one refused is an event (R131, R134). -/
def storeTables (s : State) (b : Bytes) : State :=
  (sectionTables b (leNat (b.take 1)) 1).foldl (fun s x =>
    let w := sec32 x.2 0
    let key := 2 * bits w 24 8 + bits w 23 1
    if x.1 && tableOk x.2 && (Tbl.find s.boot.tables key).isNone then
      { s with boot := { s.boot with tables := Tbl.set s.boot.tables key (parseTable x.2) } }
    else noteEvent s 59 (evtNone 0x002 0 0xFF (bits w 23 1 * 64 + bits w 24 6))) { s with boot := { s.boot with tables := [] } }

/-- The valid bits of forward or derivative tables. -/
def validBits (t : Tbl FnTable) (deriv : Nat) : Nat :=
  ((upto 10).filter (fun f => (Tbl.find t (2 * f + deriv)).isSome)).foldl (fun m f => m + 2 ^ f) 0

/-- Load the tables into a core (R134). -/
def loadTables (t : Tbl FnTable) (c : Core) : Core :=
  { c with fx := { c.fx with fwd := validBits t 0, drv := validBits t 1, tabs := t, bad := [] } }

/-! ### Topology (R293) -/

/-- The rule of the Trellis section. -/
def topoOk (v : Variant) (b : Bytes) : Bool :=
  let w := sec32 b 0
  let topo := bits w 30 2
  let nx := bits w 0 6 + 1
  let ny := bits w 6 6 + 1
  let nz := bits w 12 6 + 1
  decide (2056 ≤ b.length) && (topo == 1 || (topo == 2 && v != .kt320)) && within 4 64 nx && within 4 64 ny &&
    (if topo = 1 then nz == 1 else within 4 64 nz) && decide (nx * ny * nz ≤ 1024) && decide (ny ≤ nx) && decide (nz ≤ nx) &&
    decide (bits (sec32 b 4) 0 10 < nx * ny * nz)

/-- The state of every present port before training: DOWN if it has a direction, else IDLE (R293, R319). -/
def portsIdle (s : State) : State :=
  ((upto 16).filter (bit (trlMask s.var))).foldl (fun s n =>
    let (dir, member) := dirOfPort s n
    s.setTport n { s.tport n with state := if dir = 15 then 1 else 2, dir := dir, member := member }) s

/-- Take the topology and the feed identifiers. -/
def storeTopo (s : State) (b : Bytes) : State :=
  let w := sec32 b 0
  let feeds := ((upto 1024).map (fun i => (i, leNat ((b.drop (8 + 2 * i)).take 2)))).filter (fun x => x.2 != 0)
  portsIdle { s with trl := { s.trl with topo := bits w 30 2, nx := bits w 0 6, ny := bits w 6 6, nz := bits w 12 6
                                         pos := bits (sec32 b 4) 0 10, feeds := feeds } }

/-! ### Fuse overlays (R83 to R85) -/

/-- The fuses of a core. -/
def fusedRepair (n : Nat) : MxRepair :=
  let w := (Config.fused n).toNat
  { rowA := bits w 0 8, rowB := bits w 8 8, colA := bits w 16 8, colB := bits w 24 8 }

/-- Add a line to a pair of fused lines, lower first, if there is a spare and it is not fused out. A line number of 130 or more
names no line and is refused (DESIGN CHOICE, log 58). -/
def addLine (a b line : Nat) : Option (Nat × Nat) :=
  if 130 ≤ line || a = line || b = line then none
  else if a = 255 then some (line, b)
  else if b = 255 then some (if line < a then (line, a) else (a, line))
  else none

/-- Apply one overlay entry to the repair of its core (R85). -/
def overlayEntry (r : MxRepair) (w : Nat) : Option MxRepair :=
  if bit w 23 then (addLine r.colA r.colB (w % 256)).map (fun x => { r with colA := x.1, colB := x.2, ovlApplied := true })
  else (addLine r.rowA r.rowB (w % 256)).map (fun x => { r with rowA := x.1, rowB := x.2, ovlApplied := true })

/-- The rule of the overlay section. -/
def overlaysOk (b : Bytes) : Bool := b.length % 4 == 0 && (upto (b.length / 4)).all (fun i => bits (sec32 b (4 * i)) 8 15 == 0)

/-- Apply the overlay entries in order, the refused ones marked. -/
def overlayPass (s : State) (b : Bytes) : State :=
  (upto (b.length / 4)).foldl (fun s i =>
    let w := sec32 b (4 * i)
    let n := bits w 24 8
    if !corePresent s.var n then s
    else
      let c := s.core n
      match overlayEntry c.repair w with
      | some r => s.setCore n { c with repair := r }
      | none =>
        noteEvent (s.setCore n { c with repair := { c.repair with ovlRejected := true } }) (n / 16) (evtNone 0x001 0 n i)) s

/-- Apply the overlay entries: on a core with a refused entry the fuses alone apply (R85). -/
def applyOverlays (s : State) (b : Bytes) : State :=
  let s := overlayPass s b
  ((upto (b.length / 4)).map (fun i => bits (sec32 b (4 * i)) 24 8)).foldl (fun s n =>
    let c := s.core n
    if c.repair.ovlRejected then s.setCore n { c with repair := { fusedRepair n with ovlRejected := true } } else s) s

/-- The rule of the lane equalisation section: 8 B for each of the 8 lanes of each present Trellis port (R442; log 80). -/
def lanesOk (v : Variant) (b : Bytes) : Bool := b.length == 64 * ((upto 16).filter (bit (trlMask v))).length

/-- The rule of the alarm-level section. -/
def levelOk (b : Bytes) : Bool := decide (1 ≤ b.length) && decide (leNat (b.take 1) ≤ 2) && (b.drop 1).all (· == 0)

end Sys2Proof.Machine
end

