-- ==== Sys2Proof/Machine/Daybreak.lean ====
section
/-! DEFINITION. Sys2Proof/Machine/Daybreak.lean: cold starts (R438, R443 to R445), the warm restart (R446), RESET_N (R455), and the
flash registers' commands (R448). -/
namespace Sys2Proof.Machine

/-! ### The steps (R443) -/

/-- The present cores. -/
def presentCores (s : State) : List Nat := (upto 256).filter (corePresent s.var)

/-- Step 2: the image and the sections that are in force from here on. A locked module has lost its key store and so
has no image, which CFG_BOOT shows (R387, R441; log 80). -/
def bootStep2 (s : State) : State :=
  let (bank, err) := acceptBank s
  let serial := if bank = 0 then 0 else imgSerial s (bankBase bank)
  let s := { s with boot := { s.boot with bank := bank, imgErr := err, serial := serial
                                          floor := if bank = 0 then s.boot.floor else serial } }
  if bank = 0 then s
  else
    let s := { s with lay := { s.lay with switchCtr := max s.lay.switchCtr (flash64 s (bankBase bank + 0x20)) } }
    let s := withSection s 7 levelOk (fun s b => { s with gth := { s.gth with level := leNat (b.take 1) } }) id
    let s := withSection s 2 (powerOk s.var) (fun s b => { s with alm := { s.alm with pw := parsePower b } })
      (fun s => noteEvent s 59 (evtNone 0x032 0 0xFF 0))
    let s := { s with alm := { s.alm with frame := { s.alm.frame with period := s.alm.pw.frameDef } } }
    let s := withSection s 5 (lanesOk s.var) (fun s b => { s with boot := { s.boot with laneEq := b } }) id
    withSection s 4 (topoOk s.var) storeTopo (fun s => portsIdle (noteEvent s 59 (evtNone 0x060 0 0xFF 8)))

/-- A core fails self-test: its bed is withdrawn (R84, R345). -/
def failCore (s : State) (n : Nat) : State :=
  let c := s.core n
  let m := s.cfg.bedUsable
  let s := s.setCore n { c with repair := { c.repair with bistFail := true } }
  noteEvent { s with cfg := { s.cfg with bedUsable := if bit m (n / 16) then m - 2 ^ (n / 16) else m } } (n / 16) (evtNone 0x042 2 n 0)

/-- Step 4: fuses and overlays, self-test, scratchpads, the stored layouts, and the attestation certificate, with which IDENT_OK is set
(R393, R443). -/
def bootStep4 (s : State) (b : BootIn) : State :=
  let s := (presentCores s).foldl (fun s n => s.setCore n { s.core n with repair := fusedRepair n }) s
  let s := withSection s 6 overlaysOk applyOverlays id
  let s := (presentCores s).foldl (fun s n =>
    let c := s.core n
    s.setCore n { c with repair := { c.repair with bistDone := true }, scratch := [], badPar := [], last := none }) s
  let s := (b.bistFail.filter (corePresent s.var)).eraseDups.foldl failCore s
  let s := withSection s 1 layoutsOk storeLayouts (fun s => { s with lay := { s.lay with stored := [] } })
  { s with gth := { s.gth with identOk := true } }

/-- The layout selected at a cold start takes effect and every used slot is keyed (R374, R442). -/
def bootLayout (s : State) : State :=
  let s := if s.boot.bank = 0 || s.gth.locked then s else { s with lay := { s.lay with active := selectLayout s } }
  ((upto 16).filter (fun p => (s.entry p).used)).foldl keySlot s

/-- Step 5: the function tables. After a hub copy that failed, the bits of the cores change at a cold start alone (R134). -/
def bootStep5 (s : State) : State :=
  let s := withSection s 3 (fun b => within 1 18 (leNat (b.take 1))) storeTables (fun s => { s with boot := { s.boot with tables := [] } })
  if !s.boot.tablesOk then s
  else (presentCores s).foldl (fun s n => s.setCore n (loadTables s.boot.tables (s.core n))) s

/-- Step 6: the host ports that train come up. -/
def bootStep6 (s : State) (b : BootIn) : State := (b.trained.filter (· < 4)).foldl linkUp s

/-- Step 7: DONE, and an unset clock restarts at a cold start (R414). -/
def bootStep7 (s : State) : State :=
  let s := { s with boot := { s.boot with done := true } }
  let s := if s.alm.unset && !s.boot.warm then { s with alm := { s.alm with time := 0 } } else s
  { s with gth := { s.gth with boundary := s.alm.time / minute }
           blv := { s.blv with aliveRun := s.boot.bank != 0 && !s.blv.fatal && !s.gth.locked } }

/-- One step of Daybreak: of a cold start, or of a warm restart, which keeps the layout and the keys. The stacks that step 3 fills with
zeros have been empty since the start (R443, R446). -/
def bootOne (b : BootIn) (s : State) (n : Nat) : State :=
  let s := { s with boot := { s.boot with step := n } }
  match n with
  | 2 => hotModel (bootStep2 s)
  | 4 => if s.boot.warm then bootStep4 s b else bootLayout (bootStep4 s b)
  | 5 => bootStep5 s
  | 6 => bootStep6 s b
  | 7 => bootStep7 s
  | _ => s

/-- Daybreak goes on from the last step begun to the one that the row names (R443; DESIGN CHOICE, log 80). -/
def bootOn (b : BootIn) (s : State) : State :=
  ((upto 8).filter (fun n => decide (s.boot.step < n) && decide (n ≤ b.upTo))).foldl (bootOne b) s

/-- Whether Daybreak is under way in a start of a kind. -/
def booting (s : State) (warm : Bool) : Bool := s.boot.rails && !s.boot.done && !s.pins.resetLow && s.boot.warm == warm

/-- Step 1: the rails are up and the Almanac's model is in the worst-case hot state. -/
def railsUp (s : State) : State :=
  let s := coldState s
  hotModel { s with boot := { s.boot with rails := true } }

/-- INPUT_QUALIFIES: the 48 V input has stayed within range for 100 ms after it was absent (R394, R438); a cold start under way goes
on. -/
def execInputQualifies (b : BootIn) (s : State) : Res :=
  if booting s false then .next (bootOn b s)
  else if s.boot.rails || s.alm.inp.okUs < 100000 then .next s
  else
    let s := railsUp s
    .next (if s.pins.resetLow then s else bootOn b s)

/-- RESET_N_ASSERT: RESET_N is held low (R455). -/
def execResetNAssert (s : State) : Res :=
  let low (s : State) : State := { s with pins := { s.pins with resetLow := true } }
  if !s.boot.rails then .next (low s)
  else
    let c := coldState s
    let a := s.alm
    .next (low { c with alm := { a with grants := [], dueQ := [], eligible := [] }, boot := { c.boot with rails := true } })

/-- RESET_N_RELEASE: RESET_N is released after at least 10 µs: a cold start from step 2, the rails kept up (R438, R444); one under way
goes on. -/
def execResetNRelease (b : BootIn) (s : State) : Res :=
  if booting s false then .next (bootOn b s)
  else if !s.pins.resetLow then .next s
  else
    let s := { s with pins := { s.pins with resetLow := false } }
    if !s.boot.rails then .next s else .next (bootOn b (bootOne b (railsUp s) 2))

/-! ### The warm restart (R446) -/

/-- Whether WARM_N is heeded (R438, R455). -/
def warmOk (s : State) : Bool := s.boot.rails && s.boot.done && !s.blv.fatal && !s.gth.locked && !s.pins.resetLow

/-- Whether a sweep goes on through a warm restart: of an UPDATE or UPDATE_RESUME whose norm target event has fired (R446). -/
def exempt (s : State) (p : Nat) : Bool := (s.upd p).cmd.isSome && (s.upd p).normSeen

/-- The commands of a context stop; its links stay up and it leaves no record (R446 action 1). -/
def warmCut (s : State) (k : Nat) : State := dropCmds (stopCtx s k stAborted).1 k

/-- Action 1: ALIVE stops, and every command but a sweep that goes on, which then signals nothing. A LAYOUT_SWITCH past its switch
point takes effect first, without a record (R447). -/
def warmStop (s : State) : State :=
  let s := finishSwitch s
  let s := { s with boot := { s.boot with warming := true }, blv := { s.blv with aliveRun := false } }
  let s := (s.parts.ctxs.map Prod.fst).foldl warmCut s
  ((upto 16).filter (exempt s)).foldl (fun s p => settleUpd (s.setUpd p { s.upd p with halt := true }) p) s

/-- Actions 2 to 4, up to step 4 of Daybreak: the links go down, every context ends, and what is not kept goes. -/
def warmBoot (s : State) (b : BootIn) : State :=
  let s := stopJobs (linksDown resetContext s)
  let jobs := s.parts.jobs.map (fun x => (x.1, { x.2 with work := [], scalar := {}, credit := [] }))
  let s := { s with parts := { s.parts with jobs := jobs }, units := { s.units with lnt := [], dsets := [] }
                    blv := { s.blv with alive := false }
                    boot := { s.boot with warming := false, done := false, warm := true, sectBad := s.boot.sectBad &&& 0x5A
                                          sectAbs := s.boot.sectAbs &&& 0x5A, warms := inc32 s.boot.warms } }
  bootOn b (bootOne b s 4)

/-- WARM_RESTART: WARM_N is released after at least 10 µs; or, while a warm restart waits for a sweep, that sweep has ended; one whose
Daybreak is under way goes on (R438, R446). -/
def execWarmRestart (b : BootIn) (s : State) : Res :=
  if booting s true then .next (bootOn b s)
  else if !warmOk s then .next s
  else
    let s := if s.boot.warming then s else warmStop s
    .next (if (upto 16).any (exempt s) then s else warmBoot s b)

/-! ### The flash registers (R448) -/

/-- Whether a function may use the flash registers: a management function of a port that is up. -/
def flashFn (s : State) : Fn → Bool
  | .mgmt n => bit (hostMask s.var) n && (s.port n).up
  | .vf _ _ => false

/-- Flash address of a byte of the target bank. -/
def flashAddr (s : State) (a : Nat) : Nat := bankBase (s.boot.flTarget + 1) + a % 0x10000000

/-- Issue an erase (1) or program (2) at a flash address, refused while BUSY and for the accepted bank. -/
def flashIssue (s : State) (kind a : Nat) : State :=
  let b := s.boot
  if b.flBusy || (b.bank != 0 && b.bank == b.flTarget + 1) then { s with boot := { b with flErr := true } }
  else { s with boot := { b with flBusy := true, flOp := some (kind, a) } }

/-- SECTOR_ERASE: the 64 KiB sector that holds ADDR. -/
def execSectorErase (fn : Fn) (s : State) : Res :=
  if !flashFn s fn then .next s else .next (flashIssue s 1 (flashAddr s (s.boot.flAddr / 65536 * 65536)))

/-- PAGE_PROGRAM: the 256 B page that holds ADDR − 4. -/
def execPageProgram (fn : Fn) (s : State) : Res :=
  if !flashFn s fn then .next s
  else .next (flashIssue s 2 (flashAddr s ((s.boot.flAddr + 0x10000000 - 4) % 0x10000000 / 256 * 256)))

/-- CFG_FL_DATA: 4 B enter the program buffer and ADDR advances. -/
def execCfgFlData (fn : Fn) (value : Nat) (s : State) : Res :=
  if !flashFn s fn then .next s
  else
    let b := s.boot
    .next { s with boot := { b with flBuf := Mem.wrN b.flBuf (b.flAddr / 4 * 4 % 256) (natLe 4 value)
                                    flAddr := (b.flAddr + 4) % 0x10000000 } }

/-- Write flash bytes, kept as their complement. -/
def flashPut (s : State) (a : Nat) (bs : Bytes) : State :=
  { s with boot := { s.boot with flash := Mem.wrN s.boot.flash a (bs.map (fun b => ~~~b)) } }

/-- FLASH_OPERATION_COMPLETE: the operation ends; `ok` is whether the flash reports success. After a failure the bytes it named
hold free values. -/
def execFlashOperationComplete (ok : Bool) (s : State) : Res :=
  match s.boot.flOp with
  | none => .next s
  | some (kind, a) =>
    let n := if kind = 1 then 65536 else 256
    let s := { s with boot := { s.boot with flBusy := false, flOp := none, flErr := s.boot.flErr || !ok } }
    if !ok then
      let (f, s) := drawFree s
      .next (flashPut s a ((upto n).map (fun i => Config.freeByte f (a + i))))
    else if kind = 1 then .next { s with boot := { s.boot with flash := Mem.zero s.boot.flash a n } }
    else .next (flashPut s a ((upto n).map (fun i => flashByte s (a + i) &&& Mem.rd s.boot.flBuf i)))

end Sys2Proof.Machine
end

