-- ==== Sys2Proof/Machine/RegPlace.lean ====
section
/-! DEFINITION. Sys2Proof/Machine/RegPlace.lean: the control window: which register of which unit an offset names in the view of a
function (R84, R214, R349, R387, R422, R461, R463, R464). -/
namespace Sys2Proof.Machine

/-- A place of the control window: a block and an offset within it. -/
inductive Place where
  | cfg (o : Nat)
  | flash (o : Nat)
  | gth (port o : Nat)
  | gthPt (p : Nat)
  | alm (o : Nat)
  | almPt (p o : Nat)
  | blv (port o : Nat)
  | chkAssign (u : Nat)
  | chk (u o : Nat)
  | hq (k o : Nat)
  | mq (n o : Nat)
  | part (p : Nat)
  | ctx (k o : Nat)
  | lay (o : Nat)
  | trlPort (t o : Nat)
  | trl (o : Nat)
  | trlJob (p o : Nat)
  | lnt (n o : Nat)
  | lntFree (n o : Nat)
  | lntMod (o : Nat)
  | stm (k o : Nat)
  | pt (p o : Nat)
  | core (n o : Nat)
  deriving DecidableEq, Repr

/-- Whether a function exists on a port that is up. -/
def fnUp (s : State) : Fn → Bool
  | .mgmt n => bit (hostMask s.var) n && decide (n < 4) && (s.port n).up
  | .vf n v => bit (hostMask s.var) n && decide (n < 4) && (s.port n).up && !s.shut && decide (1 ≤ v) && decide (v ≤ 64)

/-- Whether a function is a management function. -/
def isMgmt : Fn → Bool
  | .mgmt _ => true
  | .vf _ _ => false

/-- The slot whose block a function finds at the position of slot `i` (R349, R463). -/
def slotAt (s : State) (fn : Fn) (i : Nat) : Option Nat :=
  match fn with
  | .mgmt n => if i < 16 && (s.entry i).used && (s.entry i).port == n then some i else none
  | .vf n v => if i = 0 then partOfVf s n v else none

/-- A place of a partition's block. -/
def slotPlace (s : State) (fn : Fn) (i : Nat) (f : Nat → Place) : Option Place := (slotAt s fn i).map f

/-- A place of a context's block. -/
def ctxPlace (s : State) (fn : Fn) (i c : Nat) (f : Nat → Place) : Option Place :=
  match slotAt s fn i with
  | some p => if c ≤ (s.entry p).maxCtxM1 then some (f (64 * p + c)) else none
  | none => none

/-- A place that only a management function sees. -/
def mgmtPlace (fn : Fn) (ok : Bool) (x : Place) : Option Place := if isMgmt fn && ok then some x else none

/-- The blocks below 0x0040_0000 beside CFG_, GTH_ and BLV_. -/
def placeLow (s : State) (fn : Fn) (a : Nat) : Option Place :=
  if a < 0x201000 then
    if isMgmt fn || a = 0x200080 || a = 0x200084 || a = 0x200088 then some (.alm (a - 0x200000)) else none
  else if a < 0x201100 then slotPlace s fn ((a - 0x201000) / 16) (fun p => .almPt p (a % 16))
  else if a < 0x307000 then none
  else if a < 0x307080 then mgmtPlace fn true (.chkAssign ((a - 0x307000) / 4))
  else if a < 0x308000 then none
  else if a < 0x30A000 then
    let u := (a - 0x308000) / 0x100
    if ownsUnit s fn u then some (.chk u (a % 0x100)) else none
  else none

/-- The blocks from 0x0040_0000 to 0x006F_FFFF. -/
def placeMid (s : State) (fn : Fn) (a : Nat) : Option Place :=
  if a < 0x440000 then
    let i := (a - 0x400000) / 0x100
    ctxPlace s fn (i / 64) (i % 64) (fun k => .hq k (a % 0x100))
  else if a < 0x440400 then
    let n := (a - 0x440000) / 0x100
    if fn = .mgmt n then some (.mq n (a % 0x100)) else none
  else if a < 0x500000 then none
  else if a < 0x580000 then
    let i := (a - 0x500000) / 0x8000
    let r := (a - 0x500000) % 0x8000
    if r = 0 then slotPlace s fn i .part
    else if 0x1000 ≤ r && r < 0x5000 then ctxPlace s fn i ((r - 0x1000) / 0x100) (fun k => .ctx k (a % 0x100))
    else none
  else if a < 0x580008 then mgmtPlace fn true (.lay (a - 0x580000))
  else if a < 0x600000 then none
  else if a < 0x601000 then mgmtPlace fn true (.trlPort ((a - 0x600000) / 0x100) (a % 0x100))
  else if a < 0x602000 then mgmtPlace fn true (.trl (a - 0x601000))
  else if a < 0x603000 then slotPlace s fn ((a - 0x602000) / 0x100) (fun p => .trlJob p (a % 0x100))
  else none

/-- The physical entry at a lantern position (R214). A number that a VF's partition has not allocated names a free entry,
which reads as zero and has no host-signal bit (R210). -/
def lntPlace (s : State) (fn : Fn) (n o : Nat) : Option Place :=
  match fn with
  | .mgmt _ => if lntPresent s.var n then some (.lnt n o) else none
  | .vf port v =>
    match partOfVf s port v with
    | some p =>
      match findLnt s p n with
      | some e => some (.lnt e o)
      | none => some (.lntFree n o)
    | none => none

/-- The blocks from 0x0070_0000 on. -/
def placeHigh (s : State) (fn : Fn) (a : Nat) : Option Place :=
  if a < 0x780000 then lntPlace s fn ((a - 0x700000) / 0x20) (a % 0x20)
  else if a < 0x78000C then mgmtPlace fn true (.lntMod (a - 0x780000))
  else if a < 0x800000 then none
  else if a < 0x8C0000 then
    let k := (a - 0x800000) / 0x10000
    mgmtPlace fn (bit (stackMask s.var) k) (.stm k (a % 0x10000))
  else if a < 0xC00000 then none
  else if a < 0xC10000 then slotPlace s fn ((a - 0xC00000) / 0x1000) (fun p => .pt p (a % 0x1000))
  else if a < 0x1000000 then none
  else
    let i := (a - 0x1000000) / 0x10000
    let n := match fn with
      | .mgmt _ => some i
      | .vf port v => (partOfVf s port v).bind (fun p => (logicalCores s p)[i]?)
    match n with
    | some n => if seesCore s fn n then some (.core n (a % 0x10000)) else none
    | none => none

/-- The places of a module that shows its CFG_, GTH_ and BLV_ registers beside its management queues: CFG_MXFUSE and CFG_MXREPAIR of the
cores in the function's view (R84, R387, R422). -/
def placeShut (s : State) (fn : Fn) (a : Nat) : Option Place :=
  if 0x440000 ≤ a && a < 0x440400 then placeMid s fn a
  else if 0x1000000 ≤ a && (a % 0x10000 == 0xE000 || a % 0x10000 == 0xE004) then
    let n := (a - 0x1000000) / 0x10000
    mgmtPlace fn (coreInView s fn n) (.core n (a % 0x10000))
  else none

/-- The place that a function's 4-byte access names, if it names a register of a unit it sees (R461 to R464). The management queue of
a module that is locked, has no image or has taken a FATAL event is written as usual: its commands complete (R387, R422). -/
def place (s : State) (fn : Fn) (a : Nat) : Option Place :=
  if a % 4 ≠ 0 || 0x2000000 ≤ a || !fnUp s fn then none
  else if a < 0x1000 then some (.cfg a)
  else if a < 0x1010 then mgmtPlace fn true (.flash (a - 0x1000))
  else if a < 0x100000 then none
  else if a < 0x101000 then mgmtPlace fn true (.gth fn.port (a - 0x100000))
  else if a < 0x101040 then
    let i := (a - 0x101000) / 4
    if isMgmt fn && s.shut then some (.gthPt i) else slotPlace s fn i .gthPt
  else if a < 0x200000 then none
  else if 0x300000 ≤ a && a < 0x302000 then mgmtPlace fn true (.blv fn.port (a - 0x300000))
  else if s.shut then placeShut s fn a
  else if a < 0x400000 then placeLow s fn a
  else if a < 0x700000 then placeMid s fn a
  else placeHigh s fn a

/-- The management-view offset of a place, which names it for the latch of its high half (R16). -/
def placeOff : Place → Nat
  | .cfg o => o
  | .flash o => 0x1000 + o
  | .gth _ o => 0x100000 + o
  | .gthPt p => 0x101000 + 4 * p
  | .alm o => 0x200000 + o
  | .almPt p o => 0x201000 + 16 * p + o
  | .blv _ o => 0x300000 + o
  | .chkAssign u => 0x307000 + 4 * u
  | .chk u o => 0x308000 + 0x100 * u + o
  | .hq k o => 0x400000 + 0x100 * k + o
  | .mq n o => 0x440000 + 0x100 * n + o
  | .part p => 0x500000 + 0x8000 * p
  | .ctx k o => 0x501000 + 0x8000 * (k / 64) + 0x100 * (k % 64) + o
  | .lay o => 0x580000 + o
  | .trlPort t o => 0x600000 + 0x100 * t + o
  | .trl o => 0x601000 + o
  | .trlJob p o => 0x602000 + 0x100 * p + o
  | .lnt n o => 0x700000 + 0x20 * n + o
  | .lntFree n o => 0x700000 + 0x20 * n + o
  | .lntMod o => 0x780000 + o
  | .stm k o => 0x800000 + 0x10000 * k + o
  | .pt p o => 0xC00000 + 0x1000 * p + o
  | .core n o => 0x1000000 + 0x10000 * n + o

end Sys2Proof.Machine
end

