-- ==== Sys2Proof/Machine/RegRead.lean ====
section
/-! DEFINITION. Sys2Proof/Machine/RegRead.lean: the value that a read of each register returns (R7, R18, R53, R84, R124, R133, R142, R156,
R164, R167, R181, R185, R188, R214, R242, R243, R272, R273, R289, R319, R320, R347, R373, R393, R417, R430, R431, R437, R448). -/
namespace Sys2Proof.Machine

def word32 (r : Rat) : Nat := field 32 r.floor

/-- CFG_ registers (R7, R448). -/
def readCfg (s : State) (o : Nat) : Nat :=
  let b := s.boot
  if o ≤ 0x10 then (capWords s).getD (o / 4) 0
  else if o = 0x20 then
    b2n b.done * 2 ^ 31 + b2n b.warm * 2 ^ 30 + b.bank % 4 * 2 ^ 28 + b.step % 16 * 2 ^ 24 + b.sectBad % 128 * 2 ^ 16 +
      b.sectAbs % 128 * 2 ^ 8 + b.imgErr % 16 * 16
  else if o = 0x24 then b.warms
  else if o = 0x28 then half b.serial false
  else if o = 0x2C then half b.serial true
  else 0

/-- CFG_FL_ registers (R448). -/
def readFlash (s : State) (o : Nat) : Nat :=
  if o = 0 then s.boot.flAddr
  else if o = 0xC then b2n s.boot.flBusy * 2 ^ 31 + b2n s.boot.flErr * 2 + s.boot.flTarget % 2
  else 0

/-- GTH_ registers in the view of a port's management function (R393). -/
def readGth (s : State) (n o : Nat) : Nat :=
  let g := s.gth
  let r := Tbl.get {} g.rings n
  if o = 0 then
    b2n g.locked * 2 ^ 31 + b2n g.identOk * 2 ^ 30 + g.level % 4 * 2 ^ 28 +
      ((upto 16).filter (fun p => (Tbl.get {} g.slots p).stack.isSome)).foldl (fun m p => m + 2 ^ p) 0
  else if o = 4 then b2n g.onBackup * 2 ^ 31 + g.tamper % 32
  else if o = 8 || o = 0xC then half g.mgmtCtr (o == 0xC)
  else if o = 0x10 || o = 0x14 then half g.seq (o == 0x14)
  else if o = 0x20 || o = 0x24 then half r.base (o == 0x24)
  else if o = 0x28 then b2n r.enable * 2 ^ 31 + r.vector % 64 * 256 + r.log2 % 32
  else if o = 0x2C then r.head
  else if o = 0x30 then r.tail
  else if o = 0x34 then (g.store.filter (ofPort s n)).length
  else if o = 0x38 then Tbl.get 0 g.skips n
  else if 0x100 ≤ o && o < 0x180 then
    tlogWord (Tbl.get {} g.tlog ((o - 0x100) / 16)) (o % 16 / 4)
  else 0

/-- GTH_PT_STAT (R393). -/
def readGthPt (s : State) (p : Nat) : Nat :=
  let k := Tbl.get {} s.gth.slots p
  let mine (e : Endpoint) : Bool := match e with
    | .fn (.vf n v) => partOfVf s n v == some p
    | _ => false
  let n := ((s.gth.spdm.filter (fun x => mine x.1)).map (fun x => (x.2.sessions.filter (fun y => y.up)).length)).foldl (· + ·) 0
  b2n k.ptk.isSome * 2 ^ 31 + b2n k.job.isSome * 2 ^ 30 + min n 7 * 2 ^ 27

/-- Whether less than 7 days of backup remain (R413). -/
def backupLow (a : Almanac) : Bool := decide (backupNs < a.spent + 7 * 86400 * 1000000000)

/-- ALM_ registers; before the model has taken its hot state there are no credits (R406, R417). -/
def readAlm (s : State) (o : Nat) : Nat :=
  let a := s.alm
  let due := ((upto 16).filter (fun p => a.dueQ.any (fun d => keyPart d.1 == p))).foldl (fun m p => m + 2 ^ p) 0
  let d := (o - 0x20) / 4 % 4
  let here := bit (dieMask s.var) d
  if o = 0 then
    b2n (within 40000 60000 a.inp.vin) * 2 ^ 31 + b2n a.sag * 2 ^ 30 + b2n a.frame.lost * 2 ^ 29 +
      b2n (inletHigh a.tin) * 2 ^ 28 + b2n (!a.thr.isEmpty) * 2 ^ 27 + b2n (!a.dueQ.isEmpty) * 2 ^ 26 +
      b2n a.inp.overI * 2 ^ 25 + due
  else if o = 4 then a.inp.iin % 65536 * 65536 + a.inp.vin % 65536
  else if o = 8 then word32 (a.inp.pin / 1000)
  else if o = 0xC then word32 a.charge
  else if o = 0x10 then field 12 a.peff.floor * 65536 + a.pw.cap % 4096
  else if o = 0x14 then b2n a.pw.fillEn * 2 ^ 31 + a.pw.slew % 64
  else if o = 0x18 then b2n a.frame.lost * 2 ^ 31 + a.pw.offset % 16 * 2 ^ 24 + a.frame.period % 16384
  else if o = 0x1C then field 16 a.tin
  else if 0x20 ≤ o && o < 0x30 then
    (if here then field 16 (16 * Tbl.get (hotDie s) a.tdie d).floor * 65536 + field 16 (Tbl.get 0 a.sens d) else 0)
  else if 0x30 ≤ o && o < 0x40 then (if here then a.fset % 4096 * 65536 + Tbl.get 800 a.clocks d % 4096 else 0)
  else if o = 0x40 then a.fset
  else if o = 0x44 then word32 a.bfr
  else if o = 0x48 then (if a.tdie.isEmpty then 0 else word32 (bth s))
  else if o = 0x4C then (if a.tdie.isEmpty then 0 else word32 (bres a))
  else if o = 0x50 then a.dueCnt
  else if o = 0x54 then a.overCnt
  else if o = 0x58 || o = 0x5C then half (min a.fill.floor.toNat (2 ^ 64 - 1)) (o == 0x5C)
  else if o = 0x60 then a.slewViol
  else if o = 0x64 then a.sags
  else if o = 0x68 || o = 0x6C then half a.sagTime (o == 0x6C)
  else if o = 0x80 || o = 0x84 then half a.time (o == 0x84)
  else if o = 0x88 then b2n a.unset * 2 ^ 31 + b2n (backupLow a) * 2 ^ 30
  else 0

/-- Almanac registers of a partition (R417). -/
def readAlmPt (s : State) (p o : Nat) : Nat :=
  if o < 8 then half (Tbl.get 0 s.alm.energy p) (o == 4) else half (Tbl.get 0 s.alm.hold p) (o == 0xC)

/-- Busy nanoseconds of a Trellis port, in which it has sent numbered units, or of a reduction slice; they saturate (R429, R430). -/
def trBusyNs (s : State) (t : Nat) : Nat :=
  if t < 16 then min (2 ^ 64 - 1) ((s.tport t).busyPs / 1000) else Tbl.get 0 s.blv.trBusy t

/-- BLV_ registers in the view of a port's management function (R424, R430, R431). -/
def readBlv (s : State) (n o : Nat) : Nat :=
  let b := s.blv
  let c := Tbl.get {} b.ctl n
  if o = 0 then b2n b.aliveRun * 2 ^ 31 + b2n b.fatal * 2 ^ 30 + b.head % 16 * 65536
  else if o = 4 then b2n c.irqEn * 2 ^ 31 + c.minSev % 4 * 16 + c.vector % 8
  else if o = 8 || o = 0xC then half b.fault (o == 0xC)
  else if o = 0x10 || o = 0x14 then half b.events (o == 0x14)
  else if o = 0x18 then b.drop
  else if 0x100 ≤ o && o < 0x200 then
    let i := (o - 0x100) / 16
    let w := o % 16 / 4
    if w = 0 then Tbl.get 0 b.hist i % two32
    else
      match Tbl.find b.latch i with
      | some h => h / 2 ^ (32 * (w - 1)) % two32
      | none => Tbl.get 0 b.hist i / 2 ^ (32 * w) % two32
  else if 0x200 ≤ o && o < 0x210 then b.lastFatal / 2 ^ (32 * (o % 16 / 4)) % two32
  else if 0x1000 ≤ o && o < 0x1300 then half (Tbl.get 0 b.upStall ((o - 0x1000) / 8)) (o % 8 == 4)
  else if 0x1300 ≤ o && o < 0x1360 then half (Tbl.get 0 b.upBusy ((o - 0x1300) / 8)) (o % 8 == 4)
  else if 0x1400 ≤ o && o < 0x1900 then half (Tbl.get 0 b.trStall ((o - 0x1400) / 8)) (o % 8 == 4)
  else if 0x1900 ≤ o && o < 0x19A0 then half (trBusyNs s ((o - 0x1900) / 8)) (o % 8 == 4)
  else 0

/-- CHK_ASSIGN (R437). -/
def readAssign (s : State) (u : Nat) : Nat :=
  let c := s.chk u
  b2n c.toPart * 2 ^ 31 + c.port % 4 * 256 + c.part % 16

/-- Registers of a check unit (R437). -/
def readChk (s : State) (u o : Nat) : Nat :=
  let c := s.chk u
  if o = 0 then b2n c.alvIn * 2 ^ 31 + b2n c.irqEn * 2 ^ 30 + c.vector % 64 * 256 + c.alg % 4
  else if o = 8 then
    b2n c.isOpen * 2 ^ 31 + b2n c.base * 2 ^ 30 + c.last % 256 * 65536 + min c.queue.length 16 * 2048 + c.errs6 % 64
  else if o = 0x18 || o = 0x1C then half c.exp (o == 0x1C)
  else if o = 0x20 || o = 0x24 then half c.res (o == 0x24)
  else if o = 0x28 then c.recs
  else if o = 0x2C then c.errCnt
  else 0

/-- Registers of a queue block (R373). -/
def readQueue (q : Queue) (o : Nat) : Nat :=
  if o = 0 || o = 4 then half q.sqBase (o == 4)
  else if o = 8 then q.sqFmt % 4 * 2 ^ 30 + q.sqLog2 % 32
  else if o = 0x10 then q.fetch % two32
  else if o = 0x20 || o = 0x24 then half q.cqBase (o == 0x24)
  else if o = 0x28 then q.cqVec % 64 * 65536 + q.cqLog2 % 32
  else if o = 0x2C then q.head
  else if o = 0x30 then q.tail
  else 0

/-- STATE of PT_CTX_STAT (R373). -/
def ctxCode : CtxState → Nat
  | .closed => 0
  | .open => 1
  | .stopped => 2
  | .tearingDown => 3
  | .faulted => 4

/-- Whether the head entry of a STAGE waits for its arrival (R285, R289). -/
def arrWait (s : State) (k : Nat) : Bool :=
  (s.ctx k).stage.run && !(s.ctx k).stage.probe && !arrivalOk s k &&
    (match (s.sched (keyPart k)).run with
     | some r => r.key != k
     | none => true)

/-- Registers of a context block (R53, R289, R373). -/
def readCtx (s : State) (k o : Nat) : Nat :=
  let c := s.ctx k
  let t := c.stage
  if o = 0 then
    ctxCode c.state * 2 ^ 29 + b2n c.keyed * 2 ^ 28 + b2n c.image.isSome * 2 ^ 27 + (c.vf - 1) % 64 * 2 ^ 21 + c.stopStat % 256 * 2 ^ 13
  else if o = 8 then c.quantum
  else if o = 0xC then c.event % 32
  else if o = 0x10 then c.evmask % 32
  else if o = 0x14 then
    b2n c.fltValid * 2 ^ 31 + c.fltCause % 16 * 2 ^ 27 + c.fltCore % 256 * 65536 + c.fltCmd % 65536
  else if o = 0x18 || o = 0x1C then half c.tenant (o == 0x1C)
  else if o = 0x20 || o = 0x24 then half c.runNs (o == 0x24)
  else if o = 0x40 then b2n c.flush
  else if o = 0x44 then flagBits c.flags
  else if o = 0x80 then shownEntry t % 2 ^ 20
  else if o = 0x84 then
    b2n (t.run && !t.probe) * 2 ^ 31 + b2n (arrWait s k) * 2 ^ 30 + b2n (t.run && !t.probe && t.ask == .asking) * 2 ^ 29 +
      shownStep t % 65536
  else if o = 0x88 || o = 0x8C then half t.idleNs (o == 0x8C)
  else 0

/-- PT_LAYOUT_STAT and PT_SWITCH_CTR (R373). -/
def readLay (s : State) (o : Nat) : Nat :=
  if o = 0 then (s.lay.stored.length - 1) % 8 * 256 + s.lay.active.number % 8 else s.lay.switchCtr % two32

/-- Registers of a Trellis port (R319). A present port is IDLE until it is assigned (log 9). -/
def readTport (s : State) (t o : Nat) : Nat :=
  let x := s.tport t
  if !bit (trlMask s.var) t then 0
  else if o = 0 then max 1 (x.state % 16) * 2 ^ 28 + x.dir % 16 * 2 ^ 24 + x.lanes % 256 * 65536 + x.member % 4 * 16384 + x.peer % 1024
  else if o = 4 then x.crcErr
  else if o = 8 then x.retryN
  else if o = 0x10 || o = 0x14 then half x.txu (o == 0x14)
  else if o = 0x18 || o = 0x1C then half x.rxu (o == 0x1C)
  else if o = 0x20 then b2n x.disable * 2
  else 0

/-- The Trellis registers of the module (R319, R323). -/
def readTrl (s : State) (o : Nat) : Nat :=
  let t := s.trl
  if o = 0 then t.pos % 1024
  else if o = 4 then t.topo % 4 * 2 ^ 30 + t.nz % 64 * 4096 + t.ny % 64 * 64 + t.nx % 64
  else if o = 8 then t.unroute
  else if o = 0xC then t.nojob
  else if o = 0x10 then t.linkLoss
  else if 0x100 ≤ o && o < 0x180 then
    ((upto 32).filter (fun j => t.skip.contains (32 * ((o - 0x100) / 4) + j))).foldl (fun m j => m + 2 ^ j) 0
  else 0

/-- PHASE of TRL_JOB_STAT. -/
def epochCode : EpochPhase → Nat
  | .steady => 0
  | .installed => 1
  | .switched => 2

/-- Registers of a partition's job (R320). -/
def readJob (s : State) (p o : Nat) : Nat :=
  let j := s.job p
  if o = 0 then b2n j.valid * 2 ^ 31 + epochCode j.phase * 2 ^ 29 + j.rank % 1024 * 1024 + j.tag % 1024
  else if o = 4 then j.epoch % two32
  else if o = 0xC then j.fenced
  else if o = 0x10 then j.authFail
  else if o = 0x14 then j.replay
  else if o = 0x18 then j.resent
  else if o = 0x1C then j.dupDrop
  else if o = 0x20 then b2n j.flast * 2 ^ 31 + j.flastSrc % 1024
  else if o = 0x24 then j.flastEp
  else 0

/-- Registers of a lantern entry, `phys` in the management view; nothing waits at a free entry (R214). -/
def readLnt (s : State) (n o : Nat) (phys : Bool) : Nat :=
  let e := s.lnt n
  let m := if e.alloc then maskOf s e else 0
  if o = 0 then
    b2n e.alloc * 2 ^ 31 + b2n e.reached * 2 ^ 30 + e.scope % 8 * 2 ^ 27 + b2n e.subStk * 2 ^ 26 + b2n e.subUpd * 2 ^ 25 +
      b2n e.subHost * 2 ^ 24 + b2n e.hostSig * 2 ^ 23 + b2n e.root * 2 ^ 22 + e.part % 16 * 65536 + e.ctx % 64 * 1024
  else if o = 4 then e.armGen % 256 * 256 + (if phys then e.homeP else e.homeL) % 256
  else if o = 8 then e.count % two32
  else if o = 0xC then e.target % two32
  else if o = 0x10 || o = 0x14 then half m (o == 0x14)
  else 0

/-- LNT_FAULT, LNT_XDROP and LNT_STALE (R214). -/
def readLntMod (s : State) (o : Nat) : Nat :=
  let r := s.units.lntRegs
  if o = 0 then b2n r.fltValid * 2 ^ 31 + r.fltWord % 2 ^ 31 else if o = 4 then r.xdrop else if o = 8 then r.stale else 0

/-- PHASE of UPD_PT_STAT (R272). -/
def phaseCode : UpdPhase → Nat
  | .idle => 0
  | .landing => 1
  | .norm => 2
  | .sweep => 3
  | .acks => 4

/-- PHASE as a partition's registers show it: a phase over which they were reset is not shown (R272). -/
def shownPhase (u : UpdPart) : Nat := if u.phase = u.hidePhase then 0 else phaseCode u.phase

/-- Registers of a stack controller and its update engine (R243, R273). -/
def readStm (s : State) (k o : Nat) : Nat :=
  let c := s.stkCtl k
  let u := s.updReg k
  if o = 0 then c.ce
  else if o = 4 then c.ue
  else if o = 8 then half c.lastSpa false
  else if o = 0xC then b2n c.lastValid * 2 ^ 31 + half c.lastSpa true % 256
  else if o = 0x10 then c.scrub
  else if o = 0x20 || o = 0x24 then half c.merge (o == 0x24)
  else if o = 0x28 then c.promote
  else if o = 0x2C then c.hot
  else if o = 0x100 then shownPhase (s.upd u.part) * 2 ^ 29 + u.part % 16 * 2 ^ 20 + Tbl.get 0 u.lost u.part % 128
  else if o = 0x104 || o = 0x108 then half u.recs (o == 0x108)
  else if o = 0x10C then u.crcErr
  else if o = 0x110 then u.poison
  else if o = 0x114 || o = 0x118 then half u.delta (o == 0x118)
  else if o = 0x11C then u.dhold
  else if 0x200 ≤ o && o < 0x300 then Tbl.get 0 u.lostRec (64 * u.part + (o - 0x200) / 4)
  else 0

/-- STATE of UPD_PT_GRP of shard `i`: the highest that applies (R347). -/
def groupState (s : State) (p i : Nat) (x : Shard) : Nat :=
  let y := s.prot p
  if y.beyond.contains i then 5
  else if y.rb.any (fun r => r.shards.contains i) then 4
  else if (s.job p).valid && groupAbsent s p x then 3
  else if y.suspect.contains i then 2
  else if y.shared.contains i then 1
  else 0

/-- UPD_PT_ registers of recovery (R347). -/
def readProt (s : State) (p o : Nat) : Nat :=
  let y := s.prot p
  let t := (protTab s p).getD {}
  if o = 0x200 then
    b2n y.valid * 2 ^ 31 + b2n y.alert * 2 ^ 30 + b2n (!y.shared.isEmpty) * 2 ^ 29 + b2n (!y.suspect.isEmpty) * 2 ^ 28 +
      b2n (y.valid && (s.job p).valid && t.shards.any (groupAbsent s p)) * 2 ^ 27 + b2n y.rebuilding * 2 ^ 26 + (t.shards.length - 1) % 16 * 65536 +
      t.mirrorTo % 1024
  else if o = 0x204 then
    evidWord s p
  else if o = 0x208 || o = 0x20C then half y.rbDone (o == 0x20C)
  else if o = 0x210 then b2n y.sagV * 2 ^ 31 + b2n y.sagCorr * 2 ^ 30 + y.sagPos % 1024
  else if o = 0x214 then y.sags
  else if o = 0x218 then y.ownSag
  else if 0x220 ≤ o && o < 0x260 then
    let i := (o - 0x220) / 4
    match t.shards[i]? with
    | some x => if y.valid then groupState s p i x * 2 ^ 29 + x.pos % 16 * 65536 + x.group % 65536 else 0
    | none => 0
  else 0

/-- Registers of a partition's STM block; the management view holds no map registers (R221, R242, R272, R347). -/
def readPt (s : State) (p o : Nat) (mgmt : Bool) : Nat :=
  let e := s.entry p
  let x := s.xlate p
  let u := s.upd p
  if o = 0 then b2n e.cached * 2 ^ 31 + e.frameCount % 2 ^ 19
  else if o = 4 then e.tsQuota % 2 ^ 21
  else if o = 8 then mapUsed x % 2 ^ 21
  else if 0x10 ≤ o && o < 0x30 then
    (if mgmt then 0
     else if o = 0x10 || o = 0x14 then half x.mapVa (o == 0x14)
     else if o = 0x18 || o = 0x1C then half x.mapEnt (o == 0x1C)
     else if o = 0x24 then b2n x.busy * 2 ^ 31 + x.result % 8
     else 0)
  else if o = 0x30 || o = 0x34 then half x.chit (o == 0x34)
  else if o = 0x38 || o = 0x3C then half x.cmiss (o == 0x3C)
  else if o = 0x40 then x.cperr
  else if o = 0x100 then shownPhase u * 2 ^ 29 + (u.counts.length - u.hideLanded) % 2 ^ 22
  else if o = 0x104 then u.commit % two32
  else if o = 0x108 then if u.hideNorm then 0 else u.sSum
  else if o = 0x10C then if u.hideNorm then 0x3F800000 else u.clip
  else if o = 0x110 then u.short
  else if o = 0x114 then b2n u.ovf * 2 ^ 31 + min 1023 u.lostN
  else if o = 0x118 then u.rngDisc
  else readProt s p o

/-- Registers of a stream slot (R181). -/
def readSlot (x : Slot) (o : Nat) : Nat :=
  if o = 0 then
    b2n (x.active || x.stopped) * 2 ^ 31 + b2n x.halted * 2 ^ 30 + x.cause % 4 * 2 ^ 28 + b2n x.host * 2 ^ 27 + x.task % 4 * 2 ^ 25 + b2n x.dirW * 2 ^ 24 +
      x.descNo % 4096 * 4096
  else if o = 4 then half x.va false
  else if o = 8 then half x.va true
  else if 0xC ≤ o && o < 0x20 then x.front.getD ((o - 0xC) / 4) 0
  else if o = 0x20 then half x.issued false
  else if o = 0x24 then half x.issued true
  else 0

/-- Registers of a region (R156). -/
def readRegion (r : Region) (o : Nat) : Nat :=
  if o = 0 then b2n r.valid * 2 ^ 31 + r.prod % 32 * 2 ^ 26 + r.cons % 32 * 2 ^ 21 + r.sizeM1 % 1024 * 1024 + r.base % 1024
  else if o = 4 then r.head % 2 ^ 18
  else if o = 8 then r.tail % 2 ^ 18
  else if o = 0xC then r.occ % 2 ^ 19
  else if o = 0x10 then r.rsv % 2 ^ 19
  else 0

/-- SCP_TASK (R124). -/
def readTask (t : Task) : Nat :=
  let ln := match t.hold with
    | .wait _ _ _ => true
    | .consume _ _ _ => true
    | _ => false
  b2n (t.run && !t.ended) * 2 ^ 31 + b2n ln * 2 ^ 30 + b2n (t.hold == .cf) * 2 ^ 29 + b2n (t.hold == .queue) * 2 ^ 28 + t.pc % 65536

/-- CFG_MXFUSE and CFG_MXREPAIR (R84). -/
def readRepair (r : MxRepair) (o : Nat) : Nat :=
  if o = 0xE000 then r.colB % 256 * 2 ^ 24 + r.colA % 256 * 65536 + r.rowB % 256 * 256 + r.rowA % 256
  else if o = 0xE004 then b2n r.ovlRejected * 8 + b2n r.ovlApplied * 4 + b2n r.bistFail * 2 + b2n r.bistDone
  else 0

/-- Registers of a core's window (R464). -/
def readCore (s : State) (n o : Nat) : Nat :=
  let c := s.core n
  if 0xA000 ≤ o && o < 0xA140 then half (Tbl.get 0 c.cnt.stall ((o - 0xA000) / 8)) (o % 8 == 4)
  else if 0xA140 ≤ o && o < 0xA168 then half (Tbl.get 0 c.cnt.busy ((o - 0xA140) / 8)) (o % 8 == 4)
  else if 0xB000 ≤ o && o < 0xB200 then readSlot (c.slot ((o - 0xB000) / 0x40)) (o % 0x40)
  else if o = 0xB200 || o = 0xB204 then half c.cnt.pfRead (o == 0xB204)
  else if o = 0xB208 || o = 0xB20C then half c.cnt.pfWaste (o == 0xB20C)
  else if o = 0xB210 then wchCfg s n
  else if 0xC000 ≤ o && o < 0xC800 then
    let i := (o - 0xC000) / 0x20
    readRegion (c.region (i / 16) (i % 16)) (o % 0x20)
  else if 0xC800 ≤ o && o < 0xC810 then
    let w := c.win ((o - 0xC800) / 4)
    b2n w.valid * 2 ^ 31 + w.code % 128 * 2 ^ 24 + w.sizeM1 % 1024 * 1024 + w.base % 1024
  else if o = 0xC810 then c.cnt.perr
  else if o = 0xC814 then c.cnt.collide
  else if o = 0xC818 then b2n c.cnt.rpValid * 2 ^ 31 + c.cnt.rpWord % 2 ^ 31
  else if 0xD000 ≤ o && o < 0xD010 then readTask (c.task ((o - 0xD000) / 4))
  else if o = 0xD010 then c.cnt.seqHold
  else if o = 0xD100 then (c.fx.drv % 1024 ||| 64) * 65536 + (c.fx.fwd % 1024 ||| 64)
  else if o = 0xD104 then c.fx.perr
  else if o = 0xD200 then c.wbuf.validS % two32
  else if o = 0xD204 then c.wbuf.validT % two32
  else readRepair c.repair o

/-- The live value of a place. -/
def readLive (s : State) (mgmt : Bool) : Place → Nat
  | .cfg o => readCfg s o
  | .flash o => readFlash s o
  | .gth n o => readGth s n o
  | .gthPt p => readGthPt s p
  | .alm o => readAlm s o
  | .almPt p o => readAlmPt s p o
  | .blv n o => readBlv s n o
  | .chkAssign u => readAssign s u
  | .chk u o => readChk s u o
  | .hq k o => readQueue (s.ctx k).q o
  | .mq n o => if s.shut then 0 else readQueue (s.mq n) o
  | .part p => leNat ((entryBytes (s.entry p)).take 4)
  | .ctx k o => readCtx s k o
  | .lay o => readLay s o
  | .trlPort t o => readTport s t o
  | .trl o => readTrl s o
  | .trlJob p o => readJob s p o
  | .lnt n o => readLnt s n o mgmt
  | .lntFree _ _ => 0
  | .lntMod o => readLntMod s o
  | .stm k o => readStm s k o
  | .pt p o => readPt s p o mgmt
  | .core n o => readCore s n o

/-- Whether a place is the low half of a 64-bit counter (R16). -/
def counterLow : Place → Bool
  | .gth _ o => o == 8 || o == 0x10
  | .alm o => o == 0x58 || o == 0x68 || o == 0x80
  | .almPt _ o => o == 0 || o == 8
  | .blv _ o => o == 0x10 || ((within 0x1000 0x135F o || within 0x1400 0x199F o) && o % 8 == 0)
  | .ctx _ o => o == 0x20 || o == 0x88
  | .trlPort _ o => o == 0x10 || o == 0x18
  | .stm _ o => o == 0x20 || o == 0x104 || o == 0x114
  | .pt _ o => o == 0x30 || o == 0x38 || o == 0x208
  | .core _ o => (within 0xA000 0xA167 o && o % 8 == 0) || o == 0xB200 || o == 0xB208
  | _ => false

/-- The place 4 bytes further on in its block. -/
def nextPlace : Place → Place
  | .gth n o => .gth n (o + 4)
  | .alm o => .alm (o + 4)
  | .almPt p o => .almPt p (o + 4)
  | .blv n o => .blv n (o + 4)
  | .ctx k o => .ctx k (o + 4)
  | .trlPort t o => .trlPort t (o + 4)
  | .stm k o => .stm k (o + 4)
  | .pt p o => .pt p (o + 4)
  | .core n o => .core n (o + 4)
  | x => x

/-- Whether a management function's read is shut out by a TDI of the partition that is CONFIG_LOCKED or RUN (R350). -/
def tdiShut (s : State) (mgmt : Bool) : Place → Bool
  | .ctx k o => mgmt && o != 0 && tdiHeld s (keyPart k)
  | .core n _ => mgmt && (match partOfBed s (n / 16) with
      | some p => tdiHeld s p
      | none => false)
  | _ => false

/-- What a 4-byte read of an offset returns to a function: zero where it sees no register; a high half that a low-half read
has latched (R11, R16). -/
def regRead (s : State) (fn : Fn) (a : Nat) : Nat :=
  match place s fn a with
  | none => 0
  | some x =>
    if tdiShut s (isMgmt fn) x then 0
    else match Tbl.find s.latch (placeOff x) with
      | some v => v
      | none => readLive s (isMgmt fn) x

/-- What else a read of a place does: word 0 of a history entry latches the others (R424). -/
def readEffect (x : Place) (s : State) : State :=
  match x with
  | .blv _ o => if within 0x100 0x1FF o && o % 16 == 0 then histLatch s ((o - 0x100) / 16) else s
  | _ => s

/-- A 4-byte read of a function: the low half of a 64-bit counter latches its high half, and at any other offset the read returns what
`regRead` gives and uses up a latched high half: the latch serves the next read only (R16). -/
def readAt (fn : Fn) (a : Nat) (s : State) : State :=
  match place s fn a with
  | none => { s with readOut := 0 }
  | some x =>
    if tdiShut s (isMgmt fn) x then { s with readOut := 0 }
    else if !counterLow x then readEffect x { s with readOut := regRead s fn a, latch := Tbl.del s.latch (placeOff x) }
    else
      let hi := nextPlace x
      { s with readOut := readLive s (isMgmt fn) x
               latch := Tbl.set s.latch (placeOff hi) (readLive s (isMgmt fn) hi) }

/-- Whether an access is one that R461 allows: 4 bytes aligned to 4, or 8 bytes aligned to 8. -/
def fitAccess (a : Access) : Bool := (a.width == 4 || a.width == 8) && a.off % a.width == 0

/-- COUNTER_LOW_HALF_READ: a read, which latches the high half of a counter whose low half it reads (R16). Eight bytes are
two 4-byte reads, the lower offset first, and any access but these reads zero as of an absent unit (R461). -/
def execCounterLowHalfRead (fn : Fn) (a : Access) (s : State) : Res :=
  if !fitAccess a then .next { s with readOut := 0 }
  else if a.width = 4 then .next (readAt fn a.off s)
  else
    let lo := readAt fn a.off s
    let hi := readAt fn (a.off + 4) lo
    .next { hi with readOut := lo.readOut + two32 * hi.readOut }

end Sys2Proof.Machine
end

