-- ==== Sys2Proof/Machine/RegWrite.lean ====
section
/-! DEFINITION. Sys2Proof/Machine/RegWrite.lean: writes to the registers of the control window by their access codes (R17, R18, R53,
R181, R214, R242, R243, R272, R319, R320, R347, R373, R393, R417, R431, R437, R448). A write to a register whose writes have
commands of their own acts as that command does, where the function and the value written say all that the command needs. -/
namespace Sys2Proof.Machine

/-- A 64-bit value with one half replaced. -/
def putHalf (v : Nat) (hi : Bool) (w : Nat) : Nat :=
  if hi then w % two32 * two32 + v % two32 else v / two32 % two32 * two32 + w % two32

/-- Bits that a write of ones leaves set (access W1C, R18). -/
def w1c (x v : Nat) : Nat := x - (x &&& v)

/-- A value held within bounds. -/
def clamp (lo hi v : Nat) : Nat := if v < lo then lo else if hi < v then hi else v

/-- The state of an outcome; a refused write leaves the state. -/
def nextOr (s : State) : Res → State
  | .next t => t
  | .fault _ => s
  | .refused _ => s

/-- Flash registers (R448). -/
def writeFlash (s : State) (fn : Fn) (o v : Nat) : State :=
  let b := s.boot
  if o = 0 then { s with boot := { b with flAddr := v % 0x10000000 } }
  else if o = 4 then nextOr s (execCfgFlData fn v s)
  else if o = 8 then
    if v % 4 = 1 then nextOr s (execSectorErase fn s) else if v % 4 = 2 then nextOr s (execPageProgram fn s) else s
  else if o = 0xC then { s with boot := { b with flErr := b.flErr && !bit v 1, flTarget := v % 2 } }
  else s

/-- Replace the usage ring of a port. -/
def setRing (s : State) (n : Nat) (r : UseRing) : State :=
  { s with gth := { s.gth with rings := Tbl.set s.gth.rings n r } }

/-- Gatehouse registers in the view of the management function of port `n` (R393). -/
def writeGth (s : State) (n o v : Nat) : State :=
  let r := Tbl.get {} s.gth.rings n
  if o = 4 then { s with gth := { s.gth with tamper := w1c s.gth.tamper (v % 32) } }
  else if o = 0x20 || o = 0x24 then if r.enable then s else setRing s n { r with base := putHalf r.base (o == 0x24) v }
  else if o = 0x28 then
    setRing s n { r with enable := bit v 31, vector := bits v 8 6, log2 := if r.enable then r.log2 else bits v 0 5 }
  else if o = 0x2C then setRing s n { r with head := v }
  else s

/-- Almanac registers (R417). -/
def writeAlm (s : State) (o v : Nat) : State :=
  let a := s.alm
  if o = 0x10 then { s with alm := { a with pw := { a.pw with cap := clamp a.pw.capMin a.pw.capMax (bits v 0 12) } } }
  else if o = 0x14 then { s with alm := { a with pw := { a.pw with fillEn := bit v 31, slew := clamp 2 50 (bits v 0 6) } } }
  else if o = 0x40 then
    { s with alm := { a with fset := clamp 800 (if a.pw.boost then 2200 else 2000) (bits v 0 12 / 50 * 50) } }
  else s

/-- Belvedere registers in the view of the management function of port `n` (R418, R431). -/
def writeBlv (s : State) (n o v : Nat) : State :=
  let b := s.blv
  if o = 4 then
    { s with blv := { b with ctl := Tbl.set b.ctl n { irqEn := bit v 31, minSev := bits v 4 2, vector := bits v 0 3 } } }
  else if o = 8 then { s with blv := { b with fault := w1c b.fault v } }
  else if o = 0xC then { s with blv := { b with fault := w1c b.fault (v * two32) } }
  else s

/-- CHK_CTL: START, END or RESET (R437). The feed queue holds what it held. -/
def writeChkCtl (s : State) (fn : Fn) (u v : Nat) : State :=
  if v % 4 = 1 then nextOr s (execChkStart fn u (bits v 8 8) 0 s)
  else if v % 4 = 2 then nextOr s (execChkEnd fn u 0 s)
  else if v % 4 = 3 then nextOr s (execChkReset fn u s)
  else s

/-- Registers of a check unit (R437). -/
def writeChk (s : State) (fn : Fn) (u o v : Nat) : State :=
  let c := s.chk u
  if o = 0 then
    if c.isOpen then s
    else s.setChk u { c with alvIn := bit v 31, irqEn := bit v 30, vector := bits v 8 6, alg := bits v 0 2 }
  else if o = 4 then writeChkCtl s fn u v
  else if o = 8 then s.setChk u { c with errs6 := w1c c.errs6 (v % 64) }
  else if o = 0xC then nextOr s (execChkD8 fn u v 0 s)
  else if o = 0x10 then nextOr s (execChkD16 fn u v 0 s)
  else if o = 0x14 then nextOr s (execChkD32 fn u v 0 s)
  else if o = 0x18 || o = 0x1C then s.setChk u { c with exp := putHalf c.exp (o == 0x1C) v }
  else s

/-- The base and configuration registers of a queue block (R373). -/
def cfgQueue (q : Queue) (o v : Nat) : Queue :=
  if o = 0 || o = 4 then { q with sqBase := putHalf q.sqBase (o == 4) v }
  else if o = 8 then { q with sqFmt := bits v 30 2, sqLog2 := bits v 0 5 }
  else if o = 0x20 || o = 0x24 then { q with cqBase := putHalf q.cqBase (o == 0x24) v }
  else if o = 0x28 then { q with cqVec := bits v 16 6, cqLog2 := bits v 0 5 }
  else q

/-- A context's queue block: the configuration only while CLOSED (R373). -/
def writeHq (s : State) (fn : Fn) (k o v : Nat) : State :=
  let c := s.ctx k
  let ref := QRef.ctx (keyPart k) (keyCtx k)
  if o = 0xC then nextOr s (execSqDoorbell fn ref v s)
  else if o = 0x2C then nextOr s (execCqHeadWrite fn ref v s)
  else if c.state == .closed && mayWriteCtx s fn k then s.setCtx k { c with q := cfgQueue c.q o v }
  else s

/-- The management queue of port `n` (R362, R373). -/
def writeMq (s : State) (fn : Fn) (n o v : Nat) : State :=
  if o = 0xC then nextOr s (execSqDoorbell fn (.mgmt n) v s)
  else if o = 0x2C then nextOr s (execCqHeadWrite fn (.mgmt n) v s)
  else s.setMq n (cfgQueue (s.mq n) o v)

/-- PT_CTX_CTL (R355). -/
def writeCtl (s : State) (fn : Fn) (k op : Nat) : State :=
  if op = 1 then nextOr s (execOpen fn k s)
  else if op = 2 then nextOr s (execResume fn k s)
  else if op = 3 then nextOr s (execFlush fn k s)
  else if op = 4 then nextOr s (execTeardown fn k s)
  else if op = 5 then nextOr s (execClose fn k s)
  else s

/-- The RW and W1C registers of a context block (R53, R373). -/
def cfgCtx (c : Ctx) (o v : Nat) : Ctx :=
  if o = 8 then { c with quantum := min (bits v 0 10) 999 }
  else if o = 0xC then { c with event := w1c c.event (v % 32) }
  else if o = 0x18 || o = 0x1C then
    if c.state = .closed then { c with tenant := putHalf c.tenant (o == 0x1C) v } else c
  else if o = 0x40 then { c with flush := bit v 0 }
  else if o = 0x44 then { c with flags := clearFlags c.flags v }
  else c

/-- A context block. -/
def writeCtx (s : State) (fn : Fn) (k o v : Nat) : State :=
  if o = 4 then writeCtl s fn k (v % 8)
  else if o = 0x10 then nextOr s (execEvmaskWrite fn k v s)
  else if mayWriteCtx s fn k then s.setCtx k (cfgCtx (s.ctx k) o v)
  else s

/-- TRL_SKIP0 to TRL_SKIP31 (R295, R319). -/
def writeTrl (s : State) (o v : Nat) : State :=
  if 0x100 ≤ o && o < 0x180 then
    let i := (o - 0x100) / 4
    let on := ((upto 32).filter (bit v)).map (fun j => 32 * i + j)
    { s with trl := { s.trl with skip := s.trl.skip.filter (fun p => p / 32 != i) ++ on } }
  else s

/-- TRL_JOB_FLAST.VALID (R320). -/
def writeJob (s : State) (p o v : Nat) : State :=
  if o = 0x20 then s.setJob p { s.job p with flast := (s.job p).flast && !bit v 31 } else s

/-- LNT_FAULT.VALID (R214). -/
def writeLntMod (s : State) (o v : Nat) : State :=
  if o = 0 then
    let r := s.units.lntRegs
    { s with units := { s.units with lntRegs := { r with fltValid := r.fltValid && !bit v 31 } } }
  else s

/-- STM_ECC_LAST_HI.VALID (R243). -/
def writeStm (s : State) (k o v : Nat) : State :=
  if o = 0xC then s.setStkCtl k { s.stkCtl k with lastValid := (s.stkCtl k).lastValid && !bit v 31 } else s

/-- STM_MAP_CMD (R221, R222). -/
def writeMapCmd (s : State) (fn : Fn) (v : Nat) : State :=
  if v % 4 = 1 then nextOr s (execMap fn (bit v 2) s)
  else if v % 4 = 2 then nextOr s (execUnmap fn (bit v 2) s)
  else s

/-- A partition's STM block. The map registers exist in a VF's view only (R221, R242); a management function clears SUSPECT (R332,
R347). -/
def writePt (s : State) (fn : Fn) (p o v : Nat) : State :=
  let x := s.xlate p
  let y := s.prot p
  if (o = 0x10 || o = 0x14) && !isMgmt fn then s.setXlate p { x with mapVa := putHalf x.mapVa (o == 0x14) v }
  else if (o = 0x18 || o = 0x1C) && !isMgmt fn then s.setXlate p { x with mapEnt := putHalf x.mapEnt (o == 0x1C) v }
  else if o = 0x20 && !isMgmt fn then writeMapCmd s fn v
  else if o = 0x200 then
    s.setProt p { y with alert := y.alert && !bit v 30, suspect := if bit v 28 && isMgmt fn then [] else y.suspect }
  else if o = 0x210 then s.setProt p { y with sagV := y.sagV && !bit v 31 }
  else s

/-- A core's window: SCP_STR_RESUME of its eight slots (R181, R182). -/
def writeCore (s : State) (fn : Fn) (n o v : Nat) : State :=
  if 0xB000 ≤ o && o < 0xB200 && (o - 0xB000) % 0x40 == 0x28 then
    let slot := (o - 0xB000) / 0x40
    if bit v 1 then nextOr s (execDeny fn n slot s) else if bit v 0 then nextOr s (execGo fn n slot s) else s
  else s

/-- The number by which a function names a physical entry: itself in the management view, the partition's lantern number in
a VF's view (R214). -/
def lntName (s : State) (fn : Fn) (n : Nat) : Nat := if isMgmt fn then n else (s.lnt n).num

/-- The jobs that had a packet among the units a port drops when a register write takes it down: for each job admitted here a free value
says whether it had (R323); log 11. -/
def lostJobs (s : State) (n : Nat) : List Nat :=
  ((upto 16).filter (fun p => (s.job p).valid && (Config.freeByte n p).getLsbD 0)).map (fun p => (s.job p).tag)

/-- TRL_PORT_CTL: DISABLE is stored and acts, and then RETRAIN, whose training attempt has a free outcome: the good lanes and the position
that the neighbour gives (R18, R292, R319); log 11. -/
def writeTport (s : State) (fn : Fn) (t o v : Nat) : State :=
  if o ≠ 0x20 then s
  else
    let (n, s) := drawFree s
    let s := nextOr s (execDisable fn t (bit v 1) (lostJobs s n) s)
    if !bit v 0 then s
    else
      let (n, s) := drawFree s
      nextOr s (execRetrain fn t (Config.freeByte n 0).toNat ((Config.freeWord n).toNat % 1024) (lostJobs s n) s)

/-- The effect of a write to a place. Registers with access RO discard it (R18). -/
def writePlace (s : State) (fn : Fn) (v : Nat) : Place → State
  | .cfg _ => s
  | .flash o => writeFlash s fn o v
  | .gth n o => writeGth s n o v
  | .gthPt _ => s
  | .alm o => writeAlm s o v
  | .almPt _ _ => s
  | .blv n o => writeBlv s n o v
  | .chkAssign u => nextOr s (execChkAssign fn u v s)
  | .chk u o => writeChk s fn u o v
  | .hq k o => writeHq s fn k o v
  | .mq n o => writeMq s fn n o v
  | .part _ => s
  | .ctx k o => writeCtx s fn k o v
  | .lay _ => s
  | .trlPort t o => writeTport s fn t o v
  | .trl o => writeTrl s o v
  | .trlJob p o => writeJob s p o v
  | .lnt n o => if o = 0x18 then nextOr s (execLntHsig fn (lntName s fn n) v s) else s
  | .lntFree n o => if o = 0x18 then nextOr s (execLntHsig fn n v s) else s
  | .lntMod o => writeLntMod s o v
  | .stm k o => writeStm s k o v
  | .pt p o => writePt s fn p o v
  | .core n o => writeCore s fn n o v

/-- A 4-byte write of a function at a control-window offset (R16 to R18). -/
def writeAt (fn : Fn) (a v : Nat) (s : State) : State :=
  match place s fn a with
  | none => s
  | some x => writePlace s fn (v % two32) x

/-- REGISTER_WRITE: a write of a function at a control-window offset. Eight bytes are two 4-byte writes, the lower offset
first, and any access but these is discarded as to an absent unit (R461). -/
def execRegisterWrite (fn : Fn) (a : Access) (value : Nat) (s : State) : Res :=
  if !fitAccess a then .next s
  else if a.width = 4 then .next (writeAt fn a.off value s)
  else .next (writeAt fn (a.off + 4) (value / two32) (writeAt fn a.off value s))

end Sys2Proof.Machine
end

