-- ==== Sys2Proof/Machine/Pins.lean ====
section
/-! DEFINITION. Sys2Proof/Machine/Pins.lean: PERST_N, the Trellis cables and the test access port (R351, R392, R455 to R459). -/
namespace Sys2Proof.Machine

/-! ### PERST_N (R455) -/

/-- PERST_N_ASSERT: PERST_N of port `n` is low: its link goes down and its contexts end (R351). -/
def execPerstNAssert (n : Nat) (s : State) : Res :=
  if !bit (hostMask s.var) n || 4 ≤ n || s.pins.perstLow.contains n then .next s
  else
    let s := { s with pins := { s.pins with perstLow := n :: s.pins.perstLow } }
    .next (if (s.port n).up then linkDown resetContext s n else s)

/-- PERST_N_RELEASE: PERST_N of port `n` is high: the port trains, once Daybreak has reached step 6. -/
def execPerstNRelease (n : Nat) (s : State) : Res :=
  if !s.pins.perstLow.contains n then .next s
  else
    let s := { s with pins := { s.pins with perstLow := s.pins.perstLow.filter (· != n) } }
    .next (if s.boot.rails && decide (6 ≤ s.boot.step) then linkUp s n else s)

/-! ### Trellis cables (R458, R459) -/

/-- CABLE_SEATED: a cable is seated in connector `c`. Its ports train at their next retry, a PORT_TRAIN. -/
def execCableSeated (c : Nat) (s : State) : Res :=
  if 4 ≤ c || s.pins.cables.contains c then .next s
  else .next { s with pins := { s.pins with cables := c :: s.pins.cables } }

/-- One port of a removed cable goes down with cause 2 (R292). -/
def cablePort (jobs : List Nat) (s : State) (n : Nat) : State :=
  if portUp (s.tport n) then report (portDown s n jobs) (32 + n) (evtNone 0x021 2 n 2) else s

/-- CABLE_REMOVED: the cable of connector `c` is removed: ports 4c to 4c + 3 go down. `jobs` are the job tags with a packet
among the units they drop. -/
def execCableRemoved (c : Nat) (jobs : List Nat) (s : State) : Res :=
  if !s.pins.cables.contains c then .next s
  else
    let s := { s with pins := { s.pins with cables := s.pins.cables.filter (· != c) } }
    .next (((upto 4).map (fun q => 4 * c + q)).foldl (cablePort jobs) s)

/-! ### The test access port (R456, R457) -/

/-- The instruction that a code of the 4-bit instruction register selects: every code outside the table, the bypass register (R456). -/
def tapIr (code : Nat) : TapIr :=
  match code with
  | 0 => .extest
  | 1 => .sample
  | 2 => .idcode
  | _ => .bypass

/-- Select an instruction. The port works only while the rails are up. -/
def selectIr (s : State) (code : Nat) : State := { s with pins := { s.pins with ir := code } }

/-- Preload the 37 boundary cells. -/
def preload (s : State) (cells : Nat) : State := { s with pins := { s.pins with boundary := cells % 2 ^ 37 } }

/-- Whether the boundary cells drive the pins: EXTEST, and RESET_N low (R457). -/
def drivesPins (s : State) : Bool := s.boot.rails && tapIr s.pins.ir == .extest && s.pins.resetLow

/-- The level of ALIVE: the module's own, or its data cell while its enable cell is 1; the board's pull-down otherwise (R425, R454,
R457). -/
def alivePin (s : State) : Bool :=
  if drivesPins s then bit s.pins.boundary 22 && bit s.pins.boundary 23 else s.boot.rails && s.blv.alive

/-- Whether the module drives an open-drain pin low by its cell (R457). -/
def cellLow (s : State) (i : Nat) : Bool := drivesPins s && bit s.pins.boundary i

/-- What boundary cell `i` captures. The cells are numbered in the order of R457's table, an input cell before its drive-low cell, and a
drive-low cell drives at 1. `levels` holds what the board and the serial lines show where State holds nothing of it (DESIGN CHOICE,
log 81). -/
def cellIn (s : State) (levels i : Nat) : Bool :=
  if i < 22 then (if i % 2 = 0 then bit levels i && !cellLow s (i + 1) else bit levels i)
  else if i = 22 then alivePin s
  else if i = 23 then !drivesPins s || bit s.pins.boundary 23
  else if i = 25 then !s.pins.resetLow
  else if i = 27 || i = 28 then bit s.pins.smbAddr (i - 27)
  else if 29 ≤ i && i < 33 then !s.pins.perstLow.contains (i - 29)
  else if 33 ≤ i then !s.pins.cables.contains (i - 33)
  else bit levels i

/-- The 37 cells as they capture. -/
def captured37 (s : State) (levels : Nat) : Nat := (upto 37).foldl (fun n i => n + b2n (cellIn s levels i) * 2 ^ i) 0

/-- A scan of the boundary register under an instruction: the cells capture the pins, which are read, and new cells are shifted in. -/
def scanCells (s : State) (code : Nat) (c : Scan) : State :=
  let s := selectIr s code
  preload { s with readOut := captured37 s c.levels } c.cells

/-- EXTEST: selects the boundary register; its cells drive the pins while RESET_N is low. -/
def execExtest (c : Scan) (s : State) : Res := if !s.boot.rails then .next s else .next (scanCells s 0 c)

/-- SAMPLE_PRELOAD: samples the pins and preloads the cells. -/
def execSamplePreload (c : Scan) (s : State) : Res := if !s.boot.rails then .next s else .next (scanCells s 1 c)

/-- The identification register: SILICON_REV[3:0], then 0x4B5_454B. -/
def idcode (s : State) : Nat := s.cfg.rev % 16 * 2 ^ 28 + 0x04B5454B

/-- IDCODE: selects the identification register, which is read. -/
def execIdcode (s : State) : Res :=
  if !s.boot.rails then .next s else .next { selectIr s 2 with readOut := idcode s }

/-- BYPASS: 0b1111 or any code outside the table selects the one-bit bypass register, which captures 0 under IEEE 1149.1. The row does not
say which of these codes is shifted in: it is left free (DESIGN CHOICE, log 81). -/
def execBypass (s : State) : Res :=
  if !s.boot.rails then .next s
  else
    let (n, s) := drawFree s
    .next { selectIr s (3 + (Config.freeWord n).toNat % 13) with readOut := 0 }

/-- TEST_LOGIC_RESET: selects IDCODE. -/
def execTestLogicReset (s : State) : Res :=
  if !s.boot.rails then .next s else .next (selectIr s 2)

end Sys2Proof.Machine
end

