-- ==== Sys2Proof/Machine/Dispatch.lean ====
section
/-! DEFINITION. Sys2Proof/Machine/Dispatch.lean: every command and its meaning, one arm each. -/

namespace Sys2Proof.Machine
open Sys2Proof

/-- The effect of a command on everything but the queue. -/
def exec (i : Instr) (s : State) : Host.Outcome State Fault Refusal :=
  match i with
  | .registerWrite fn a value => Sys2Proof.Machine.execRegisterWrite fn a value s
  | .counterLowHalfRead fn a => Sys2Proof.Machine.execCounterLowHalfRead fn a s
  | .historyWord0Read fn entry => Sys2Proof.Machine.execHistoryWord0Read fn entry s
  | .load k img => Sys2Proof.Machine.execLoad k img s
  | .unload k => Sys2Proof.Machine.execUnload k s
  | .run p => Sys2Proof.Machine.execRun p s
  | .commandEndOnCore core => Sys2Proof.Machine.execCommandEndOnCore core s
  | .mxMm core ev => Sys2Proof.Machine.execMxMm core ev s
  | .mxCv core ev => Sys2Proof.Machine.execMxCv core ev s
  | .mxDr core ev => Sys2Proof.Machine.execMxDr core ev s
  | .mxFmt core ev => Sys2Proof.Machine.execMxFmt core ev s
  | .tileLoad core => Sys2Proof.Machine.execTileLoad core s
  | .vxB core ev => Sys2Proof.Machine.execVxB core ev s
  | .vxT core ev => Sys2Proof.Machine.execVxT core ev s
  | .vxUCvt core ev => Sys2Proof.Machine.execVxUCvt core ev s
  | .vxUCopy core ev => Sys2Proof.Machine.execVxUCopy core ev s
  | .vxUNeg core ev => Sys2Proof.Machine.execVxUNeg core ev s
  | .vxUAbs core ev => Sys2Proof.Machine.execVxUAbs core ev s
  | .vxUTrn core ev => Sys2Proof.Machine.execVxUTrn core ev s
  | .vxURsum core ev => Sys2Proof.Machine.execVxURsum core ev s
  | .vxURmax core ev => Sys2Proof.Machine.execVxURmax core ev s
  | .vxURsumsq core ev => Sys2Proof.Machine.execVxURsumsq core ev s
  | .fxFwd core ev => Sys2Proof.Machine.execFxFwd core ev s
  | .fxBwi core ev => Sys2Proof.Machine.execFxBwi core ev s
  | .fxBwo core ev => Sys2Proof.Machine.execFxBwo core ev s
  | .stIn core ev slot => Sys2Proof.Machine.execStIn core ev slot s
  | .stOut core ev slot => Sys2Proof.Machine.execStOut core ev slot s
  | .stWch core ev slot => Sys2Proof.Machine.execStWch core ev slot s
  | .stTil core ev => Sys2Proof.Machine.execStTil core ev s
  | .chunkBegin core slot => Sys2Proof.Machine.execChunkBegin core slot s
  | .streamDataReturn core slot q data => Sys2Proof.Machine.execStreamDataReturn core slot q data s
  | .chunkVisible core slot => Sys2Proof.Machine.execChunkVisible core slot s
  | .translationWalkComplete core slot => Sys2Proof.Machine.execTranslationWalkComplete core slot s
  | .go fn core slot => Sys2Proof.Machine.execGo fn core slot s
  | .deny fn core slot => Sys2Proof.Machine.execDeny fn core slot s
  | .haltedTimeLimit p => Sys2Proof.Machine.execHaltedTimeLimit p s
  | .prefetchRead core slot data => Sys2Proof.Machine.execPrefetchRead core slot data s
  | .weightChainFlit core slot => Sys2Proof.Machine.execWeightChainFlit core slot s
  | .weightChainSourceRead core slot => Sys2Proof.Machine.execWeightChainSourceRead core slot s
  | .lnArm core ev => Sys2Proof.Machine.execLnArm core ev s
  | .lnSig core ev => Sys2Proof.Machine.execLnSig core ev s
  | .lnWait core task => Sys2Proof.Machine.execLnWait core task s
  | .lnWtc core task => Sys2Proof.Machine.execLnWtc core task s
  | .lanternNotification core => Sys2Proof.Machine.execLanternNotification core s
  | .lanternDeltaSend n => Sys2Proof.Machine.execLanternDeltaSend n s
  | .lanternDelta port k => Sys2Proof.Machine.execLanternDelta port k s
  | .lanternArm port k => Sys2Proof.Machine.execLanternArm port k s
  | .lanternCount port k => Sys2Proof.Machine.execLanternCount port k s
  | .lanternReject port k => Sys2Proof.Machine.execLanternReject port k s
  | .lntHsig fn n v => Sys2Proof.Machine.execLntHsig fn n v s
  | .map fn host => Sys2Proof.Machine.execMap fn host s
  | .unmap fn host => Sys2Proof.Machine.execUnmap fn host s
  | .unmapComplete p => Sys2Proof.Machine.execUnmapComplete p s
  | .patrolScrub k => Sys2Proof.Machine.execPatrolScrub k s
  | .gatherSorterEntry core slot => Sys2Proof.Machine.execGatherSorterEntry core slot s
  | .gatherSorterIssue k => Sys2Proof.Machine.execGatherSorterIssue k s
  | .gatherPromotion k ix => Sys2Proof.Machine.execGatherPromotion k ix s
  | .update k block => Sys2Proof.Machine.execUpdate k block s
  | .updateResume k block => Sys2Proof.Machine.execUpdateResume k block s
  | .landingBlock p d lb count data => Sys2Proof.Machine.execLandingBlock p d lb count data s
  | .sweepStart p => Sys2Proof.Machine.execSweepStart p s
  | .sweepRecord p k => Sys2Proof.Machine.execSweepRecord p k s
  | .landTimeout p => Sys2Proof.Machine.execLandTimeout p s
  | .rngCheck k recs => Sys2Proof.Machine.execRngCheck k recs s
  | .stage k => Sys2Proof.Machine.execStage k s
  | .passCommandIssue p => Sys2Proof.Machine.execPassCommandIssue p s
  | .portTrain n lanes peer => Sys2Proof.Machine.execPortTrain n lanes peer s
  | .portDown n cause jobs => Sys2Proof.Machine.execPortDown n cause jobs s
  | .retrain fn n lanes peer jobs => Sys2Proof.Machine.execRetrain fn n lanes peer jobs s
  | .disable fn n value jobs => Sys2Proof.Machine.execDisable fn n value jobs s
  | .wireUnit n u => Sys2Proof.Machine.execWireUnit n u s
  | .packetForward n k => Sys2Proof.Machine.execPacketForward n k s
  | .packetStallTimeout n job => Sys2Proof.Machine.execPacketStallTimeout n job s
  | .dataPacket n k => Sys2Proof.Machine.execDataPacket n k s
  | .reducePacket n k => Sys2Proof.Machine.execReducePacket n k s
  | .localContribution core slot => Sys2Proof.Machine.execLocalContribution core slot s
  | .ackPacket n k => Sys2Proof.Machine.execAckPacket n k s
  | .scalarPacket n k => Sys2Proof.Machine.execScalarPacket n k s
  | .creditPacket n k => Sys2Proof.Machine.execCreditPacket n k s
  | .jobAdmit k b => Sys2Proof.Machine.execJobAdmit k b s
  | .install k rec sigOk => Sys2Proof.Machine.execInstall k rec sigOk s
  | .switch k => Sys2Proof.Machine.execSwitch k s
  | .graceEnd k => Sys2Proof.Machine.execGraceEnd k s
  | .protectionDelta n k => Sys2Proof.Machine.execProtectionDelta n k s
  | .dack n k => Sys2Proof.Machine.execDack n k s
  | .mirror n k => Sys2Proof.Machine.execMirror n k s
  | .mack n k => Sys2Proof.Machine.execMack n k s
  | .sag n k => Sys2Proof.Machine.execSag n k s
  | .rbReq n k units => Sys2Proof.Machine.execRbReq n k units s
  | .rbData n k checksOk => Sys2Proof.Machine.execRbData n k checksOk s
  | .protectionResend p ix => Sys2Proof.Machine.execProtectionResend p ix s
  | .jobHalt k => Sys2Proof.Machine.execJobHalt k s
  | .jobResume k block => Sys2Proof.Machine.execJobResume k block s
  | .rebuildMember k block committed => Sys2Proof.Machine.execRebuildMember k block committed s
  | .rebuildRecords k block list => Sys2Proof.Machine.execRebuildRecords k block list s
  | .rebuildParity k block => Sys2Proof.Machine.execRebuildParity k block s
  | .probe k expected => Sys2Proof.Machine.execProbe k expected s
  | .jobEvict n block sigOk devOk => Sys2Proof.Machine.execJobEvict n block sigOk devOk s
  | .bedWithdraw n block sigOk devOk => Sys2Proof.Machine.execBedWithdraw n block sigOk devOk s
  | .dgSet k block => Sys2Proof.Machine.execDgSet k block s
  | .dgJoin k => Sys2Proof.Machine.execDgJoin k s
  | .dgLeave k => Sys2Proof.Machine.execDgLeave k s
  | .dgStep k => Sys2Proof.Machine.execDgStep k s
  | .decodeRowArrival d slot core row => Sys2Proof.Machine.execDecodeRowArrival d slot core row s
  | .deadlineExpiry d => Sys2Proof.Machine.execDeadlineExpiry d s
  | .gatheredTileDelivery d => Sys2Proof.Machine.execGatheredTileDelivery d s
  | .functionLevelReset port vf => Sys2Proof.Machine.execFunctionLevelReset port vf s
  | .tdispRequest port vf msg session => Sys2Proof.Machine.execTdispRequest port vf msg session s
  | .layoutSwitch n block sigOk devOk => Sys2Proof.Machine.execLayoutSwitch n block sigOk devOk s
  | .ctxOpen fn k => Sys2Proof.Machine.execOpen fn k s
  | .resume fn k => Sys2Proof.Machine.execResume fn k s
  | .flush fn k => Sys2Proof.Machine.execFlush fn k s
  | .teardown fn k => Sys2Proof.Machine.execTeardown fn k s
  | .close fn k => Sys2Proof.Machine.execClose fn k s
  | .teardownEnd k => Sys2Proof.Machine.execTeardownEnd k s
  | .sqDoorbell fn q value => Sys2Proof.Machine.execSqDoorbell fn q value s
  | .descriptorFetch q data next => Sys2Proof.Machine.execDescriptorFetch q data next s
  | .cqHeadWrite fn q value => Sys2Proof.Machine.execCqHeadWrite fn q value s
  | .evmaskWrite fn k value => Sys2Proof.Machine.execEvmaskWrite fn k value s
  | .watchdogExpired p => Sys2Proof.Machine.execWatchdogExpired p s
  | .getVersion e => Sys2Proof.Machine.execGetVersion e s
  | .getCapabilities e => Sys2Proof.Machine.execGetCapabilities e s
  | .negotiateAlgorithms e => Sys2Proof.Machine.execNegotiateAlgorithms e s
  | .getDigests e => Sys2Proof.Machine.execGetDigests e s
  | .getCertificate e slot => Sys2Proof.Machine.execGetCertificate e slot s
  | .challenge e slot => Sys2Proof.Machine.execChallenge e slot s
  | .getMeasurements e index => Sys2Proof.Machine.execGetMeasurements e index s
  | .keyExchange e => Sys2Proof.Machine.execKeyExchange e s
  | .finish e id ok => Sys2Proof.Machine.execFinish e id ok s
  | .heartbeat e id => Sys2Proof.Machine.execHeartbeat e id s
  | .keyUpdate e id => Sys2Proof.Machine.execKeyUpdate e id s
  | .endSession e id => Sys2Proof.Machine.execEndSession e id s
  | .keyProg port session stream kset vf key => Sys2Proof.Machine.execKeyProg port session stream kset vf key s
  | .kSetGo port session stream kset => Sys2Proof.Machine.execKSetGo port session stream kset s
  | .kSetStop port session stream kset => Sys2Proof.Machine.execKSetStop port session stream kset s
  | .query port session => Sys2Proof.Machine.execQuery port session s
  | .tenantSetup port vf session payload => Sys2Proof.Machine.execTenantSetup port vf session payload s
  | .bindContext port vf session payload => Sys2Proof.Machine.execBindContext port vf session payload s
  | .getUsageHead port vf session payload => Sys2Proof.Machine.execGetUsageHead port vf session payload s
  | .partitionErase fn session p => Sys2Proof.Machine.execPartitionErase fn session p s
  | .timeSet n block sigOk devOk => Sys2Proof.Machine.execTimeSet n block sigOk devOk s
  | .tamperEvent sensors => Sys2Proof.Machine.execTamperEvent sensors s
  | .usageBoundary => Sys2Proof.Machine.execUsageBoundary s
  | .usageRingWrite n => Sys2Proof.Machine.execUsageRingWrite n s
  | .inputSample vin iin pd => Sys2Proof.Machine.execInputSample vin iin pd s
  | .sagEvent => Sys2Proof.Machine.execSagEvent s
  | .sagEventEnd => Sys2Proof.Machine.execSagEventEnd s
  | .powerFailSequence => Sys2Proof.Machine.execPowerFailSequence s
  | .frameEdge ival => Sys2Proof.Machine.execFrameEdge ival s
  | .frameTimeout => Sys2Proof.Machine.execFrameTimeout s
  | .internalFrameEdge => Sys2Proof.Machine.execInternalFrameEdge s
  | .homeSlotStart => Sys2Proof.Machine.execHomeSlotStart s
  | .almanacTick ix => Sys2Proof.Machine.execAlmanacTick ix s
  | .commandDue k id => Sys2Proof.Machine.execCommandDue k id s
  | .belvedereEvent line => Sys2Proof.Machine.execBelvedereEvent line s
  | .heartbeatLost missing => Sys2Proof.Machine.execHeartbeatLost missing s
  | .aliveToggle => Sys2Proof.Machine.execAliveToggle s
  | .chkStart fn u alive fed => Sys2Proof.Machine.execChkStart fn u alive fed s
  | .chkEnd fn u fed => Sys2Proof.Machine.execChkEnd fn u fed s
  | .chkReset fn u => Sys2Proof.Machine.execChkReset fn u s
  | .chkD8 fn u value fed => Sys2Proof.Machine.execChkD8 fn u value fed s
  | .chkD16 fn u value fed => Sys2Proof.Machine.execChkD16 fn u value fed s
  | .chkD32 fn u value fed => Sys2Proof.Machine.execChkD32 fn u value fed s
  | .chkAssign fn u value => Sys2Proof.Machine.execChkAssign fn u value s
  | .inputQualifies b => Sys2Proof.Machine.execInputQualifies b s
  | .resetNRelease b => Sys2Proof.Machine.execResetNRelease b s
  | .warmRestart b => Sys2Proof.Machine.execWarmRestart b s
  | .sectorErase fn => Sys2Proof.Machine.execSectorErase fn s
  | .pageProgram fn => Sys2Proof.Machine.execPageProgram fn s
  | .cfgFlData fn value => Sys2Proof.Machine.execCfgFlData fn value s
  | .flashOperationComplete ok => Sys2Proof.Machine.execFlashOperationComplete ok s
  | .perstNAssert n => Sys2Proof.Machine.execPerstNAssert n s
  | .perstNRelease n => Sys2Proof.Machine.execPerstNRelease n s
  | .cableSeated c => Sys2Proof.Machine.execCableSeated c s
  | .cableRemoved c jobs => Sys2Proof.Machine.execCableRemoved c jobs s
  | .extest cells => Sys2Proof.Machine.execExtest cells s
  | .samplePreload cells => Sys2Proof.Machine.execSamplePreload cells s
  | .idcode => Sys2Proof.Machine.execIdcode s
  | .bypass => Sys2Proof.Machine.execBypass s
  | .sqNop core task => Sys2Proof.Machine.execSqNop core task s
  | .sqLi core task => Sys2Proof.Machine.execSqLi core task s
  | .sqAlu core task => Sys2Proof.Machine.execSqAlu core task s
  | .sqLoop core task => Sys2Proof.Machine.execSqLoop core task s
  | .sqBr core task => Sys2Proof.Machine.execSqBr core task s
  | .sqLdw core task => Sys2Proof.Machine.execSqLdw core task s
  | .sqStw core task => Sys2Proof.Machine.execSqStw core task s
  | .sqEnd core task => Sys2Proof.Machine.execSqEnd core task s
  | .cfReg core task => Sys2Proof.Machine.execCfReg core task s
  | .cfWin core task => Sys2Proof.Machine.execCfWin core task s
  | .cfTask core task => Sys2Proof.Machine.execCfTask core task s
  | .cfRng core task => Sys2Proof.Machine.execCfRng core task s
  | .resetNAssert => Sys2Proof.Machine.execResetNAssert s
  | .backupCellExhausted => Sys2Proof.Machine.execBackupCellExhausted s
  | .vfConfigChange port vf => Sys2Proof.Machine.execVfConfigChange port vf s
  | .testLogicReset => Sys2Proof.Machine.execTestLogicReset s

end Sys2Proof.Machine
end

