-- ==== Sys2Proof/WellFormed.lean ====
section
/-! DEFINITION. Sys2Proof/WellFormed.lean: which operands name something that the spec's numbering admits: a check per kind of
operand. A command outside these ranges names no part of the module:
nothing outside the block can send it. -/
namespace Sys2Proof

open Sys2Proof.Machine

/-- A physical core (R2). -/
def coreOk (n : Nat) : Bool := decide (n < 256)
/-- A task of a core (R95). -/
def taskOk (t : Nat) : Bool := decide (t < 4)
/-- A dispatch names a task. -/
def evOk : EngEv → Bool
  | .dispatch t => taskOk t
  | .issue => true
/-- A stream slot (R172). -/
def slotOk (i : Nat) : Bool := decide (i < 8)
/-- A host port (R348). -/
def hostOk (n : Nat) : Bool := decide (n < 4)
/-- A VF of a host port (R348). -/
def vfOk (v : Nat) : Bool := decide (1 ≤ v) && decide (v ≤ 64)
/-- A function of a host port. -/
def fnOk : Fn → Bool
  | .mgmt n => hostOk n
  | .vf n v => hostOk n && vfOk v
/-- An SPDM endpoint (R377). -/
def endpointOk : Endpoint → Bool
  | .fn f => fnOk f
  | .smbus a => decide (a < 128)
/-- A partition slot (R352). -/
def partOk (p : Nat) : Bool := decide (p < 16)
/-- A context, as 64 × slot + context (R355). -/
def ctxOk (k : Nat) : Bool := decide (k < 1024)
/-- A queue (R357, R362). -/
def queueOk : QRef → Bool
  | .ctx p c => partOk p && decide (c < 64)
  | .mgmt n => hostOk n
/-- What Daybreak finds names steps 1 to 7 (R443). -/
def bootOk (b : BootIn) : Bool := decide (1 ≤ b.upTo) && decide (b.upTo ≤ 7)
/-- A Trellis port (R291). -/
def trellisOk (n : Nat) : Bool := decide (n < 16)
/-- A position of the Trellis, or a job tag (R293, R302). -/
def posOk (n : Nat) : Bool := decide (n < 1024)
/-- A packet's header fields fit (R301). -/
def packetOk (k : Packet) : Bool :=
  posOk k.dest && posOk k.src && posOk k.job && decide (k.epoch < 2 ^ 32) && decide (k.body.length ≤ 131072)
/-- A stack controller and its update engine (R216). -/
def engineOk (k : Nat) : Bool := decide (k < 12)
/-- A compute die. -/
def dieOk (d : Nat) : Bool := decide (d < 4)
/-- A lantern entry (R214). -/
def lanternOk (n : Nat) : Bool := decide (n < 16384)
/-- A check unit (R432). -/
def unitOk (u : Nat) : Bool := decide (u < 32)
/-- A 32-bit value (R16). -/
def wordOk (v : Nat) : Bool := decide (v < 2 ^ 32)
/-- An access to the control window: its offset, and its width in bytes (R461). -/
def accessOk (a : Access) : Bool := decide (a.off < 0x2000000) && [1, 2, 4, 8].contains a.width
/-- The 37 boundary cells (R457). -/
def scanOk (c : Scan) : Bool := decide (c.cells < 2 ^ 37) && decide (c.levels < 2 ^ 37)
/-- A line of the Belvedere (R418). -/
def lineOk (l : Nat) : Bool := decide (l < 64)

/-- Every operand of the command names something. -/
def wellFormed : Instr → Bool
  | .registerWrite fn a value => fnOk fn && accessOk a && decide (value < 256 ^ a.width)
  | .counterLowHalfRead fn a => fnOk fn && accessOk a
  | .historyWord0Read fn entry => fnOk fn && decide (entry < 16)
  | .load k _ => ctxOk k
  | .unload k => ctxOk k
  | .run p => partOk p
  | .commandEndOnCore core => coreOk core
  | .mxMm core ev => coreOk core && evOk ev
  | .mxCv core ev => coreOk core && evOk ev
  | .mxDr core ev => coreOk core && evOk ev
  | .mxFmt core ev => coreOk core && evOk ev
  | .tileLoad core => coreOk core
  | .vxB core ev => coreOk core && evOk ev
  | .vxT core ev => coreOk core && evOk ev
  | .vxUCvt core ev => coreOk core && evOk ev
  | .vxUCopy core ev => coreOk core && evOk ev
  | .vxUNeg core ev => coreOk core && evOk ev
  | .vxUAbs core ev => coreOk core && evOk ev
  | .vxUTrn core ev => coreOk core && evOk ev
  | .vxURsum core ev => coreOk core && evOk ev
  | .vxURmax core ev => coreOk core && evOk ev
  | .vxURsumsq core ev => coreOk core && evOk ev
  | .fxFwd core ev => coreOk core && evOk ev
  | .fxBwi core ev => coreOk core && evOk ev
  | .fxBwo core ev => coreOk core && evOk ev
  | .stIn core ev slot => coreOk core && evOk ev && slotOk slot
  | .stOut core ev slot => coreOk core && evOk ev && slotOk slot
  | .stWch core ev slot => coreOk core && evOk ev && slotOk slot
  | .stTil core ev => coreOk core && evOk ev
  | .chunkBegin core slot => coreOk core && slotOk slot
  | .streamDataReturn core slot _ _ => coreOk core && slotOk slot
  | .chunkVisible core slot => coreOk core && slotOk slot
  | .translationWalkComplete core slot => coreOk core && slotOk slot
  | .go fn core slot => fnOk fn && coreOk core && slotOk slot
  | .deny fn core slot => fnOk fn && coreOk core && slotOk slot
  | .haltedTimeLimit p => partOk p
  | .prefetchRead core slot _ => coreOk core && slotOk slot
  | .weightChainFlit core slot => coreOk core && slotOk slot
  | .weightChainSourceRead core slot => coreOk core && slotOk slot
  | .lnArm core ev => coreOk core && evOk ev
  | .lnSig core ev => coreOk core && evOk ev
  | .lnWait core task => coreOk core && taskOk task
  | .lnWtc core task => coreOk core && taskOk task
  | .lanternNotification core => coreOk core
  | .lanternDeltaSend n => lanternOk n
  | .lanternDelta port k => trellisOk port && packetOk k
  | .lanternArm port k => trellisOk port && packetOk k
  | .lanternCount port k => trellisOk port && packetOk k
  | .lanternReject port k => trellisOk port && packetOk k
  | .lntHsig fn n v => fnOk fn && lanternOk n && wordOk v
  | .map fn _ => fnOk fn
  | .unmap fn _ => fnOk fn
  | .unmapComplete p => partOk p
  | .patrolScrub k => engineOk k
  | .gatherSorterEntry core slot => coreOk core && slotOk slot
  | .gatherSorterIssue k => engineOk k
  | .gatherPromotion k _ => engineOk k
  | .update k _ => ctxOk k
  | .updateResume k _ => ctxOk k
  | .landingBlock p d _ count _ => partOk p && dieOk d && decide (count < 65536)
  | .sweepStart p => partOk p
  | .sweepRecord p k => partOk p && engineOk k
  | .landTimeout p => partOk p
  | .rngCheck k _ => ctxOk k
  | .stage k => ctxOk k
  | .passCommandIssue p => partOk p
  | .portTrain n lanes peer => trellisOk n && decide (lanes < 256) && posOk peer
  | .portDown n cause _ => trellisOk n && decide (cause < 3)
  | .retrain fn n lanes peer _ => fnOk fn && trellisOk n && decide (lanes < 256) && posOk peer
  | .disable fn n _ _ => fnOk fn && trellisOk n
  | .wireUnit n _ => trellisOk n
  | .packetForward n k => trellisOk n && packetOk k
  | .packetStallTimeout n job => trellisOk n && posOk job
  | .dataPacket n k => trellisOk n && packetOk k
  | .reducePacket n k => trellisOk n && packetOk k
  | .localContribution core slot => coreOk core && slotOk slot
  | .ackPacket n k => trellisOk n && packetOk k
  | .scalarPacket n k => trellisOk n && packetOk k
  | .creditPacket n k => trellisOk n && packetOk k
  | .jobAdmit k _ => ctxOk k
  | .install k _ _ => ctxOk k
  | .switch k => ctxOk k
  | .graceEnd k => ctxOk k
  | .protectionDelta n k => trellisOk n && packetOk k
  | .dack n k => trellisOk n && packetOk k
  | .mirror n k => trellisOk n && packetOk k
  | .mack n k => trellisOk n && packetOk k
  | .sag n k => trellisOk n && packetOk k
  | .rbReq n k _ => trellisOk n && packetOk k
  | .rbData n k _ => trellisOk n && packetOk k
  | .protectionResend p _ => partOk p
  | .jobHalt k => ctxOk k
  | .jobResume k _ => ctxOk k
  | .rebuildMember k _ committed => ctxOk k && wordOk committed.step
  | .rebuildRecords k _ _ => ctxOk k
  | .rebuildParity k _ => ctxOk k
  | .probe k _ => ctxOk k
  | .jobEvict n _ _ _ => hostOk n
  | .bedWithdraw n _ _ _ => hostOk n
  | .dgSet k _ => ctxOk k
  | .dgJoin k => ctxOk k
  | .dgLeave k => ctxOk k
  | .dgStep k => ctxOk k
  | .decodeRowArrival _ _ core _ => coreOk core
  | .deadlineExpiry _ => true
  | .gatheredTileDelivery _ => true
  | .functionLevelReset port vf => hostOk port && vfOk vf
  | .tdispRequest port vf _ _ => hostOk port && vfOk vf
  | .layoutSwitch n _ _ _ => hostOk n
  | .ctxOpen fn k => fnOk fn && ctxOk k
  | .resume fn k => fnOk fn && ctxOk k
  | .flush fn k => fnOk fn && ctxOk k
  | .teardown fn k => fnOk fn && ctxOk k
  | .close fn k => fnOk fn && ctxOk k
  | .teardownEnd k => ctxOk k
  | .sqDoorbell fn q value => fnOk fn && queueOk q && wordOk value
  | .descriptorFetch q _ _ => queueOk q
  | .cqHeadWrite fn q value => fnOk fn && queueOk q && wordOk value
  | .evmaskWrite fn k value => fnOk fn && ctxOk k && wordOk value
  | .watchdogExpired p => partOk p
  | .getVersion e => endpointOk e
  | .getCapabilities e => endpointOk e
  | .negotiateAlgorithms e => endpointOk e
  | .getDigests e => endpointOk e
  | .getCertificate e _ => endpointOk e
  | .challenge e _ => endpointOk e
  | .getMeasurements e _ => endpointOk e
  | .keyExchange e => endpointOk e
  | .finish e _ _ => endpointOk e
  | .heartbeat e _ => endpointOk e
  | .keyUpdate e _ => endpointOk e
  | .endSession e _ => endpointOk e
  | .keyProg port _ _ _ vf _ => hostOk port && decide (vf ≤ 64)
  | .kSetGo port _ _ _ => hostOk port
  | .kSetStop port _ _ _ => hostOk port
  | .query port _ => hostOk port
  | .tenantSetup port vf _ _ => hostOk port && vfOk vf
  | .bindContext port vf _ _ => hostOk port && vfOk vf
  | .getUsageHead port vf _ _ => hostOk port && vfOk vf
  | .partitionErase fn _ p => fnOk fn && partOk p
  | .timeSet n _ _ _ => hostOk n
  | .tamperEvent sensors => decide (sensors < 32)
  | .usageBoundary => true
  | .usageRingWrite n => hostOk n
  | .inputSample _ _ _ => true
  | .sagEvent => true
  | .sagEventEnd => true
  | .powerFailSequence => true
  | .frameEdge _ => true
  | .frameTimeout => true
  | .internalFrameEdge => true
  | .homeSlotStart => true
  | .almanacTick _ => true
  | .commandDue k _ => ctxOk k
  | .belvedereEvent line => lineOk line
  | .heartbeatLost missing => decide (missing < 8)
  | .aliveToggle => true
  | .chkStart fn u alive _ => fnOk fn && unitOk u && decide (alive < 256)
  | .chkEnd fn u _ => fnOk fn && unitOk u
  | .chkReset fn u => fnOk fn && unitOk u
  | .chkD8 fn u value _ => fnOk fn && unitOk u && wordOk value
  | .chkD16 fn u value _ => fnOk fn && unitOk u && wordOk value
  | .chkD32 fn u value _ => fnOk fn && unitOk u && wordOk value
  | .chkAssign fn u value => fnOk fn && unitOk u && wordOk value
  | .inputQualifies b => bootOk b
  | .resetNRelease b => bootOk b
  | .warmRestart b => bootOk b
  | .sectorErase fn => fnOk fn
  | .pageProgram fn => fnOk fn
  | .cfgFlData fn value => fnOk fn && wordOk value
  | .flashOperationComplete _ => true
  | .perstNAssert n => hostOk n
  | .perstNRelease n => hostOk n
  | .cableSeated c => decide (c < 4)
  | .cableRemoved c _ => decide (c < 4)
  | .extest cells => scanOk cells
  | .samplePreload cells => scanOk cells
  | .idcode => true
  | .bypass => true
  | .sqNop core task => coreOk core && taskOk task
  | .sqLi core task => coreOk core && taskOk task
  | .sqAlu core task => coreOk core && taskOk task
  | .sqLoop core task => coreOk core && taskOk task
  | .sqBr core task => coreOk core && taskOk task
  | .sqLdw core task => coreOk core && taskOk task
  | .sqStw core task => coreOk core && taskOk task
  | .sqEnd core task => coreOk core && taskOk task
  | .cfReg core task => coreOk core && taskOk task
  | .cfWin core task => coreOk core && taskOk task
  | .cfTask core task => coreOk core && taskOk task
  | .cfRng core task => coreOk core && taskOk task
  | .resetNAssert => true
  | .backupCellExhausted => true
  | .vfConfigChange port vf => hostOk port && vfOk vf
  | .testLogicReset => true

end Sys2Proof
end

