-- ==== Sys2Proof/Safety.lean ====
section
/-! DEFINITION. Sys2Proof/Safety.lean: the conditions under which the commands of the cores have their own effect, in the terms that
the statements use. Each is a Bool, so that a witness is a computation. -/
namespace Sys2Proof.Machine

/-! ### Cores -/

/-- The instruction word at the program counter of task `t` of core `n`. -/
def wordAt (s : State) (n t : Nat) : Nat := fetchWord (s.core n) t ((s.core n).task t).pc

/-- Task `t` of core `n` runs a command, is not held at a lantern, and its next instruction is of operation `op` (R95, R101). -/
def nextIs (s : State) (n t : Nat) (op : Op) : Bool :=
  (s.core n).cmd.isSome && taskGoes (s.core n) t && opOf (wordAt s n t) == some op

/-- That instruction dispatches now: it lies in its window with good parity, no rule holds it, and no task before it in the rotating
order can dispatch (R97, R119, R152, R160). -/
def dispatchable (s : State) (n t : Nat) (op : Op) : Bool :=
  let c := s.core n
  nextIs s n t op && fetchIn c t && canDispatch c t (wordAt s n t) op && turnOf c t && !fetchBad c t (c.task t).pc

/-- The state after task `t` of core `n` has run a sequencer instruction that leaves its task as `k` before the program counter
advances. -/
def ranTask (s : State) (n t : Nat) (k : Task) : State :=
  s.setCore n { (s.core n).setTask t (gotoPc k (k.pc + 1)) with lastTask := t }

/-- The state after task `t` of core `n` has gone past a wait and is held on it. -/
def heldTask (s : State) (n t : Nat) (h : Hold) : State :=
  let k := (s.core n).task t
  s.setCore n { (s.core n).setTask t { gotoPc k (k.pc + 1) with hold := h } with lastTask := t }

/-- The head of the engine queue of `op` on core `n` is an instruction of that operation. -/
def atHead (s : State) (n : Nat) (op : Op) : Bool :=
  let c := s.core n
  c.cmd.isSome && (match queueOf c (engOf op) with
    | q :: _ => opOf q.word == some op
    | [] => false)

/-- The head of an engine's queue. -/
def headOf (s : State) (n : Nat) (op : Op) : QInstr :=
  (queueOf (s.core n) (engOf op)).headD { seq := 0, task := 0, word := 0, fmt := 0, s1 := 0, s2 := 0, base := 0, rng := {} }

/-- The command that core `n` runs. -/
def cmdOf (s : State) (n : Nat) : CoreCmd :=
  (s.core n).cmd.getD { key := 0, cmd := 0, lcore := 0, lbed := 0, params := [], flush := false }

/-- The head of the engine queue of `op` issues: its regions are defined, its operands present with good parity, and its results
reservable (R74, R121, R152, R160). -/
def canIssue (s : State) (n : Nat) (op : Op) : Bool :=
  let c := s.core n
  let q := headOf s n op
  atHead s n op && (badRegion c op q).isNone && operandsReady c op q && resultsFree c op q && (operandBad c op q).isNone

/-- A core after an instruction that computes in one step: the flags, the results in their regions, the reads released. -/
def computed (c : Core) (op : Op) (q : QInstr) (r : List (Nat × Nat × Bytes) × FlagSet) : Core :=
  let c1 := popQueue { c with flags := orFlags c.flags r.2 } (engOf op)
  let c2 := r.1.foldl (fun c o => putResult c q o.1 o.2.1 o.2.2) c1
  (finishReads c2 op q).busyCycle (engNo (engOf op))

/-- The shadow registers hold the tile of the head array instruction, whose slots are valid (R74). -/
def shadowReady (s : State) (n : Nat) (op : Op) : Bool :=
  match (s.core n).shadow with
  | some sh => sh.seq == (headOf s n op).seq && tileValid (s.core n) (headOf s n op).word (headOf s n op).fmt
  | none => false

end Sys2Proof.Machine
end

