-- ==== Sys2Proof/Certificates/Slice0/Obligations.lean ====
section
/-! DEFINITION. Sys2Proof/Certificates/Slice0/Obligations.lean: the statements about the block. A statement about what a command does
has as its conclusion the next state that `exec` answers, under conditions on the state and the operands; written as an equation, it
is the command's frame as well: whatever its right-hand side does not name is unchanged. -/
section
open Sys2Proof Sys2Proof.Machine

/-! ### The queue (the block's own step) -/

/-- O1. A step takes the command at the front of the queue and runs it with the queue's rest. -/
def Obligations.StepRunsFront : Prop :=
  ∀ (c : Instr) (l : List Instr) (s : State), step { s with pending := c :: l } = exec c { s with pending := l }

/-- O2. With an empty queue the block idles (the model's choice, log 1). -/
def Obligations.EmptyQueueIdles : Prop := ∀ s : State, s.pending = [] → step s = .next s

/-- O3. Every command answers a next state: none ends in a fault or a refusal (DEDUCED, log 51), and a row whose event cannot occur in a
state leaves the state as it is (DESIGN CHOICE, log 5); what the spec discards or turns away is a next state as well (R10, R18, R371,
R438). -/
def Obligations.EveryCommandAnswers : Prop := ∀ (c : Instr) (s : State), ∃ t, exec c s = .next t

/-- O4. No command touches the queue of waiting commands: what `step` leaves waiting is the queue's rest. -/
def Obligations.CommandsKeepTheQueue : Prop := ∀ (c : Instr) (s t : State), exec c s = .next t → t.pending = s.pending

/-- O5. The capability block is read-only (R9): from every state, a step leaves the variant and the silicon revision, so that of the
capability words every one reads as before, but for BED_USABLE in the upper half of CFG_BEDS. -/
def Obligations.IdentityIsFixed : Prop :=
  ∀ s t : State, step s = .next t →
    t.cfg.variant = s.cfg.variant ∧ t.cfg.rev = s.cfg.rev ∧ (capWords t).take 4 = (capWords s).take 4 ∧
      (capWords t).getD 4 0 % 65536 = (capWords s).getD 4 0 % 65536

/-! ### The sequencer -/

/-- O6. SQ.NOP, SQ.LI, SQ.ALU and CF.RNG: what each does to its task; nothing outside the core's task and its dispatch pointer
changes (R116, R119). -/
def Obligations.ScalarInstructions : Prop :=
  ∀ (s : State) (n t : Nat),
    let k := (s.core n).task t
    let w := wordAt s n t
    (dispatchable s n t .sqNop = true → exec (.sqNop n t) s = .next (ranTask s n t k)) ∧
    (dispatchable s n t .sqLi = true → exec (.sqLi n t) s = .next (ranTask s n t (setScalar k (sqR1 w) (imm32 w)))) ∧
    (dispatchable s n t .sqAlu = true →
      exec (.sqAlu n t) s = .next (ranTask s n t (setScalar k (sqR1 w)
        (aluOp (sqFunct w) (BitVec.ofNat 32 (scalar k (sqR2 w))) (BitVec.ofNat 32 (aluB k w))).toNat))) ∧
    (dispatchable s n t .cfRng = true →
      exec (.cfRng n t) s = .next (ranTask s n t { k with
        rng := { step := scalar k (rngStepS w), mb := scalar k (rngMbS w), layer := rngLayer w }, cursor := 0 }))

/-- O7. SQ.ALU's operations on 32-bit words, in arithmetic (R116): wrapping sum, difference and product, shifts by the low five
bits, unsigned and signed comparisons. -/
def Obligations.AluValues : Prop :=
  ∀ a b : Nat, a < 2 ^ 32 → b < 2 ^ 32 →
    let f (i : Nat) : Nat := (aluOp i (BitVec.ofNat 32 a) (BitVec.ofNat 32 b)).toNat
    f 0 = (a + b) % 2 ^ 32 ∧ f 1 = (a + 2 ^ 32 - b) % 2 ^ 32 ∧ f 2 = a * b % 2 ^ 32 ∧
    f 3 = a &&& b ∧ f 4 = a ||| b ∧ f 5 = a ^^^ b ∧
    f 6 = a * 2 ^ (b % 32) % 2 ^ 32 ∧ f 7 = a / 2 ^ (b % 32) ∧ f 8 = field 32 (sext 32 a / 2 ^ (b % 32)) ∧
    f 9 = min a b ∧ f 10 = max a b ∧
    f 11 = (if sext 32 a < sext 32 b then 1 else 0) ∧ f 12 = (if a < b then 1 else 0)

/-- O8. Register s0 reads zero and discards what is written to it; every other register holds the low 32 bits written, and a write
leaves every other register (R102). -/
def Obligations.ScalarRegisters : Prop :=
  ∀ (k : Task) (r x v : Nat),
    scalar k 0 = 0 ∧ setScalar k 0 v = k ∧ (r ≠ 0 → scalar (setScalar k r v) r = v % 2 ^ 32) ∧
    (x ≠ r → scalar (setScalar k r v) x = scalar k x)

/-- O9. SQ.LOOP and SQ.BR: a loop opens with its index register at 0, a count of 0 skips the body; a branch that holds goes to its
signed offset from itself, one that does not falls through (R116, R117). -/
def Obligations.FlowInstructions : Prop :=
  ∀ (s : State) (n t : Nat),
    let c := s.core n
    let k := c.task t
    let w := wordAt s n t
    let a := BitVec.ofNat 32 (scalar k (sqR1 w))
    let b := BitVec.ofNat 32 (scalar k (sqR2 w))
    (dispatchable s n t .sqLoop = true → loopN k w ≠ 0 →
      exec (.sqLoop n t) s = .next (s.setCore n { c.setTask t { setScalar k (sqR2 w) 0 with
        loops := { first := k.pc + 1, last := k.pc + loopBody w, count := loopN k w, iter := 0, idx := sqR2 w } :: k.loops
        pc := (k.pc + 1) % 65536, hold := .none, idleNs := 0 } with lastTask := t })) ∧
    (dispatchable s n t .sqLoop = true → loopN k w = 0 →
      exec (.sqLoop n t) s = .next (s.setCore n { c.setTask t (gotoPc k (k.pc + 1 + loopBody w)) with lastTask := t })) ∧
    (dispatchable s n t .sqBr = true → brTaken (sqFunct w) a b = true →
      exec (.sqBr n t) s = .next (s.setCore n
        { c.setTask t (gotoPc k ((k.pc : Int) + sext 32 (imm32 w)).toNat) with lastTask := t })) ∧
    (dispatchable s n t .sqBr = true → brTaken (sqFunct w) a b = false → exec (.sqBr n t) s = .next (ranTask s n t k))

/-- O10. A loop body of `count` iterations runs `count` times: at the end of its body a loop with iterations left returns to its
first instruction with its index register one higher, and the last iteration leaves the loop (R117). -/
def Obligations.LoopIterates : Prop :=
  ∀ (l : Loop) (ls : List Loop) (r : Tbl Nat),
    (l.iter + 1 < l.count →
      stepLoops (l :: ls) (l.last + 1) r =
        ({ l with iter := l.iter + 1 } :: ls, l.first, if l.idx = 0 then r else Tbl.set r l.idx (l.iter + 1))) ∧
    (l.count ≤ l.iter + 1 → stepLoops (l :: ls) (l.last + 1) r = stepLoops ls (l.last + 1) r) ∧
    (∀ pc, pc ≠ l.last + 1 → stepLoops (l :: ls) pc r = (l :: ls, pc, r))

/-- O11. SQ.LDW and SQ.STW on a scalar region within its window: a load writes DST with the word, a store writes exactly the four bytes
at its address and gives its quarter good parity; an access outside its region or window, and a load of a word with bad parity, stop the
command; SQ.END ends its task (R95, R116, R152, R160). -/
def Obligations.ScalarMemory : Prop :=
  ∀ (s : State) (n t : Nat),
    let c := s.core n
    let k := c.task t
    let w := wordAt s n t
    let a := scalarAddr c t (sqReg w) (imm32 w)
    (dispatchable s n t .sqLdw = true → scalarOk c t (sqReg w) (imm32 w) = true → c.badPar.any (fun q => q / 4 == a / 16) = false →
      exec (.sqLdw n t) s = .next (ranTask s n t (setScalar k (sqR1 w) (leNat (Mem.rdN c.scratch a 4))))) ∧
    (dispatchable s n t .sqLdw = true → scalarOk c t (sqReg w) (imm32 w) = true → c.badPar.any (fun q => q / 4 == a / 16) = true →
      exec (.sqLdw n t) s = .next (parityAbort s n (cmdOf s n) 2 (a / 16) (a / 16))) ∧
    (scalarOk c t (sqReg w) (imm32 w) = false →
      (dispatchable s n t .sqLdw = true → exec (.sqLdw n t) s = .next (regionFault s n (cmdOf s n) 5 6 t (sqReg w) (a / 16))) ∧
      (dispatchable s n t .sqStw = true → exec (.sqStw n t) s = .next (regionFault s n (cmdOf s n) 5 6 t (sqReg w) (a / 16)))) ∧
    (dispatchable s n t .sqStw = true → scalarOk c t (sqReg w) (imm32 w) = true →
      ∃ u, exec (.sqStw n t) s = .next u ∧
        u = s.setCore n { c.setTask t (gotoPc k (k.pc + 1)) with
              scratch := (u.core n).scratch, badPar := c.badPar.filter (· != a / 4), lastTask := t } ∧
        leNat (Mem.rdN (u.core n).scratch a 4) = scalar k (sqR1 w) % 2 ^ 32 ∧
        (∀ b, (b < a ∨ a + 4 ≤ b) → Mem.rd (u.core n).scratch b = Mem.rd c.scratch b)) ∧
    (dispatchable s n t .sqEnd = true →
      exec (.sqEnd n t) s = .next (s.setCore n { c.setTask t { k with ended := true, hold := .none, idleNs := 0 } with
        lastTask := t }))

/-- O12. CF.REG that no rule holds defines its region, empty (R118, R119); a scalar region is filled with zero as well, in cycles that
SCP_SEQHOLD counts (R159; the model's choice, log 16), and one outside its window stops the command (R152). CF.WIN and CF.TASK of task 0,
on a task that does not run, set the window and start the task with its initial registers (R102, R119), its random coordinate and cursor
at zero (the model's choice, log 53). -/
def Obligations.ConfigInstructions : Prop :=
  ∀ (s : State) (n t : Nat),
    let c := s.core n
    let w := wordAt s n t
    let c1 := c.setRegion t (cfG w) (cfRegion w)
    (dispatchable s n t .cfReg = true → (cfProd w ≠ 0 ∨ cfCons w ≠ 0) →
      exec (.cfReg n t) s = .next (s.setCore n { seqNext c1 t (c1.task t) with lastTask := t })) ∧
    (dispatchable s n t .cfReg = true → cfProd w = 0 → cfCons w = 0 → regionInWin c1 t (cfRegion w) = true →
      let a0 := regionAddr c1 t (cfRegion w)
      let len := 16 * regionSize (cfRegion w)
      ∃ u, exec (.cfReg n t) s = .next u ∧
        (let c2 := { c1 with
           scratch := (u.core n).scratch
           badPar := c1.badPar.filter (fun q => decide (4 * q < a0) || decide (a0 + len ≤ 4 * q))
           cnt := { c1.cnt with seqHold := satAdd 32 c1.cnt.seqHold (4 * (cfSizeM1 w + 1)) } }
         u = s.setCore n { seqNext c2 t (c2.task t) with lastTask := t }) ∧
        (u.core n).region t (cfG w) = cfRegion w ∧ (u.core n).task t = gotoPc (c.task t) ((c.task t).pc + 1) ∧
        (∀ a, regionAddr c1 t (cfRegion w) ≤ a → a < regionAddr c1 t (cfRegion w) + 16 * regionSize (cfRegion w) →
          Mem.rd (u.core n).scratch a = 0) ∧
        (∀ a, (a < regionAddr c1 t (cfRegion w) ∨ regionAddr c1 t (cfRegion w) + 16 * regionSize (cfRegion w) ≤ a) →
          Mem.rd (u.core n).scratch a = Mem.rd c.scratch a) ∧
        ∀ k, k ≠ n → u.core k = s.core k) ∧
    (dispatchable s n t .cfReg = true → cfProd w = 0 → cfCons w = 0 → regionInWin c1 t (cfRegion w) = false →
      exec (.cfReg n t) s = .next (regionFault s n (cmdOf s n) 5 6 t (cfG w) (regionAddr c1 t (cfRegion w) / 16))) ∧
    (dispatchable s n 0 .cfWin = true →
      let w := wordAt s n 0
      exec (.cfWin n 0) s = .next (s.setCore n { seqNext c 0 (c.task 0) with
        wins := Tbl.set c.wins (cfW w) { valid := true, base := cfWBase w, sizeM1 := cfWSizeM1 w, code := cfWCode w }
        lastTask := 0 })) ∧
    (dispatchable s n 0 .cfTask = true →
      let w := wordAt s n 0
      exec (.cfTask n 0) s = .next (s.setCore n
        { (seqNext c 0 (c.task 0)).setTask (cfW w) (startTask (cmdOf s n) n (cfPc w)) with lastTask := 0 }))

/-- O13. A CF instruction whose descriptor or task is in use holds its task, counting the cycle, and changes nothing else (R119).
The model's choices in it: log 16. -/
def Obligations.ConfigHolds : Prop :=
  ∀ (s : State) (n t : Nat),
    let c := s.core n
    let held (t : Nat) : State := s.setCore n { c.setTask t { c.task t with hold := .cf } with
      cnt := { c.cnt with seqHold := satAdd 32 c.cnt.seqHold 1 } }
    (nextIs s n t .cfReg = true → fetchIn c t = true → namesRegion c t (cfG (wordAt s n t)) = true →
      exec (.cfReg n t) s = .next (held t)) ∧
    (nextIs s n 0 .cfWin = true → fetchIn c 0 = true → taskRuns (c.task (cfW (wordAt s n 0))) = true → exec (.cfWin n 0) s = .next (held 0)) ∧
    (nextIs s n 0 .cfTask = true → fetchIn c 0 = true → taskRuns (c.task (cfW (wordAt s n 0))) = true → exec (.cfTask n 0) s = .next (held 0))

/-! ### Engine instructions -/

/-- O14. Dispatch: the core after an instruction of an engine that can dispatch is `dispatchEng` of it, and nothing outside the core
changes: the instruction enters the engine's queue with what it captured, and the other queues stay; its task goes on to its next
instruction, with its cursor moved and, for MX.FMT, its format taken, and its regions note who reads and writes them; the other tasks,
the slots, windows, scratchpad, counters and flags stay (R97, R98). The model's choices in it: log 15, 17. -/
def Obligations.EngineDispatch : Prop :=
  ∀ (s : State) (n t slot : Nat) (op : Op) (c : Instr),
    (c, op) ∈ [(Instr.mxMm n (.dispatch t), Op.mxMm), (.mxCv n (.dispatch t), .mxCv), (.mxDr n (.dispatch t), .mxDr),
      (.mxFmt n (.dispatch t), .mxFmt), (.vxB n (.dispatch t), .vxB), (.vxT n (.dispatch t), .vxT),
      (.vxUCvt n (.dispatch t), .vxCvt), (.vxUCopy n (.dispatch t), .vxCopy), (.vxUNeg n (.dispatch t), .vxNeg),
      (.vxUAbs n (.dispatch t), .vxAbs), (.vxUTrn n (.dispatch t), .vxTrn), (.vxURsum n (.dispatch t), .vxRsum),
      (.vxURmax n (.dispatch t), .vxRmax), (.vxURsumsq n (.dispatch t), .vxRsumsq), (.fxFwd n (.dispatch t), .fxFwd),
      (.fxBwi n (.dispatch t), .fxBwi), (.fxBwo n (.dispatch t), .fxBwo), (.stIn n (.dispatch t) slot, .stIn),
      (.stOut n (.dispatch t) slot, .stOut), (.stWch n (.dispatch t) slot, .stWch), (.stTil n (.dispatch t), .stTil),
      (.lnArm n (.dispatch t), .lnArm), (.lnSig n (.dispatch t), .lnSig)] →
    dispatchable s n t op = true →
    let c0 := s.core n
    let w := wordAt s n t
    let k := c0.task t
    let c' := dispatchEng c0 t w op
    exec c s = .next (s.setCore n c') ∧
      queueOf c' (engOf op) = queueOf c0 (engOf op) ++ [captured t k c0.nextSeq w op] ∧
      (∀ e, e ≠ engOf op → queueOf c' e = queueOf c0 e) ∧
      (let next := gotoPc { k with
         fmtAt := if op = .mxFmt then some w else k.fmtAt
         cursor := (k.cursor + stoElems op w (k.fmtAt.getD 0)) % 2 ^ 51 } (k.pc + 1)
       { c'.task t with regions := k.regions } = next) ∧
      (∀ g, { c'.region t g with readers := (c0.region t g).readers, writers := (c0.region t g).writers } = c0.region t g) ∧
      (∀ x, x ≠ t → c'.task x = c0.task x) ∧
      c'.nextSeq = c0.nextSeq + 1 ∧ c'.lastTask = t ∧
      c'.slots = c0.slots ∧ c'.wins = c0.wins ∧ c'.scratch = c0.scratch ∧ c'.cnt = c0.cnt ∧ c'.flags = c0.flags ∧ c'.cmd = c0.cmd

/-- O15. Vector instructions at the head of the VX queue whose operands are present and results reservable: the core takes the
results, the flags and the releases; nothing outside it changes; a move raises no flag (R75, R77, R108 to R110, R121).
The model's choices in it: log 14, 17. -/
def Obligations.VectorIssues : Prop :=
  ∀ (s : State) (n : Nat),
    let c := s.core n
    let m := cmdOf s n
    let q (op : Op) := headOf s n op
    let done (op : Op) (r : List (Nat × Nat × Bytes) × FlagSet) := s.setCore n (computed c op (q op) r)
    (canIssue s n .vxB = true → exec (.vxB n .issue) s = .next (done .vxB (vxbWork m c (q .vxB)))) ∧
    (canIssue s n .vxT = true → exec (.vxT n .issue) s = .next (done .vxT (vxtWork m c (q .vxT)))) ∧
    (canIssue s n .vxCvt = true → exec (.vxUCvt n .issue) s = .next (done .vxCvt (cvtWork (seedOf s m) m c (q .vxCvt)))) ∧
    (canIssue s n .vxCopy = true → exec (.vxUCopy n .issue) s = .next (done .vxCopy (moveWork (q .vxCopy) c id id))) ∧
    (canIssue s n .vxNeg = true →
      exec (.vxUNeg n .issue) s = .next (done .vxNeg (moveWork (q .vxNeg) c id (· ^^^ signBit (uFmtS (q .vxNeg).word))))) ∧
    (canIssue s n .vxAbs = true →
      exec (.vxUAbs n .issue) s = .next (done .vxAbs (moveWork (q .vxAbs) c id (· % signBit (uFmtS (q .vxAbs).word))))) ∧
    (canIssue s n .vxTrn = true →
      exec (.vxUTrn n .issue) s = .next (done .vxTrn (moveWork (q .vxTrn) c (trnSrc (q .vxTrn).word) id))) ∧
    (canIssue s n .vxRsum = true → exec (.vxURsum n .issue) s = .next (done .vxRsum
      (rowWork m c (q .vxRsum) (fun v => (v, noFlags)) (addBits fp32 m.flush false)))) ∧
    (canIssue s n .vxRmax = true → exec (.vxURmax n .issue) s = .next (done .vxRmax
      (rowWork m c (q .vxRmax) (fun v => (v, noFlags)) (minmaxBits fp32 m.flush true false)))) ∧
    (canIssue s n .vxRsumsq = true → exec (.vxURsumsq n .issue) s = .next (done .vxRsumsq
      (rowWork m c (q .vxRsumsq) (fun v => mulBits fp32 m.flush v v) (addBits fp32 m.flush false)))) ∧
    (∀ (i : QInstr) (src f : Nat → Nat), (moveWork i c src f).2 = noFlags)

/-- O16. A chunk of an INT8 × INT8 instruction (R63): the exact sum of its products is added to the accumulator; a sum outside the
range of 32 bits is replaced by the nearer bound, and overflow is set. -/
def Obligations.IntegerChunks : Prop :=
  ∀ (p : PassIn) (t j g acc : Nat), p.fa = 11 →
    let x := ((upto 32).map (fun i => if 32 * g + i < p.red then sext 8 (p.ea t (32 * g + i)) * sext 8 (p.eb (32 * g + i) j) else 0)).foldl
      (· + ·) 0 + sext 32 acc
    passChunk p t j g acc = (field 32 (max (-2147483648) (min 2147483647 x)),
      { overflow := decide (x < -2147483648 ∨ 2147483647 < x) })

/-- O17. Function-unit instructions that can issue with their tables valid and of good parity: results, flags and releases as for the
vector unit; FX.BWI without a derivative table runs in output-formula mode and marks the command (R130, R135 to R137).
The model's choices in it: log 14, 18. -/
def Obligations.FunctionIssues : Prop :=
  ∀ (s : State) (n : Nat) (op : Op) (c : Instr),
    (c, op) ∈ [(Instr.fxFwd n .issue, Op.fxFwd), (.fxBwi n .issue, .fxBwi), (.fxBwo n .issue, .fxBwo)] →
    canIssue s n op = true →
    let f := vFunct (headOf s n op).word
    let mode := fxMode (s.core n).fx op f
    mode ≠ .notIssued → (fxReads f mode).find? (fun k => (s.core n).fx.bad.contains k) = none →
    let c1 := if mode = .formula then { s.core n with formula := true } else s.core n
    exec c s = .next (s.setCore n (computed c1 op (headOf s n op) (fxWork mode (cmdOf s n) c1 (headOf s n op))))

/-- O18. Without the table its mode needs, an FX instruction at the head stops its command with TABLE_UNAVAILABLE and the function's
number as the result (R135). -/
def Obligations.FunctionUnavailable : Prop :=
  ∀ (s : State) (n : Nat) (op : Op) (c : Instr),
    (c, op) ∈ [(Instr.fxFwd n .issue, Op.fxFwd), (.fxBwi n .issue, .fxBwi)] →
    atHead s n op = true →
    let f := vFunct (headOf s n op).word
    fxMode (s.core n).fx op f = .notIssued →
    exec c s = .next (stopRun s (cmdPart (cmdOf s n)) 0x0F (f % 64))

/-- O19. Array passes, drains, MX.FMT and the tile load (R74 to R81, R105, R106). The model's choices in it: log 14, 52. -/
def Obligations.ArrayIssues : Prop :=
  ∀ (s : State) (n : Nat),
    let c := s.core n
    let m := cmdOf s n
    (∀ (op : Op) (i : Instr), (i, op) ∈ [(Instr.mxMm n .issue, Op.mxMm), (.mxCv n .issue, .mxCv)] →
      canIssue s n op = true → shadowReady s n op = true →
      let q := headOf s n op
      ∃ sh, c.shadow = some sh ∧
        let r := runPass (halfOf c (mxHalf q.word)) (mxInit q.word) q.word (passIn c m q op sh)
        let c1 := setHalf { finishReads c op q with flags := orFlags c.flags r.2, shadow := none } (mxHalf q.word) r.1
        exec i s = .next (s.setCore n ((popQueue (drainTo c1 (seedOf s m) m q op) .mx).busyCycle 0))) ∧
    (canIssue s n .mxDr = true →
      exec (.mxDr n .issue) s = .next (s.setCore n
        ((popQueue (drainTo c (seedOf s m) m (headOf s n .mxDr) .mxDr) .mx).busyCycle 0))) ∧
    (atHead s n .mxFmt = true →
      let q := headOf s n .mxFmt
      exec (.mxFmt n .issue) s = .next (s.setCore n
        ((popQueue (c.setTask q.task { c.task q.task with fmt := some q.word }) .mx).busyCycle 0))) ∧
    (∀ q l, c.cmd.isSome = true → c.q.mx = q :: l → (opOf q.word = some .mxMm ∨ opOf q.word = some .mxCv) → c.shadow = none →
      tileValid c q.word q.fmt = true → writePending c q = false →
      (tileSlots q.word q.fmt).find? (fun i => c.wbuf.bad.contains (2 * i + b2n (mxOrder q.word))) = none →
      ∃ sh, exec (.tileLoad n) s = .next (s.setCore n { c with shadow := some sh }) ∧ sh.seq = q.seq ∧
        ∀ i, i < (if wideTile q.fmt then 32768 else 16384) →
          Mem.rd sh.tile i = Mem.rd (if mxOrder q.word then c.wbuf.trans else c.wbuf.stored) (16384 * mxTile q.word + i))

/-- O20. The matrix pass writes an accumulator entry for each token and column it names and leaves every other entry of the half, whatever
mode wrote it (R79, R80). -/
def Obligations.PassEntries : Prop :=
  ∀ (a : AccHalf) (init : Bool) (w : Nat) (p : PassIn),
    let r := (runPass a init w p).1
    r.int = (p.fa == 11) ∧
    (∀ t j, t < mxM w → j < mxN w →
      Tbl.get 0 r.cells (128 * t + j) = (passPoint p t j (if init then 0 else accBits a (p.fa == 11) t j)).1) ∧
    (∀ i, (∀ t j, t < mxM w → j < mxN w → i ≠ 128 * t + j) → Tbl.get 0 r.cells i = Tbl.get 0 a.cells i)

/-- O21. An instruction of the vector unit or the array at the head whose operands are not all present (for a pass, its tile loaded) waits:
one stall cycle of cause operand-wait, and with operands present but no room for the results one of cause region-full; nothing else
changes. One that names a region it may not use, or whose operands hold a word with bad parity, stops its command (R74, R121, R152, R160,
R430). The model's choices in it: log 14. -/
def Obligations.WaitsCount : Prop :=
  ∀ (s : State) (n g w : Nat) (op : Op) (i : Instr),
    let c := s.core n
    let m := cmdOf s n
    let q := headOf s n op
    atHead s n op = true →
    ((i, op) ∈ [(Instr.vxB n .issue, Op.vxB), (.vxT n .issue, .vxT), (.vxUCvt n .issue, .vxCvt), (.vxUCopy n .issue, .vxCopy),
        (.vxUNeg n .issue, .vxNeg), (.vxUAbs n .issue, .vxAbs), (.vxUTrn n .issue, .vxTrn), (.vxURsum n .issue, .vxRsum),
        (.vxURmax n .issue, .vxRmax), (.vxURsumsq n .issue, .vxRsumsq)] →
      (badRegion c op q = some g → exec i s = .next (refusedAccess s n m op q g)) ∧
      (badRegion c op q = none →
        (operandsReady c op q = false → exec i s = .next (s.setCore n (c.stall 1 0))) ∧
        (operandsReady c op q = true → resultsFree c op q = false → exec i s = .next (s.setCore n (c.stall 1 1))) ∧
        (operandsReady c op q = true → resultsFree c op q = true → operandBad c op q = some w →
          exec i s = .next (parityAbort s n m 2 w w)))) ∧
    ((i, op) ∈ [(Instr.mxMm n .issue, Op.mxMm), (.mxCv n .issue, .mxCv)] →
      (badRegion c op q = some g → exec i s = .next (refusedAccess s n m op q g)) ∧
      (badRegion c op q = none →
        (operandsReady c op q = false ∨ shadowReady s n op = false → exec i s = .next (s.setCore n (c.stall 0 0))) ∧
        (operandsReady c op q = true → shadowReady s n op = true →
          (resultsFree c op q = false → exec i s = .next (s.setCore n (c.stall 0 1))) ∧
          (resultsFree c op q = true → operandBad c op q = some w → exec i s = .next (parityAbort s n m 1 w w))))) ∧
    ((i, op) = (Instr.mxDr n .issue, Op.mxDr) →
      (badRegion c op q = some g → exec i s = .next (refusedAccess s n m op q g)) ∧
      (badRegion c op q = none → resultsFree c op q = false → exec i s = .next (s.setCore n (c.stall 0 1))))


/-! ### Streams -/

/-- O22. A stream instruction at the head of the queue takes the free slot it comes with; with all eight active it waits, which counts as
busy, and one that names a region it may not use stops its command. ST.TIL copies its tile into the weight
buffer in both orders, where no earlier array instruction has still to load from the slot (R112, R113, R121, R138, R172).
The model's choices in it: log 20, 52. -/
def Obligations.StreamIssues : Prop :=
  ∀ (s : State) (n i : Nat),
    let c := s.core n
    (∀ (op : Op) (x : Instr), (x, op) ∈ [(Instr.stIn n .issue i, Op.stIn), (.stOut n .issue i, .stOut), (.stWch n .issue i, .stWch)] →
      atHead s n op = true → badRegion c op (headOf s n op) = none → i < 8 → (c.slot i).active = false →
      exec x s = .next (s.setCore n ((popQueue (c.setSlot i (newSlot c (headOf s n op) op)) .st).busyCycle 3))) ∧
    (∀ (op : Op) (x : Instr) (g : Nat), (x, op) ∈ [(Instr.stIn n .issue i, Op.stIn), (.stOut n .issue i, .stOut), (.stWch n .issue i, .stWch),
        (.stTil n .issue, .stTil)] → atHead s n op = true →
      (badRegion c op (headOf s n op) = some g → exec x s = .next (refusedAccess s n (cmdOf s n) op (headOf s n op) g)) ∧
      (badRegion c op (headOf s n op) = none → op ≠ .stTil → (∀ k, k < 8 → (c.slot k).active = true) →
        exec x s = .next (s.setCore n (c.busyCycle 3)))) ∧
    (canIssue s n .stTil = true →
      let q := headOf s n .stTil
      tileWanted c q.seq (tilSlots q.word) = false →
      exec (.stTil n .issue) s = .next (s.setCore n
        ((finishReads (popQueue (putTile c (tilTile q.word) (tilWide q.word)
          (regionBytes c q.task (c.region q.task (stReg q.word))
            (readBase (c.region q.task (stReg q.word)) q.seq + tilOff q.word * 64) (tilBytes q.word))) .st) .stTil q).busyCycle 3)))

/-- O23. A chunk of an ST.OUT begins when occupancy covers it, and one of an ST.IN when its region can reserve it, with at most four
chunks open; a chunk that begins counts as a busy cycle; the receiver of a channel grants credit for the chunk, for the context of the
command; then the slot issues what it can (R173, R174, R318, R389, R427). The model's choices in it: log 16, 20, 26. -/
def Obligations.ChunksBegin : Prop :=
  ∀ (s : State) (n i : Nat),
    let c := s.core n
    let m := cmdOf s n
    let x := c.slot i
    let r := c.region x.task (stReg x.word)
    let y := { x with begun := x.begun + nextChunk x }
    let r1 := reserve r x.seq (wordsOf (nextChunk x))
    c.cmd.isSome = true → x.active = true → x.begun < slotLen x →
    (x.op = .stOut → openOut x < 4 → outCovered x r (nextChunk x) = true →
      exec (.chunkBegin n i) s = .next (pumpSlot (s.setCore n ((c.setSlot i y).busyCycle 3)) n i m)) ∧
    (x.op = .stIn → openIn x < 4 → canReserve r x.seq (wordsOf (nextChunk x)) = true →
      let s1 := s.setCore n (((c.setRegion x.task (stReg x.word)
        (if y.begun = slotLen x then doneWriter r1 x.seq else r1)).setSlot i y).busyCycle 3)
      let e := collOf s1 m.key (slotChan x)
      (slotKind x ≠ 5 → exec (.chunkBegin n i) s = .next (pumpSlot s1 n i m)) ∧
      (slotKind x = 5 → exec (.chunkBegin n i) s = .next (pumpSlot
        (sendFor s1 (cmdPart m) m.key (colRank e (colPeer e)) { ty := 6, chan := slotChan x, aux := nextChunk x }) n i m)))

/-- O24. Data that return for an ST.IN: each run of requested pieces that are contiguous in one granule is delivered in turn, and the
slot issues what it can. A run of host bytes, which are metered, of pool bytes of good parity, or of stack bytes none of which is
poisoned leaves the pieces in flight and enters the region at its place in the sequence; bad parity and poison stop the command (R160, R173,
R227, R233, R389). What returns for a gather, or for a slot that no ST.IN holds any more, is what the sorter returns (R194, R238).
The model's choices in it: log 20, 21. -/
def Obligations.ReturnedData : Prop :=
  ∀ (s u : State) (n i q : Nat) (data : Bytes),
    let c := s.core n
    let m := cmdOf s n
    let x := c.slot i
    let q0 := q / 64 * 64
    ((c.cmd = none ∨ x.active = false ∨ x.op ≠ .stIn ∨ slotKind x = 4) →
      exec (.streamDataReturn n i q data) s = .next (gatherReturn s n i q)) ∧
    (c.cmd.isSome = true → x.active = true → x.op = .stIn → slotKind x ≠ 4 →
      let t := (pieceRuns (requestPieces x q)).foldl (returnRun n i m q0 data) s
      exec (.streamDataReturn n i q data) s = .next (if (t.core n).cmd = some m then pumpSlot t n i m else t)) ∧
    (c.cmd.isSome = true → ∀ (a phys len : Nat) (bs : Bytes), streamIn c x = true →
      let out (o : Nat) : Bool := decide (o < a) || decide (a + len ≤ o)
      let y := { x with fly := x.fly.filter (fun f => out f.1), stale := x.stale.filter out }
      let put (s1 : State) (bs : Bytes) : State := s1.setCore n (deliver16 (c.setSlot i y) i a bs)
      (slotKind x = 2 → returnRun n i m q0 data s (a, phys, len) =
        put (useHost s m.key len) ((upto len).map (fun j => data.getD (a - q0 + j) 0))) ∧
      (slotKind x = 3 → poolBadAt s (n / 64) phys len = false → returnRun n i m q0 data s (a, phys, len) =
        put s (Mem.rdN (s.pool (n / 64)) phys len)) ∧
      (slotKind x = 3 → poolBadAt s (n / 64) phys len = true → returnRun n i m q0 data s (a, phys, len) =
        poolParity s n m (slotAddr x a) phys) ∧
      (slotKind x = 1 → readStackAt s m.key (n / 64) phys len (!x.stale.any (fun o => decide (a ≤ o) && decide (o < a + len))) =
          (true, bs, u) → returnRun n i m q0 data s (a, phys, len) = stackUnc u m 1 (slotAddr x a)) ∧
      (slotKind x = 1 → readStackAt s m.key (n / 64) phys len (!x.stale.any (fun o => decide (a ≤ o) && decide (o < a + len))) =
          (false, bs, u) → u.core n = c →
        returnRun n i m q0 data s (a, phys, len) = put u bs))

/-- O25. The oldest chunk of an ST.IN or ST.OUT not yet visible becomes visible once the region's tail has passed its bytes, they have
been sent, or the receiver of a channel has acknowledged them: an ST.OUT with REL releases its words, CHUNK_LNT is signalled where it is
enabled, and after the last chunk the stream ends. Without a lantern nothing else of the cores changes, and the end of an ST.IN frees its slot,
what the tail has passed having been acknowledged on a channel (R174, R176, R177, R317).
The model's choices in it: log 20, 75. -/
def Obligations.ChunkVisibility : Prop :=
  ∀ (s : State) (n i : Nat),
    let c := s.core n
    let m := cmdOf s n
    let x := c.slot i
    let e := min (x.vis + slotChunk x) (slotLen x)
    let c1 := if x.op = .stOut ∧ stRel x.word = true then
      c.setRegion x.task (stReg x.word) (partRelease (c.region x.task (stReg x.word)) x.seq (wordsOf (e - x.vis))) else c
    let s1 := s.setCore n (c1.setSlot i { x with vis := e })
    let s2 := if dChunkEn x.desc = true then lntSignal s1 m.key m.cmd m.lcore (dChunkLnt x.desc) 1 else s1
    c.cmd.isSome = true → x.active = true → x.op ≠ .stWch → e ≤ x.begun → x.vis < slotLen x → e ≤ movedBytes c x →
    exec (.chunkVisible n i) s = .next (if e = slotLen x ∧ (s2.core n).cmd = some m then endStream s2 n i m else s2) ∧
    (x.op = .stIn → dChunkEn x.desc = false → dDoneEn x.desc = false → e = slotLen x →
      let acked := if slotKind x = 5 then max x.acked (tailedBytes x (c.region x.task (stReg x.word))) else x.acked
      ((endStream s2 n i m).core n).slot i = { x with vis := e, acked := acked, active := false, fly := [], pf := [] } ∧
      (∀ j, j ≠ i → ((endStream s2 n i m).core n).slot j = c.slot j) ∧ (∀ k, k ≠ n → (endStream s2 n i m).core k = s.core k))

/-- O26. Page walks (R179 to R182, R221): a walk that the walker runs and that finds a usable entry fills the translation cache and the
slot goes on; one that finds none, or a read-only page for a write, halts it with its cause; a halt at a page raises the page-fault
event; GO starts the walk of the faulting page again; DENY tears the context down.
The model's choices in it: log 20. -/
def Obligations.PageFaults : Prop :=
  ∀ (s : State) (n i : Nat) (fn : Fn),
    let c := s.core n
    let m := cmdOf s n
    let x := c.slot i
    let p := cmdPart m
    let s1 := endWalk s p n i
    c.cmd.isSome = true → x.active = true →
    (∀ t, x.walking = true → walkRuns s p n i = true → walkPage s p (slotHost x) x.walkVa = some t → (x.op = .stOut → t.w = true) →
      exec (.translationWalkComplete n i) s =
        .next (pumpSlot (s1.setCore n (tcFill (c.setSlot i { x with walking := false, halted := false }) t)) n i m)) ∧
    (x.walking = true → walkRuns s p n i = true → walkPage s p (slotHost x) x.walkVa = none →
      exec (.translationWalkComplete n i) s = .next (haltSlot s1 n i m 1 x.walkVa)) ∧
    (∀ t, x.walking = true → walkRuns s p n i = true → walkPage s p (slotHost x) x.walkVa = some t → x.op = .stOut → t.w = false →
      exec (.translationWalkComplete n i) s = .next (haltSlot s1 n i m 2 x.walkVa)) ∧
    (∀ cause va, cause ≠ 3 → ∃ t y, haltSlot s n i m cause va = ctxEvent t m.key 2 ∧ t = s.setCore n (c.setSlot i y) ∧
      (t.core n).slot i = y ∧ y.halted = true ∧ y.cause = cause ∧ y.va = va ∧ y.walking = false ∧ y.host = slotHost x ∧
      y.dirW = (x.op == .stOut) ∧ { y with
        halted := x.halted, walking := x.walking, cause := x.cause, va := x.va, host := x.host, dirW := x.dirW, front := x.front } = x) ∧
    (seesCore s fn n = true → x.halted = true → i < 8 →
      exec (.go fn n i) s = .next (startWalk (s.setCore n (c.setSlot i { x with halted := false })) p n i x.va) ∧
      exec (.deny fn n i) s = .next (teardown s m.key 0x0B 2 m.lcore (cmdIdOf s m.key m.cmd) true))

/-- O27. A command whose halted time has reached 1 s completes with PAGE_FAULT_UNSERVICED (R182). -/
def Obligations.HaltedLimit : Prop :=
  ∀ (s : State) (p : Nat) (r : Running) (m : Cmd),
    (s.sched p).run = some r → (s.ctx r.key).q.cmds.find? (fun m => m.id == r.cmd) = some m → 1000000000 ≤ m.haltNs →
    exec (.haltedTimeLimit p) s = .next (stopRun s p 0x0E 0)

/-- O28. A prefetch request of an ST.IN takes its pieces run by run into the slot's buffer. A run of host or pool bytes, or of stack bytes
none of which is poisoned, enters the buffer and is counted; poisoned bytes are discarded and counted as waste as well; nothing of the
region changes (R183, R185, R227). -/
def Obligations.Prefetching : Prop :=
  ∀ (s u : State) (n i : Nat) (data : Bytes),
    let c := s.core n
    let m := cmdOf s n
    let x := c.slot i
    let q0 := max x.pfAt x.begun
    c.cmd.isSome = true → x.active = true → x.op = .stIn →
    (x.halted = false → (slotKind x = 1 ∨ slotKind x = 2 ∨ slotKind x = 3) →
      exec (.prefetchRead n i data) s =
        .next ((pieceRuns (prefetchPieces s (cmdPart m) n x q0 4)).foldl (prefetchRun n i m q0 data) s)) ∧
    (∀ (q phys len : Nat) (bs : Bytes),
      let put (s1 : State) (bs : Bytes) : State := s1.setCore n
        (({ c with cnt := { c.cnt with pfRead := satAdd 64 c.cnt.pfRead len } }).setSlot i { x with
          pfAt := q + len
          pf := (upto (len / 16)).foldl (fun t j => Tbl.set t (q + 16 * j) ((bs.drop (16 * j)).take 16)) x.pf })
      (slotKind x = 2 → prefetchRun n i m q0 data s (q, phys, len) =
        put (useHost s m.key len) ((upto len).map (fun j => data.getD (q - q0 + j) 0))) ∧
      (slotKind x = 3 → prefetchRun n i m q0 data s (q, phys, len) = put s (Mem.rdN (s.pool (n / 64)) phys len)) ∧
      (slotKind x = 1 → readStackAt s m.key (n / 64) phys len true = (false, bs, u) → u.core n = c →
        prefetchRun n i m q0 data s (q, phys, len) = put u bs) ∧
      (slotKind x = 1 → readStackAt s m.key (n / 64) phys len true = (true, bs, u) → u.core n = c →
        prefetchRun n i m q0 data s (q, phys, len) = u.setCore n (({ c with cnt := { c.cnt with
          pfRead := satAdd 64 c.cnt.pfRead len, pfWaste := satAdd 64 c.cnt.pfWaste len } }).setSlot i { x with pfAt := q + len })))

/-- O29. The weight chain (R189 to R193, R227): a flit that no keeping core holds leaves the landing buffer and is written at each of them; after
the last flit of a tile the tile's lantern is signalled where it is enabled, and after the last of the delivery its slot is free and
DONE_LNT is signalled. A held cycle while no page keeps the head waiting counts region-full. A source read takes the next bytes of the
delivery into the head's share of the landing buffer, or stops the command where they are poisoned; with the share full it changes
nothing.
The model's choices in it: log 52. -/
def Obligations.WeightChain : Prop :=
  ∀ (s u : State) (n i : Nat),
    let c := s.core n
    let m := cmdOf s n
    let x := c.slot i
    let d := x.desc
    let t := x.run / wchRecBytes d
    let o := x.run % wchRecBytes d
    let ks := keepers s n d t
    let held := chainHeld s n x.seq ks [flitSlot d t o]
    c.cmd.isSome = true → x.active = true → x.op = .stWch →
    (held = false → 512 ≤ x.chain.length →
      let s1 := ks.foldl (fun s k => s.setCore k (flitAt (s.core k) d t o (x.chain.take 512))) s
      let c1 := (s1.core n).busyCycle 4
      let s2 := s1.setCore n (c1.setSlot i { c1.slot i with run := x.run + 512, chain := x.chain.drop 512 })
      let s3 := if o + 512 = wchRecBytes d then tileSignals m d ks s2 else s2
      let s4 := s3.setCore n ((s3.core n).setSlot i { c1.slot i with
        run := x.run + 512, chain := x.chain.drop 512, active := false, vis := x.run + 512 })
      exec (.weightChainFlit n i) s = .next (if x.run + 512 = slotLen { c1.slot i with run := x.run + 512, chain := x.chain.drop 512 } ∧
          (s3.core n).cmd = some m then
        (if dDoneEn d = true then lntSignal s4 m.key m.cmd m.lcore (dDoneLnt d) 1 else s4) else s3)) ∧
    (held = true → x.halted = false → x.walking = false →
      (x.issued < slotLen x → pendingPage s (cmdPart m) (slotAddr x x.issued) = false) →
      exec (.weightChainFlit n i) s = .next (s.setCore n (c.stall 4 1))) ∧
    (let va := slotAddr x x.issued
     let len := reqLen x x.issued (slotLen x)
     x.halted = false → x.walking = false → x.issued < slotLen x →
     (landShare s n < landUsed c + len → exec (.weightChainSourceRead n i) s = .next s) ∧
     (landUsed c + len ≤ landShare s n →
       (∀ a, target s (cmdPart m) n 7 va len false = .walk a →
         exec (.weightChainSourceRead n i) s = .next (startWalk s (cmdPart m) n i a)) ∧
       (∀ phys bs, target s (cmdPart m) n 7 va len false = .ok phys → readStackAt s m.key (n / 64) phys len true = (true, bs, u) →
         exec (.weightChainSourceRead n i) s = .next (stackUnc u m 4 va)) ∧
       (∀ phys bs, target s (cmdPart m) n 7 va len false = .ok phys → readStackAt s m.key (n / 64) phys len true = (false, bs, u) →
         exec (.weightChainSourceRead n i) s =
           .next (u.setCore n ((u.core n).setSlot i { x with issued := x.issued + len, chain := x.chain ++ bs })))))

/-! ### Lanterns -/

/-- O30. The operations at the home of a lantern (R199, R202). A value is reached when the count is at most 2^31 - 1 above it, modulo 2^32.
A signal adds to the count, an arm zeroes it and takes a new target and the next generation; with no consume waiting nothing else of the
entry changes but its state, the waits at it are evaluated, a job's root sends the count to its children, and a target event fires where
the signal or the arm leaves an entry reached by its target (for a signal, an entry that was not Reached). A signal of 0 does nothing, and
one at a mirror joins its unsent delta. The model's choices in it: log 54. -/
def Obligations.LanternOperations : Prop :=
  ∀ (s : State) (n v : Nat),
    let e := s.lnt n
    let settled (e : Lantern) : State := flushCount (noteWaits (s.setLnt n { e with due := e.due || (e.scope == 4 && e.root) }) n) n
    let fired (f : Bool) (t : State) : State := if f then targetEvent t n else t
    (∀ x, reachedBy e x = true ↔ (e.count + 2 ^ 32 - x % 2 ^ 32) % 2 ^ 32 < 2 ^ 31) ∧
    (v % 2 ^ 32 = 0 → signalEntry s n v = s) ∧
    (v % 2 ^ 32 ≠ 0 → atHome e = false → signalEntry s n v = s.setLnt n { e with unsent := (e.unsent + v) % 2 ^ 32 }) ∧
    (v % 2 ^ 32 ≠ 0 → atHome e = true → e.queue = [] → e.held = [] →
      let e1 := { e with count := (e.count + v) % 2 ^ 32 }
      let f := !e.reached && reachedBy e1 e.target
      signalEntry s n v = fired f (settled { e1 with reached := e.reached || f })) ∧
    (e.queue = [] → e.held = [] →
      let e1 := { e with count := 0, target := v % 2 ^ 32, armGen := (e.armGen + 1) % 256 }
      let f := reachedBy e1 (v % 2 ^ 32)
      armAt s n v = fired f (settled { e1 with reached := f })) ∧
    (∀ x : Lantern, x.scope ≠ 4 → x.queue = [] → x.held = [] →
      (settled x).lnt n = x ∧ ∀ j, j ≠ n → (settled x).lnt j = s.lnt j)

/-- O31. LN.ARM and LN.SIG act on their lantern once every earlier instruction of their task has completed; LN.WAIT on a reached lantern
lets the task go on, and otherwise holds it; LN.WTC joins the consumes that wait and goes on where it is granted at once; with none
waiting before it and the lantern reached by V it takes V from the count (R115, R199, R201).
The model's choices in it: log 15, 54, 55. -/
def Obligations.LanternInstructions : Prop :=
  ∀ (s : State) (n t e : Nat),
    let c := s.core n
    let m := cmdOf s n
    let own (w : Nat) : Prop := findLnt s (cmdPart m) (lnLnt w) = some e ∧ (s.lnt e).ctx = keyCtx m.key
    let k := c.task t
    let w := wordAt s n t
    let v := lnValue w (scalar k (lnVreg w))
    (∀ (op : Op) (i : Instr) (f : State → Nat → Nat → State),
      (i, op, f) ∈ [(Instr.lnArm n .issue, Op.lnArm, armOut), (.lnSig n .issue, .lnSig, signalEntry)] →
      let q := headOf s n op
      atHead s n op = true → own q.word → priorDone c q.task q.seq = true →
      exec i s = .next (f (awaitHome (s.setCore n (popQueue c .ln)) n op q e) e (lnValue q.word q.s1))) ∧
    (dispatchable s n t .lnWait = true → own w →
      exec (.lnWait n t) s = .next (if reachedBy (s.lnt e) v then ranTask s n t k
        else refreshMasks (heldTask s n t (.wait (lnLnt w) v false)) (cmdPart m))) ∧
    (dispatchable s n t .lnWtc = true → own w →
      let u := settleHome (heldTask s n t (.consume (lnLnt w) v false)) e
        { s.lnt e with held := (s.lnt e).held ++ [{ core := n, task := t, v := v }] }
      exec (.lnWtc n t) s = .next (match ((u.core n).task t).hold with
        | .consume _ _ true => releaseTask u n t
        | _ => refreshMasks u (cmdPart m))) ∧
    (dispatchable s n t .lnWtc = true → own w → (s.lnt e).scope ≠ 4 → (s.lnt e).queue = [] → (s.lnt e).held = [] →
      reachedBy (s.lnt e) v = true →
      ∃ u, exec (.lnWtc n t) s = .next u ∧ (u.lnt e).count = ((s.lnt e).count + 2 ^ 32 - v % 2 ^ 32) % 2 ^ 32 ∧
        (u.lnt e).queue = [] ∧ (u.core n).task t = gotoPc k (k.pc + 1) ∧ ∀ j, j ≠ e → u.lnt j = s.lnt j)

/-- O32. A notification lets the tasks of a core go on whose wait or consume their lantern's home has released; the others stay held
(R196, R199, R201). -/
def Obligations.LanternNotifications : Prop :=
  ∀ (s : State) (n : Nat),
    let c := s.core n
    c.cmd.isSome = true →
    exec (.lanternNotification n) s = .next (refreshMasks (s.setCore n { c with
      tasks := c.tasks.map (fun t => (t.1, if holdOver t.2.hold then { t.2 with hold := .none } else t.2)) }) (cmdPart (cmdOf s n)))

/-- O33. Job-scope lanterns (R207 to R210): a mirror sends its unsent delta to its parent, and a root or a mirror without one sends what
count is due to its children; a delta is summed at an inner node and applied at the root, where one of an older generation is counted; an
arm is applied at the root and passed on by any other module; a newer count enters a mirror, frees what awaited it, goes on to the children
and fires a target event where it makes the mirror Reached; a reject faults the job's context; a message for a free number is dropped and
counted, and one for another's entry is rejected as well. The model's choices in it: log 54, 55. -/
def Obligations.JobLanterns : Prop :=
  ∀ (s u : State) (n p e : Nat) (k : Packet),
    let x := u.lnt e
    let here : Prop := acceptPkt s n k = (some p, u) ∧ findLnt u p k.chan = some e
    let mine : Prop := here ∧ x.scope = 4 ∧ x.ctx = (u.job p).ctx
    let o := s.lnt e
    (o.alloc = true → o.scope = 4 →
      (∀ r, o.root = false → o.unsent ≠ 0 → jobParent (s.job o.part) = some r →
        exec (.lanternDeltaSend e) s = .next (flushCount (sendFor (s.setLnt e { o with unsent := 0 }) o.part (64 * o.part + o.ctx) r
          (lntMsg 0 o.num o.armGen o.unsent)) e)) ∧
      ((o.root = true ∨ o.unsent = 0) → exec (.lanternDeltaSend e) s = .next (flushCount s e))) ∧
    (mine →
      (x.root = true → newerGen x.armGen k.contrib = false → exec (.lanternDelta n k) s = .next (signalEntry u e k.aux)) ∧
      (x.root = true → newerGen x.armGen k.contrib = true → exec (.lanternDelta n k) s = .next { u with units := { u.units with
        lntRegs := { u.units.lntRegs with stale := inc32 u.units.lntRegs.stale } } }) ∧
      (x.root = false → exec (.lanternDelta n k) s = .next (u.setLnt e { x with unsent := (x.unsent + k.aux) % 2 ^ 32 })) ∧
      (x.root = true → exec (.lanternArm n k) s = .next (armAt u e k.aux)) ∧
      (x.root = false → exec (.lanternArm n k) s = .next (sendUp u p none (lntMsg 1 k.chan 0 k.aux))) ∧
      (x.root = true → exec (.lanternCount n k) s = .next u) ∧
      (∀ newer, newerGen k.contrib x.armGen = newer →
        (newer = true ∨ (k.contrib % 256 = x.armGen ∧ (k.aux + 2 ^ 32 - x.count) % 2 ^ 32 < 2 ^ 31)) → x.root = false →
        let y := { x with count := k.aux % 2 ^ 32, armGen := k.contrib % 256, due := true }
        let f := reachedBy y x.target && (newer || !x.reached)
        let t := flushCount (homeApplied (noteWaits (u.setLnt e { y with reached := f || (x.reached && !newer) }) e) e newer) e
        exec (.lanternCount n k) s = .next (if f then targetEvent t e else t))) ∧
    (acceptPkt s n k = (some p, u) →
      exec (.lanternReject n k) s = .next (teardown u (64 * p + (u.job p).ctx) 0x0B 3 0 0 true)) ∧
    (∀ i ∈ [Instr.lanternDelta n k, .lanternArm n k, .lanternCount n k],
      (acceptPkt s n k = (some p, u) → findLnt u p k.chan = none → exec i s = .next (lntFault u 3 p 0 k.chan true)) ∧
      (here → (x.scope ≠ 4 ∨ x.ctx ≠ (u.job p).ctx) →
        let t := lntFault u 2 p 0 e true
        exec i s = .next (match rankAt (t.job p) k.src with
          | none => t
          | some r => sendPkt t p r (lntMsg 3 k.chan 2 0))))

/-- O34. A host signal counts where the lantern lets it, through the owner's function by lantern number or a management function by entry,
and is otherwise discarded and counted, as one for a number that no lantern has (R210, R214).
The model's choices in it: log 11, 54. -/
def Obligations.HostSignals : Prop :=
  ∀ (s : State) (port vf p n e v : Nat),
    (partOfVf s port vf = some p →
      (findLnt s p n = some e → (s.lnt e).hostSig = true → exec (.lntHsig (.vf port vf) n v) s = .next (signalEntry s e v)) ∧
      (findLnt s p n = some e → (s.lnt e).hostSig = false → exec (.lntHsig (.vf port vf) n v) s = .next (lntFault s 4 p 0 e true)) ∧
      (findLnt s p n = none → exec (.lntHsig (.vf port vf) n v) s = .next (lntFault s 4 p 0 n true))) ∧
    (bit (hostMask s.var) port = true → lntPresent s.var n = true →
      let go := (s.lnt n).alloc && (s.lnt n).hostSig
      exec (.lntHsig (.mgmt port) n v) s = .next (if go then signalEntry s n v else lntFault s 4 15 0 n true))

/-! ### Translation and stack memory -/

/-- O35. The map registers (R221 to R223). MAP enters a page that passes every check of R222, and otherwise leaves the refusal in RESULT;
UNMAP removes the page that starts at the address and sets BUSY, or leaves NOT_MAPPED in RESULT; either is discarded while BUSY is 1.
UNMAP_COMPLETE clears BUSY once no running update holds the page and no request through it waits to be visible, and then no core of the
partition holds a translation of it; until then it changes nothing. -/
def Obligations.MapRegisters : Prop :=
  ∀ (s : State) (fn : Fn) (host : Bool) (p va n : Nat),
    let x := s.xlate p
    let r (h : Bool) : Nat := mapResult x h (s.entry p).frameCount (s.entry p).tsQuota
    (partOfFn s fn = some p →
      (x.busy = true → exec (.map fn host) s = .next s ∧ exec (.unmap fn host) s = .next s) ∧
      (x.busy = false →
        (r host ≠ 0 → exec (.map fn host) s = .next (s.setXlate p { x with result := r host })) ∧
        (r true = 0 → exec (.map fn true) s = .next (s.setXlate p { x with result := 0, host := Tbl.set x.host x.mapVa x.mapEnt })) ∧
        (r false = 0 → exec (.map fn false) s = .next (s.setXlate p { x with result := 0, stack := Tbl.set x.stack x.mapVa x.mapEnt })) ∧
        (∀ e, Tbl.find x.host x.mapVa = some e → exec (.unmap fn true) s = .next (s.setXlate p { x with
          result := 0, busy := true, unmap := some (true, x.mapVa, peSize true e), host := Tbl.del x.host x.mapVa })) ∧
        (∀ e, Tbl.find x.stack x.mapVa = some e → exec (.unmap fn false) s = .next (s.setXlate p { x with
          result := 0, busy := true, unmap := some (false, x.mapVa, peSize false e), stack := Tbl.del x.stack x.mapVa })) ∧
        (Tbl.find (pageTab x host) x.mapVa = none → exec (.unmap fn host) s = .next (s.setXlate p { x with result := 5 })))) ∧
    (x.unmap = some (host, va, n) →
      let swept := !host && (s.upd p).xlat.any (fun t => decide (va ≤ t.1 * 2097152) && decide (t.1 * 2097152 < va + n))
      let flies := (logicalCores s p).any (fun c => (s.core c).slots.any (fun y => slotFlies (s.core c) y.2 host va n))
      let asked := !host && idxFlies s p va n
      ((swept || flies || asked) = true → exec (.unmapComplete p) s = .next s) ∧
      ((swept || flies || asked) = false →
        ∃ u, exec (.unmapComplete p) s = .next u ∧
          u = (onCores s p (fun c => unmapCore c host va n)).setXlate p { x with busy := false, unmap := none } ∧
          ∀ c ∈ logicalCores s p, ∀ t ∈ (u.core c).tcache, t.host = host → ¬ (va ≤ t.va ∧ t.va < va + n)))

/-- O36. A patrol pass reads every damaged codeword of its stack and counts itself (R225, R226): damage that the code cannot correct is
poisoned and no longer only damaged, other damage is written back corrected; a clean stack changes in nothing else. -/
def Obligations.PatrolScrubs : Prop :=
  ∀ (s : State) (k : Nat), bit (stackMask s.var) k = true →
    let m := s.mems.stk
    let cws := (m.damaged ++ m.soft).filter (fun cw => ctlOfSpa s.var (64 * cw) == k)
    let t := cws.foldl (fun s cw => checkCw s (partOfSpa s (64 * cw)) cw) s
    let u := t.setStkCtl k { t.stkCtl k with scrub := inc32 (t.stkCtl k).scrub }
    exec (.patrolScrub k) s = .next u ∧
    (∀ cw, ctlOfSpa s.var (64 * cw) = k →
      (cw ∈ m.damaged → cw ∈ u.mems.stk.poisoned ∧ cw ∉ u.mems.stk.damaged) ∧ (cw ∈ m.soft → cw ∉ u.mems.stk.soft)) ∧
    (cws = [] → u = s.setStkCtl k { s.stkCtl k with scrub := inc32 (s.stkCtl k).scrub })

/-- O37. The gather sorter (R236 to R241). A request joins a waiting entry of its granule, which is counted, or enters at the end where
there is room; where it cannot enter it waits in its slot. In each cycle hot banks are counted and a bank below its cap issues the entry
the rule picks while fewer than 1,024 are outstanding. A promotion marks its entry and is counted. An issued entry whose data return
leaves the sorter, its bytes are read once, and each of its requesters is served.
The model's choices in it: log 21. -/
def Obligations.GatherSorter : Prop :=
  ∀ (s u : State) (n i k j p spa : Nat) (g : GatherReq) (e : SortEnt) (b : Nat),
    let c := s.stkCtl k
    let x := (s.core n).slot i
    (∀ gr req,
      (c.sorter.any (fun e => e.part == p && e.granule == gr && !e.out) = true → sorterPut s k p gr req = some (s.setStkCtl k { c with
        sorter := c.sorter.map (fun e => if e.part == p && e.granule == gr && !e.out then { e with reqs := e.reqs ++ [req] } else e)
        merge := satAdd 64 c.merge 1 })) ∧
      (c.sorter.any (fun e => e.part == p && e.granule == gr && !e.out) = false →
        (c.sorter.length < 4096 ∧ (c.sorter.filter (fun e => e.part == p)).length < 256 * bedCount s p →
          sorterPut s k p gr req = some (s.setStkCtl k { c with
            sorter := c.sorter ++ [{ part := p, granule := gr, reqs := [req], promoted := false, out := false }] })) ∧
        (4096 ≤ c.sorter.length ∨ 256 * bedCount s p ≤ (c.sorter.filter (fun e => e.part == p)).length →
          sorterPut s k p gr req = none))) ∧
    ((s.core n).cmd.isSome = true → nextGather x = some g → x.active = true → x.halted = false → x.walking = false → slotKind x = 4 →
      idxAsked s n (reqTag x i) g.off = false →
      let p := cmdPart (cmdOf s n)
      let put := sorterPut s (ctlOfSpa s.var spa) p (spa / 256) (n, reqTag x i, g.off)
      (target s p n 4 g.va g.len false = .ok spa → put = some u →
        exec (.gatherSorterEntry n i) s = .next (if idxMark ≤ g.off then u else u.setCore n ((u.core n).setSlot i { x with
          issued := x.issued + g.len
          fly := (upto (g.len / 16)).foldl (fun t j => Tbl.set t (g.off + 16 * j) (spa + 16 * j)) x.fly }))) ∧
      (target s p n 4 g.va g.len false = .ok spa → put = none → exec (.gatherSorterEntry n i) s = .next (streamIdle s n (cmdOf s n))) ∧
      (target s p n 4 g.va g.len false = .hold → exec (.gatherSorterEntry n i) s = .next (streamIdle s n (cmdOf s n))) ∧
      (∀ va, target s p n 4 g.va g.len false = .walk va → exec (.gatherSorterEntry n i) s = .next (startWalk s p n i va))) ∧
    (let c1 := if (upto 1024).any (fun b => decide (128 ≤ bankOut c b)) then { c with hot := inc32 c.hot } else c
     let ready := ((upto 1024).map (fun i => (c.bankPtr + i) % 1024)).find? (bankReady c)
     ((c.sorter.filter (fun e => e.out)).length < 1024 → ready = some b → bankPick c b = some e →
       exec (.gatherSorterIssue k) s = .next (s.setStkCtl k { c1 with
         sorter := markOut e c.sorter, bankPtr := (b + 1) % 1024
         openPg := Tbl.set c.openPg b (Config.dramPage (256 * e.granule)) })) ∧
     ((1024 ≤ (c.sorter.filter (fun e => e.out)).length ∨ ready = none) →
       exec (.gatherSorterIssue k) s = .next (s.setStkCtl k c1))) ∧
    (c.sorter[j]? = some e → e.out = false → e.promoted = false →
      exec (.gatherPromotion k j) s = .next (s.setStkCtl k { c with
        sorter := promoteAt j c.sorter, promote := inc32 c.promote })) ∧
    (let mine (e : SortEnt) : Bool := e.out && e.reqs.any (fun r => r.1 == n && r.2.1 % 8 == i && r.2.2 == j)
     (∀ d, s.units.stkCtl.find? (fun c => c.2.sorter.any mine) = some (k, d) → d.sorter.find? mine = some e →
       gatherReturn s n i j = e.reqs.foldl (fun s r => gatherTo s e r) (entryRead (s.setStkCtl k { d with sorter := d.sorter.erase e }) e)) ∧
     (s.units.stkCtl.find? (fun c => c.2.sorter.any mine) = none → gatherReturn s n i j = s))

/-! ### Contexts and queues -/

/-- O38. The states of a context (R355, R356): OPEN from CLOSED with both queues configured, whose usage record is left out with the store
full, and which is discarded while a layout switch that changes the partition is under way (R447); RESUME and FLUSH from STOPPED by the owner;
TEARDOWN by the owner or the management function from OPEN or STOPPED; the end of a teardown once every submitted command has completed;
and CLOSE from OPEN or STOPPED with nothing outstanding, or from FAULTED. The model's choices in it: log 31, 32, 78. -/
def Obligations.ContextStates : Prop :=
  ∀ (s : State) (port v k : Nat),
    let c := s.ctx k
    let fn := Fn.vf port v
    (slotSwitching s (keyPart k) = true → exec (.ctxOpen fn k) s = .next s) ∧
    (ctxExists s k = true → vfOfPart s fn (keyPart k) = true → c.state = .closed → sqOk c.q = true → cqOk c.q = true →
      slotSwitching s (keyPart k) = false →
      ∃ u, exec (.ctxOpen fn k) s = .next u ∧ (u.ctx k).state = .open ∧ (u.ctx k).vf = v ∧ (u.ctx k).q.tail = 0 ∧
        (u.ctx k).q.phase = true ∧ (u.ctx k).q.cmds = [] ∧ (u.ctx k).opening = c.opening + 1 ∧
        (storeFull s = false → s.gth.store.length < 4096 → u.gth.store.length = s.gth.store.length + 1) ∧
        (storeFull s = true → u.gth.store = s.gth.store) ∧
        { u with parts := { u.parts with ctxs := s.parts.ctxs }, gth := s.gth, irqs := s.irqs } = s ∧
        { u.gth with store := s.gth.store, seq := s.gth.seq, opens := s.gth.opens, uses := s.gth.uses, skips := s.gth.skips } = s.gth ∧
        ∀ j, j ≠ k → u.ctx j = s.ctx j) ∧
    (owns s fn k = true → c.state = .stopped →
      exec (.resume fn k) s = .next (setCtxState s k .open) ∧ ((setCtxState s k .open).ctx k).state = .open ∧
      exec (.flush fn k) s = .next (endCmds (cutRest s k 0x0A) k 0x0A (fun m => m.phase != CmdPhase.issued))) ∧
    (ctxExists s k = true → (c.state = .open ∨ c.state = .stopped) →
      (owns s fn k = true → exec (.teardown fn k) s = .next (teardown s k 0x0A 0 0 0 false)) ∧
      (mgmtOfPart s (.mgmt port) (keyPart k) = true → exec (.teardown (.mgmt port) k) s =
        .next (tdiError (teardown s k 0x0B 6 0 0 true) (s.entry (keyPart k)).port c.vf))) ∧
    (owns s fn k = true → ((c.state = .open ∨ c.state = .stopped) ∧ c.q.cmds = [] ∧ unfetched c.q = 0 ∨ c.state = .faulted) →
      ∃ u, exec (.close fn k) s = .next u ∧ u = leaveCtx s k .closed 0 ∧ (u.ctx k).state = .closed ∧ (u.ctx k).image = none ∧ (u.ctx k).keyed = false) ∧
    (∀ t, c.td = some t → c.state = .tearingDown → c.q.cmds = [] → ((s.upd (keyPart k)).cmd.map Prod.fst == some k) = false →
      (t.reset = false → unfetched c.q = 0 →
        ∃ u, exec (.teardownEnd k) s = .next u ∧
          u = leaveCtx s k (if t.fault then .faulted else .closed) (if t.fault then 4 else 0) ∧
          (u.ctx k).state = (if t.fault then .faulted else .closed) ∧ (u.ctx k).image = none) ∧
      (t.reset = true → ∃ u, exec (.teardownEnd k) s = .next u ∧ u = endContext s k 8))

/-- O39. Queues (R357 to R362, R364, R368, R373). A doorbell and a head write of a function that may write them, within their ranges; a
doorbell takes the next number in the partition's order of submission. A descriptor of a context or of a management queue that passes its
checks becomes an outstanding command; one of an open context that fails them completes at once with their status; a read that returns no
data completes its command and faults the context; none is fetched without a free completion record. The event mask, with one interrupt
where it enables an event already set; the watchdog. The model's choices in it: log 19, 32, 64. -/
def Obligations.Queues : Prop :=
  ∀ (s : State) (fn : Fn) (q : QRef) (v k p : Nat) (b : Bytes),
    let x := hostQueue s q
    let c := s.ctx k
    let d := s.sched (keyPart k)
    let fetch := Instr.descriptorFetch (.ctx (k / 64) (k % 64))
    let t := s.setSched (keyPart k) { d with fetches := d.fetches + 1 }
    (mayRing s fn q = true → sqOk x = true → (x.sqFmt = 1 → v % 2 ^ 32 < 2 ^ x.sqLog2) →
      let r := nextRing s q
      exec (.sqDoorbell fn q v) s = .next (setHostQueue r.2 q (submit x (v % 2 ^ 32) r.1)) ∧
      { submit x (v % 2 ^ 32) r.1 with sub := x.sub, subs := x.subs } = x ∧ (submit x (v % 2 ^ 32) r.1).sub = v % 2 ^ 32) ∧
    (mayRing s fn q = true → v % 2 ^ 32 < cqSize x → (v % 2 ^ 32 + cqSize x - x.head) % cqSize x ≤ cqUnread x →
      exec (.cqHeadWrite fn q v) s = .next (setHostQueue s q { x with head := v % 2 ^ 32 })) ∧
    (c.state = .open → s.boot.warming = false → unfetched c.q ≠ 0 → c.q.cmds.length < cqFree c.q → c.cut = [] → c.td = none →
      tdiOf s (s.entry (keyPart k)).port c.vf ≠ .error →
      (∀ next a, nextDesc c.q next = some a →
        let u := t.setCtx k { c with
          q := { c.q with fetch := c.q.fetch + 1, pos := if c.q.sqFmt = 1 then (c.q.pos + 1) % 2 ^ c.q.sqLog2 else c.q.pos
                          lastDesc := a, subs := cutNext c.q.subs
                          cmds := c.q.cmds ++ [{ id := c.q.fetch, desc := parseDesc c.q.sqFmt b, fetchNo := d.fetches
                                                 subNo := (c.q.subs.map Prod.snd).headD 0 }] } }
        (descFails c b = none → exec (fetch (some b) (some next)) s = .next u) ∧
        (∀ st, descFails c b = some st → exec (fetch (some b) (some next)) s =
          .next (complete u k c.q.fetch { status := st, notStarted := true }))) ∧
      exec (fetch none none) s = .next (teardown (complete (t.setCtx k { c with q := fetched c.q c.q.lastDesc d.fetches noDesc })
        k c.q.fetch { status := 0x09, result := c.q.fetch % 2 ^ 32, notStarted := true }) k 0x0B 4 0 0xFFFF true)) ∧
    (cqFree c.q ≤ c.q.cmds.length → exec (fetch (some b) none) s = .next s) ∧
    (let m := s.mq v
     bit (hostMask s.var) v = true → sqOk m = true → cqOk m = true → unfetched m ≠ 0 → m.cmds.length < cqFree m →
     s.shut = false → s.boot.warming = false →
     descOk m.sqFmt false true b = true → ∀ next a, nextDesc m next = some a →
     exec (.descriptorFetch (.mgmt v) (some b) (some next)) s = .next
       (({ s with gth := { s.gth with fetches := s.gth.fetches + 1 } }).setMq v (fetched m a s.gth.fetches (parseDesc m.sqFmt b)))) ∧
    (mayWriteCtx s fn k = true →
      let u := s.setCtx k { c with evmask := v % 32 }
      exec (.evmaskWrite fn k v) s = .next (if (upto 5).any (fun e => bit (v % 32) e && !bit c.evmask e && bit c.event e)
        then sendIrq u (s.entry (keyPart k)).port c.vf c.q.cqVec else u)) ∧
    (∀ r m, (s.sched p).run = some r → (s.ctx r.key).q.cmds.find? (fun m => m.id == r.cmd) = some m → 100000000 ≤ m.runNs →
      exec (.watchdogExpired p) s = .next (stopRun (report s 55 (evtOf 0x006 1 0xFF r.key 0)) p 0x10 0))

/-- O40. A completion: its record of 32 bytes goes to the completion ring at the tail, the tail moves on and the phase turns over at the end of
the ring, the command is no longer outstanding, its flags enter the context, and a status of R371 stops an open context (R360, R369,
R371). In a context that a reset tears down (R374), and while a warm restart is under way (R446), no record is written.
The model's choices in it: log 19, 32. -/
def Obligations.Completions : Prop :=
  ∀ (s : State) (k id : Nat) (x : Compl) (m : Cmd),
    let c := s.ctx k
    c.q.cmds.find? (fun m => m.id == id) = some m →
    let u := complete s k id x
    let a := c.q.cqBase + 32 * c.q.tail
    let port := (s.entry (keyPart k)).port
    let head := recordHead m c.q.phase x
    let silent := c.td.any Teardown.reset || s.boot.warming
    (silent = true → u.mems = s.mems ∧ u.ctx k = { c with q := { c.q with cmds := c.q.cmds.filter (fun n => n.id != id) } }) ∧
    (silent = false →
    Mem.rdN (Tbl.get [] u.mems.host port) a 24 = head ∧
    Mem.rdN (Tbl.get [] u.mems.host port) (a + 24) 8 = recordTag c.q c.keyed c.key head ∧
    (∀ b, (b < a ∨ a + 32 ≤ b) → Mem.rd (Tbl.get [] u.mems.host port) b = Mem.rd (Tbl.get [] s.mems.host port) b) ∧
    (u.ctx k).q.tail = (if c.q.tail + 1 = cqSize c.q then 0 else c.q.tail + 1) ∧
    (u.ctx k).q.phase = (if c.q.tail + 1 = cqSize c.q then !c.q.phase else c.q.phase) ∧
    (u.ctx k).q.cmds = c.q.cmds.filter (fun n => n.id != id) ∧ (u.ctx k).flags = orFlags c.flags m.flags ∧
    (u.ctx k).state = (if stops x.status ∧ (c.state = .open ∨ c.state = .stopped) then .stopped else c.state))

/-! ### Commands of a context -/

/-- O41. LOAD, UNLOAD and RNG_CHECK (R198, R213, R271, R362). LOAD of an image that passes every check makes it the context's image, with
its lanterns allocated; it is refused while an image is loaded, over an unmapped address, for a check of the image that fails (with that
check's status and result; for pool ranges that another context's image holds the result is left free), for bytes that are no image, and
when the partition has no free lantern for it. UNLOAD frees the image and every lantern of the context; with
none loaded it is refused. RNG_CHECK counts and reports every record that differs from its derived position, and answers their number; it
is refused for a count above 256 and over an unmapped list. The model's choices in it: log 7, 19, 33, 39. -/
def Obligations.ControlCommands : Prop :=
  ∀ (s : State) (k : Nat) (m : Cmd) (img : Image) (recs : List RngRec),
    let p := keyPart k
    (issuable s k opLoad = some m →
      let mapped := hostMapped s p m.desc.arg0 (m.desc.arg1 % 2 ^ 32)
      let loads := exec (.load k (some img)) s
      ((s.ctx k).image = none → mapped = true →
        (∀ t, admitImage s k img = none → poolClash s k img = false → allocTable k s img.lnFirst img.lanterns = some t →
          loads = .next (complete (putImage t k img) k m.id { status := 0 }) ∧ ((putImage t k img).ctx k).image = some img) ∧
        (admitImage s k img = none → poolClash s k img = false → allocTable k s img.lnFirst img.lanterns = none →
          loads = .next (refuseCmd s k m.id 0x04 0)) ∧
        (admitImage s k img = none → poolClash s k img = true →
          loads = .next (refuseCmd (drawFree s).2 k m.id 0x02 (Config.freeWord s.freeCount).toNat)) ∧
        (∀ st r, admitImage s k img = some (st, r) → loads = .next (refuseCmd s k m.id st r)) ∧
        exec (.load k none) s = .next (refuseCmd s k m.id 0x02 0)) ∧
      ((s.ctx k).image = none → mapped = false → loads = .next (refuseCmd s k m.id 0x06 0)) ∧
      ((s.ctx k).image.isSome = true → loads = .next (refuseCmd s k m.id 0x05 0))) ∧
    (issuable s k opUnload = some m →
      ((s.ctx k).image.isSome = true →
        exec (.unload k) s = .next (complete (unloadImage s k) k m.id { status := 0 }) ∧
        ((unloadImage s k).ctx k).image = none ∧
        ∀ x ∈ (unloadImage s k).units.lnt, ¬ (x.2.alloc = true ∧ x.2.part = p ∧ x.2.ctx = keyCtx k)) ∧
      ((s.ctx k).image = none → exec (.unload k) s = .next (refuseCmd s k m.id 0x05 0))) ∧
    (issuable s k opRngCheck = some m →
      let cnt := m.desc.arg2 % 512
      let n := m.desc.arg1 % 2 ^ 32
      let b := m.desc.arg1 / 2 ^ 32 % 2 ^ 32
      let bad := (recs.take cnt).filter (fun x => (x.2.1, x.2.2.1, x.2.2.2.1, x.2.2.2.2) !=
        (if 0xFC ≤ x.1 % 256 then (n, 0xFFFFFFFF, 0, 0) else (n, b, 0, 0)))
      let t := s.setUpd p { s.upd p with rngDisc := satAdd 32 (s.upd p).rngDisc bad.length }
      (cnt ≤ 256 → hostMapped s p m.desc.arg0 (32 * cnt) = true →
        exec (.rngCheck k recs) s = .next (complete
          (bad.foldl (fun s x => report s 55 (evtOf 0x012 0 0xFF k (x.1 % 256 * 2 ^ 14 + satDiff x.2.2.2.2))) t)
          k m.id { status := 0, result := bad.length })) ∧
      (256 < cnt → exec (.rngCheck k recs) s = .next (refuseCmd s k m.id 0x05 0)) ∧
      (cnt ≤ 256 → hostMapped s p m.desc.arg0 (32 * cnt) = false → exec (.rngCheck k recs) s = .next (refuseCmd s k m.id 0x06 0)))

/-- O42. Core-class commands (R10, R95, R96, R283, R341, R366). A granted candidate issues its plan on the cores the plan names, and a
chosen one asks for credit; either completes with the status that refuses it, of an absent bed too, instead; the chosen one's context is
current; STAGE and PROBE begin their passes, and are refused for an absent bed; a command ends on a core once its tasks, queues and streams
have ended there. The model's choices in it: log 19, 33, 36, 65. -/
def Obligations.CoreCommands : Prop :=
  ∀ (s : State) (p k n : Nat) (c : Cand) (m : Cmd) (img : Image) (t : StageTable) (expected : Bytes),
    ((s.sched p).run = none → (coreCands s p).find? (fun c => candPhase s c == .granted) = some c →
      (candRefusal s c = none →
        (c.pass = none → exec (.run p) s = .next (issueCand s p c)) ∧
        (c.pass.isSome = true → exec (.passCommandIssue p) s = .next (issueCand s p c))) ∧
      (∀ st, candRefusal s c = some st →
        (c.pass = none → exec (.run p) s = .next (refuseCmd s c.key c.cmd.id st 0)) ∧
        (c.pass.isSome = true → exec (.passCommandIssue p) s = .next (stageFail s c.key c.cmd st))) ∧
      ((s.ctx c.key).image.isSome = true → bedGone s c.key = true → candRefusal s c = some 0x01 ∨ candRefusal s c = some 0x05)) ∧
    (∀ cs, (s.sched p).run = none → coreCands s p = c :: cs → (c :: cs).find? (fun c => candPhase s c == .granted) = none →
      candPhase s c = .waiting →
      (candRefusal s c = none →
        (c.pass = none → exec (.run p) s = .next (setCandPhase (choose s p c) c .asking)) ∧
        (c.pass.isSome = true → exec (.passCommandIssue p) s = .next (setCandPhase (choose s p c) c .asking))) ∧
      (∀ st, candRefusal s c = some st →
        (c.pass = none → exec (.run p) s = .next (refuseCmd (choose s p c) c.key c.cmd.id st 0)) ∧
        (c.pass.isSome = true → exec (.passCommandIssue p) s = .next (stageFail (choose s p c) c.key c.cmd st))) ∧
      ((choose s p c).sched p).cur = keyCtx c.key) ∧
    (issuable s k opStage = some m → coreBusy s k = false → (s.ctx k).image = some img → img.stage = some t →
      exec (.stage k) s = .next (if bedGone s k = true then refuseCmd s k m.id 0x01 0 else stageBegin s k m false none)) ∧
    (issuable s k opProbe = some m → coreBusy s k = false → (s.ctx k).image = some img → img.probe = some t →
      (bedGone s k = true → exec (.probe k expected) s = .next (refuseCmd s k m.id 0x01 0)) ∧
      (bedGone s k = false → hostMapped s (keyPart k) m.desc.arg1 32 = true →
        (m.desc.arg2 ≠ 0 → hostMapped s (keyPart k) m.desc.arg2 32 = true) →
        exec (.probe k expected) s = .next (stageBegin s k m true (if m.desc.arg2 = 0 then none else some expected)))) ∧
    (∀ r, (s.core n).cmd.isSome = true → (s.sched (cmdPart (cmdOf s n))).run = some r → coreEnded (s.core n) = true → n ∈ r.cores →
      let q := cmdPart (cmdOf s n)
      exec (.commandEndOnCore n) s = .next (runEnd
        (((gatherFlags s r.key r.cmd (s.core n)).setCore n (quietCore (s.core n) (openingId s r.key) 0)).setSched q
          { s.sched q with run := some { r with cores := r.cores.filter (· != n) } }) q))

/-- O43. Functions and layouts (R350, R351, R354). A function-level reset ends the VF's contexts, drops its IDE keys and moves its TDI to
ERROR, as a configuration change does. A secured session moves a TDI through its states, and its stop erases the partition of the VF. A
LAYOUT_SWITCH that verifies, in its turn among the ports, comes to its switch point where no changed slot has an open context or a held
TDI, and then takes effect and completes; otherwise it answers LAYOUT_BUSY with the slot; one that does not verify, and one of a number
that no stored layout has, are refused. From the switch point to the end no TDI of a changed slot is locked: the request is answered
with an error (R447). The model's choices in it: log 31, 33, 42, 77. -/
def Obligations.FunctionsAndLayouts : Prop :=
  ∀ (s : State) (port vf id n : Nat) (block : Bytes) (sigOk devOk : Bool) (m : Cmd) (l : Layout),
    (let t := (vfKeys s port vf).foldl resetContext s
     exec (.functionLevelReset port vf) s = .next (tdiError
       { t with gth := { t.gth with ide := t.gth.ide.filter (fun i => !(i.port == port && i.vf == vf)) } } port vf)) ∧
    exec (.vfConfigChange port vf) s = .next (tdiError s port vf) ∧
    (sessionUp s (.fn (.mgmt port)) id = true → 1 ≤ vf → vf ≤ 64 →
      (tdiOf s port vf = .unlocked →
        ((partOfVf s port vf).any (slotSwitching s) = false →
          exec (.tdispRequest port vf .lock id) s = .next (setTdi s port vf .locked)) ∧
        ((partOfVf s port vf).any (slotSwitching s) = true →
          exec (.tdispRequest port vf .lock id) s = .next (answer s 0xFE tdispError [] false))) ∧
      (tdiOf s port vf = .locked → exec (.tdispRequest port vf .start id) s = .next (setTdi s port vf .run)) ∧
      (tdiOf s port vf ≠ .unlocked →
        (partOfVf s port vf = none → exec (.tdispRequest port vf .stop id) s = .next (setTdi s port vf .unlocked)) ∧
        (∀ p, partOfVf s port vf = some p →
          exec (.tdispRequest port vf .stop id) s = .next (cryptoErase (setTdi s port vf .unlocked) p)))) ∧
    (∀ w, s.lay.switch = some w → w.port = n →
      let t := finishSwitch s
      t.lay.active = w.layout ∧ t.lay.switch = none ∧ t.lay.switchCtr = w.counter ∧
      (∀ id, w.cmd = some id → exec (.layoutSwitch n block sigOk devOk) s = .next (completeMgmt t n id { status := 0 })) ∧
      (w.cmd = none → exec (.layoutSwitch n block sigOk devOk) s = .next t)) ∧
    (s.lay.switch = none → mgmtHead s n opLayoutSwitch = some m → switchTurn s m = false →
      exec (.layoutSwitch n block sigOk devOk) s = .next s) ∧
    (s.lay.switch = none → mgmtHead s n opLayoutSwitch = some m → switchTurn s m = true →
      let runs := exec (.layoutSwitch n block sigOk devOk) s
      (sbFails s block opLayoutSwitch 3 s.lay.switchCtr sigOk devOk = true → runs = .next (completeMgmt s n m.id { status := 0x23 })) ∧
      (sbFails s block opLayoutSwitch 3 s.lay.switchCtr sigOk devOk = false →
        s.lay.stored.find? (fun l => l.number == sbPayload block % 8) = none → runs = .next (completeMgmt s n m.id { status := 0x05 })) ∧
      (sbFails s block opLayoutSwitch 3 s.lay.switchCtr sigOk devOk = false →
        s.lay.stored.find? (fun l => l.number == sbPayload block % 8) = some l →
        let changed := (upto 16).filter (slotChanged s.lay.active l)
        ((∀ p ∈ changed, openKeys s p = [] ∧ tdiHeld s p = false) →
          let w : Switching := { port := n, cmd := some m.id, layout := l, counter := sbCounter block, changed := changed }
          runs = .next { s with lay := { s.lay with switch := some w } }) ∧
        (∀ p, changed.find? (fun p => !(openKeys s p).isEmpty || tdiHeld s p) = some p →
          runs = .next (completeMgmt s n m.id { status := 0x22, result := p }))))


/-! ### The update engines -/

/-- O44. An update (R248 to R250, R264 to R266). UPDATE and UPDATE_RESUME begin in their turn with their parameter block, and are refused for an
absent bed, an unmapped address, a bad block and an area with no usable translation. A landing block of the plan is written and counted,
kept for the next step once the sweep has read the one before it, or held until it has; a block that is not of the plan does nothing. The
time limit ends the landing with the number of
blocks missing. The sweep starts once the norm event has come and its credit is granted, after the pre-pass where it is no resumption, and
each engine takes its next record. The model's choices in it: log 29, 65. -/
def Obligations.UpdateSteps : Prop :=
  ∀ (s : State) (k p d lb cnt e : Nat) (m : Cmd) (img : Image) (block data : Bytes),
    let u := s.upd p
    (∀ (c : Instr) (op : Nat) (r : Bool), (c, op, r) ∈ [(Instr.update k block, opUpdate, false), (.updateResume k block, opUpdateResume, true)] →
      issuable s k op = some m → (s.sched (keyPart k)).eng = none → engTurn s (keyPart k) m = true → (s.ctx k).image = some img →
      let t := beginUpd s k m block r
      exec c s = .next t ∧
      (bedGone s k = true → t = refuseCmd s k m.id 0x01 0) ∧
      (bedGone s k = false → hostMapped s (keyPart k) m.desc.arg0 576 = false → t = refuseCmd s k m.id 0x06 0) ∧
      (bedGone s k = false → hostMapped s (keyPart k) m.desc.arg0 576 = true →
        (∀ o, badBlock block = some o → t = refuseCmd s k m.id 0x02 o) ∧
        (∀ pg, badBlock block = none → unmappedPage s (keyPart k) img.plan = some pg → t = refuseCmd s k m.id 0x14 (pg % 2 ^ 19)) ∧
        (badBlock block = none → unmappedPage s (keyPart k) img.plan = none → r = true →
          (t.upd (keyPart k)).cmd = some (k, m.id) ∧ (t.upd (keyPart k)).phase = .norm ∧ (t.upd (keyPart k)).ask = .asking ∧
          (t.upd (keyPart k)).blk = parseBlock block ∧ (t.sched (keyPart k)).eng = some (k, m.id)))) ∧
    (let key := blockKey d lb
     let bs := padTo 65536 data
     let ahead := u.readBlk.contains key && (Tbl.find u.next key).isNone
     let runs := exec (.landingBlock p d lb cnt data) s
     (blockAt (dieSegs (updPlan s p) d) 0 lb = none → runs = .next s) ∧
     (blockAt (dieSegs (updPlan s p) d) 0 lb ≠ none →
       (Tbl.find u.counts key = none → runs = .next (landCheck (landWrite s p d lb (cnt % 65536) bs false none) p)) ∧
       (Tbl.find u.counts key ≠ none → ahead = true → runs = .next (landWrite s p d lb (cnt % 65536) bs true none)) ∧
       (Tbl.find u.counts key ≠ none → ahead = false → runs = .next (s.setUpd p { u with
         held := u.held ++ [{ key := key, cnt := cnt % 65536, data := bs, src := none }] })))) ∧
    (∀ id, u.cmd = some (k, id) → u.phase = .landing → u.blk.timeout * 1000000 ≤ u.waited →
      exec (.landTimeout p) s = .next (complete ((s.setUpd p
        { clearAcc u with cmd := none, phase := .idle, xlat := [], ask := .waiting }).setSched p
        { s.sched p with eng := none }) k id { status := 0x15, result := planBlocks (updPlan s p) - u.counts.length })) ∧
    (u.cmd.isSome = true → u.phase = .norm →
      (u.normSeen = false → exec (.sweepStart p) s = .next (normSignal s p)) ∧
      (u.normSeen = true → u.ask = .granted →
        let t := if u.resume = true then s else prePasses s p
        exec (.sweepStart p) s = .next (armEngines (t.setUpd p { t.upd p with phase := .sweep, ask := .issued }) p)) ∧
      (u.normSeen = true → u.ask ≠ .granted → exec (.sweepStart p) s = .next s)) ∧
    (u.cmd.isSome = true → (u.phase = .sweep ∨ u.phase = .acks) → bit (stackMask s.var) e = true →
      (updEng s p e).ended = false →
      let t := engStep s p e
      exec (.sweepRecord p e) s = .next (settleUpd { t with blv := { t.blv with
        upBusy := Tbl.upd 0 t.blv.upBusy e (fun n => satAdd 64 n 1) } } p)) ∧
    (u.cmd.isSome = true → (u.phase = .sweep ∨ u.phase = .acks) → bit (stackMask s.var) e = true →
      (updEng s p e).ended = true → exec (.sweepRecord p e) s = .next (settleUpd s p))

/-! ### The Trellis -/

/-- O45. Trellis ports (R291 to R295, R298 to R300, R319, R323). A port that may train and is not up takes the state of its good lanes with
the right neighbour, and stays DOWN with too few lanes or, with an event, with the wrong neighbour. One that is up and trains again keeps
its units and takes the state of its good lanes, or goes down, with an event, where they are too few or the neighbour is wrong. It goes down
for 16 successive CRC failures of one unit, an acknowledgement that stays out, or too few lanes. RETRAIN and DISABLE act for a management
function only. Of wire units a good one in sequence is accepted, one out of sequence and one with a bad CRC are not and are answered with a
NAK. A packet for another module goes on in its direction unless this module is skipped. After a FATAL event a port neither trains, nor
answers a unit, nor forwards (R422). A packet whose units stopped is dropped, counted and reported. The model's choices in it: log 25, 26,
85. -/
def Obligations.TrellisPorts : Prop :=
  ∀ (s : State) (n m lanes peer cause : Nat) (jobs : List Nat) (u : WireUnit) (k : Packet) (v : Bool) (job : Nat),
    let x := s.tport n
    let up := portUp x
    let good := if s.pins.cables.contains (n / 4) then lanes else 0
    let state := if good % 256 = 255 then 4 else if good % 16 = 15 ∨ good / 16 % 16 = 15 then 5 else 2
    let right := decide (peer % 1024 = expectedPeer s.trl (dirOfPort s n).1)
    let t := trainPort s n lanes peer
    (mayTrain s n = true →
      (up = false → exec (.portTrain n lanes peer) s = .next t) ∧
      (right = true → (t.tport n).state = state) ∧
      (right = false → (t.tport n).state = 2 ∧ (state ≠ 2 → ∃ u, t = report u (32 + n) (evtNone 0x020 2 n (peer % 1024)))) ∧
      (up = false → exec (.retrain (.mgmt m) n lanes peer jobs) s = .next t) ∧
      (up = true →
        let y := { x with lanes := good % 256, peer := peer % 1024, state := state }
        (state ≠ 2 → right = true → exec (.retrain (.mgmt m) n lanes peer jobs) s = .next (s.setTport n y) ∧
          exec (.portTrain n lanes peer) s = .next (s.setTport n y)) ∧
        (state = 2 → exec (.retrain (.mgmt m) n lanes peer jobs) s =
          .next (report (portDown s n jobs) (32 + n) (evtNone 0x021 2 n 2))) ∧
        (state ≠ 2 → right = false → exec (.retrain (.mgmt m) n lanes peer jobs) s =
          .next (report (portDown s n jobs) (32 + n) (evtNone 0x020 2 n (peer % 1024)))) ∧
        (state = 2 ∨ right = false → exec (.portTrain n lanes peer) s = .next s))) ∧
    (up = true → (cause = 0 → 16 ≤ x.fails) → (cause = 1 → x.retry ≠ []) → cause < 3 →
      exec (.portDown n cause jobs) s = .next (report (portDown s n jobs) (32 + n) (evtNone 0x021 2 n cause))) ∧
    (bit (trlMask s.var) n = true → n < 16 →
      exec (.disable (.mgmt m) n v jobs) s = .next (if v && up then portDown (s.setTport n { x with disable := v }) n jobs
        else s.setTport n { x with disable := v }) ∧
      exec (.packetStallTimeout n job) s = .next (linkDrop s n 1 [job])) ∧
    (exec (.retrain (.vf m peer) n lanes peer jobs) s = .next s ∧ exec (.disable (.vf m peer) n v jobs) s = .next s) ∧
    (s.blv.fatal = true → exec (.portTrain n lanes peer) s = .next s ∧ exec (.wireUnit n u) s = .next s ∧
      exec (.packetForward n k) s = .next s) ∧
    (up = true → s.blv.fatal = false →
      (u.crcOk = false → exec (.wireUnit n u) s = .next (s.setTport n { x with
        crcErr := inc32 x.crcErr, nakSent := true
        fails := if u.idle = false ∧ u.seq % 1024 = x.expect then x.fails + 1 else x.fails })) ∧
      (u.crcOk = true → exec (.wireUnit n u) s =
        .next (s.setTport n (drainPort (takeUnit (linkWord x u) u).sendq (takeUnit (linkWord x u) u)))) ∧
      (u.idle = false → u.seq % 1024 = x.expect → (takeUnit x u).expect = (x.expect + 1) % 1024 ∧ (takeUnit x u).rxu = satAdd 64 x.rxu 1) ∧
      (u.idle = false → u.seq % 1024 ≠ x.expect → takeUnit x u = { x with nakSent := true }) ∧
      (k.dest ≠ s.trl.pos → exec (.packetForward n k) s = .next (if s.trl.skip.contains s.trl.pos then s
        else launch s (travelDir (dirOfPort s n).1) k)))

/-- O46. Packets that pass every check of R305 (R176, R302, R312 to R318). Data go to the stream of their channel, which acknowledges to the
sender what the region's tail has passed, a stage channel or a gathered block; the acknowledgement of a channel's data is counted at the
stream that sent them; a packet of a child's partial joins its block, or is one of the resent partials an adopter drops; an acknowledgement
by the parent frees the kept partial and goes on to the children; a scalar partial joins its collective, and a result is delivered; credit
is added. The local slice takes the next bytes of a kind-0x6 stream, or lets them wait where the way on is held; a stream that has left its
window, or reads a word with bad parity, stops its command. The model's choices in it: log 23, 24, 26, 27, 74, 75, 76. -/
def Obligations.Packets : Prop :=
  ∀ (s t : State) (n p r c i : Nat) (k : Packet),
    let ok (ty : Nat) : Prop := portUp (s.tport n) = true ∧ k.dest = s.trl.pos ∧ k.ty = ty ∧ acceptPkt s n k = (some p, t) ∧
      rankAt (t.job p) k.src = some r
    let e := collOf t (jobKey t p) k.chan
    let y := bodyOf k
    let bs := y.body.take (y.body.length / 16 * 16)
    (ok 1 → k.chan < 0xFFF0 →
      (∀ m, colType e = 0 → channelSlot t p k.chan = some (c, i, m) →
        let u := deliverAt t c i m (4096 * k.pidx + y.off) bs
        exec (.dataPacket n k) s = .next (if (u.core c).cmd = some m
          then ackTailed u c i m else u)) ∧
      (colType e = 0 → channelSlot t p k.chan = none → exec (.dataPacket n k) s = .next t) ∧
      (colType e = 1 → exec (.dataPacket n k) s = .next (stageData t p e y)) ∧
      ((colType e = 3 ∨ colType e = 4) → exec (.dataPacket n k) s = .next (gatherData t p e y)) ∧
      ((colType e = 2 ∨ 4 < colType e) → exec (.dataPacket n k) s = .next t)) ∧
    (let x := (t.core c).slot i
     let m := cmdOf t c
     let tail := tailedBytes x ((t.core c).region x.task (stReg x.word))
     let e := collOf t m.key (slotChan x)
     x.op = .stIn → slotKind x = 5 →
     (tail ≤ x.acked → ackTailed t c i m = t) ∧
     (x.acked < tail → ackTailed t c i m =
       sendPkt (t.setCore c ((t.core c).setSlot i { x with acked := tail })) (cmdPart m) (colRank e (colPeer e))
         { ty := 3, chan := slotChan x, pidx := x.acked / 4096, aux := tail - x.acked })) ∧
    (ok 2 →
      let b := k.pidx / partialPkts e
      let j := k.pidx % partialPkts e
      let w := blockWork t p k.chan b
      let step := k.aux % 65536
      (w.drop.contains (r, step) = false →
        exec (.reducePacket n k) s = .next (blockTry (setWork t p k.chan b { w with
          kids := putKid w.kids r (k.contrib % 65536) j y.body, step := step }) p k.chan b)) ∧
      (w.drop.contains (r, step) = true → 4096 * (j + 1) < partialLen e w → exec (.reducePacket n k) s = .next t) ∧
      (w.drop.contains (r, step) = true → partialLen e w ≤ 4096 * (j + 1) →
        let u := setWork (dupDrop t p) p k.chan b { w with drop := w.drop.erase (r, step) }
        exec (.reducePacket n k) s = .next (if w.kept.isNone && w.lastStep == step then ackDown u p k.chan b [r] else u))) ∧
    (ok 3 →
      let w := blockWork t p k.chan k.pidx
      let u := setWork t p k.chan k.pidx { w with kept := none }
      (colType e = 0 → e ≠ [] →
        (senderSlot t p k.chan = some (c, i) →
          let x := (t.core c).slot i
          exec (.ackPacket n k) s =
            .next (t.setCore c ((t.core c).setSlot i { x with acked := min x.issued (x.acked + k.aux % 2 ^ 32) }))) ∧
        (senderSlot t p k.chan = none → exec (.ackPacket n k) s = .next t)) ∧
      ((colType e ≠ 0 ∨ e = []) → w.kept.isSome = true → blockParent t p e k.pidx = some r →
        exec (.ackPacket n k) s = .next (blockTry (ackDown u p k.chan k.pidx (blockKids u p e k.pidx)) p k.chan k.pidx)) ∧
      ((colType e ≠ 0 ∨ e = []) → (w.kept = none ∨ blockParent t p e k.pidx ≠ some r) → exec (.ackPacket n k) s = .next t)) ∧
    (ok 5 → k.pidx = 0 → exec (.scalarPacket n k) s = .next (scalarTry (setScalarWork t p k.chan { scalarOf t p k.chan with
      kids := Tbl.set (scalarOf t p k.chan).kids r (k.aux % 2 ^ 32) }) p k.chan)) ∧
    (ok 5 → k.pidx ≠ 0 → exec (.scalarPacket n k) s = .next (scalarResult t p k.chan (k.aux % 2 ^ 32))) ∧
    (ok 6 → exec (.creditPacket n k) s = .next (t.setJob p { t.job p with
      credit := Tbl.upd 0 (t.job p).credit k.chan (fun v => v + k.aux % 2 ^ 32) })) ∧
    (let co := s.core c
     let x := co.slot i
     let m := cmdOf s c
     let q := cmdPart m
     let ch := slotChan x
     let e := collOf s m.key ch
     let at_ := x.issued
     let len := packetLen at_ x.begun
     let rg := co.region x.task (stReg x.word)
     let pos := outPos x rg at_
     let runs := exec (.localContribution c i) s
     co.cmd.isSome = true → x.active = true → x.op = .stOut → slotKind x = 6 → x.halted = false → at_ < x.begun →
     (streamIn co x = true →
       (localHeld s q ch at_ e = true → runs = .next (streamIdle s c m)) ∧
       (localHeld s q ch at_ e = false →
         (badWord co x.task rg pos (wordsOf len) = none →
           runs = .next (takeLocal (s.setCore c ((co.setSlot i { x with issued := at_ + len }).busyCycle 3)) q m (c, i, m.cmd) ch e at_
             (regionBytes co x.task rg pos len) (at_ + len == slotLen x))) ∧
         (∀ w, badWord co x.task rg pos (wordsOf len) = some w → runs = .next (parityAbort s c m 2 w w)))) ∧
     (streamIn co x = false → runs = .next (refusedStream s c i m pos)))

/-! ### Jobs and protection -/

/-- O47. A job (R4, R306 to R310, R333 to R335, R344, R365, R376). JOB_ADMIT admits the module with a block that verifies, of a job of one
variant whose ranks the loaded image's tables fit; otherwise it answers JOB_AUTH_FAILED, VARIANT_MISMATCH with the lowest rank that differs,
or IMAGE_REJECTED; without an image, for an absent bed and over an unmapped address it is refused. INSTALL, SWITCH and GRACE_END act in
their order, each in its phase, and otherwise answer EPOCH_ORDER. JOB_HALT ends the commands of the partition that were submitted before it,
except a sweep that runs, and completes once no such sweep does. JOB_RESUME takes the step that the stack controllers hold as committed or
the next one, which it sweeps where it has not been swept, and any step where REBUILD PARITY has restored the module; it refuses another, as
it does over an unmapped address. JOB_EVICT acts with a signed block that verifies. The model's choices in it: log 19, 28, 33, 56, 64, 65.
-/
def Obligations.JobCommands : Prop :=
  ∀ (s : State) (k n : Nat) (m : Cmd) (img : Image) (b : AdmitBlock) (rec : Membership) (block : Bytes) (sigOk devOk : Bool),
    let p := keyPart k
    let j := s.job p
    (issuable s k opJobAdmit = some m →
      ((s.ctx k).image = none → exec (.jobAdmit k b) s = .next (refuseCmd s k m.id 0x05 0)) ∧
      ((s.ctx k).image.isSome = true → bedGone s k = true → exec (.jobAdmit k b) s = .next (refuseCmd s k m.id 0x01 0)) ∧
      ((s.ctx k).image.isSome = true → bedGone s k = false → hostMapped s p m.desc.arg0 1 = false →
        exec (.jobAdmit k b) s = .next (refuseCmd s k m.id 0x06 0))) ∧
    (issuable s k opJobAdmit = some m → (s.ctx k).image = some img → bedGone s k = false → hostMapped s p m.desc.arg0 1 = true →
      let verified := b.sigOk && b.keyOk && tenantKeys s p && b.wrapKey == jobWrapKey s p b.tag && memOk b.mem && b.mem.tag == b.tag &&
        decide (b.rank < b.mem.ranks.length)
      let runs := exec (.jobAdmit k b) s
      (verified = false → runs = .next (complete s k m.id { status := 0x19 })) ∧
      (∀ r, verified = true → variantMismatch s b = some r → runs = .next (complete s k m.id { status := 0x1B, result := r })) ∧
      (∀ w, verified = true → variantMismatch s b = none → memberFail (blockJob k b) img = some w →
        runs = .next (complete s k m.id { status := 0x02, result := w })) ∧
      (verified = true → variantMismatch s b = none → memberFail (blockJob k b) img = none →
        runs = .next (complete (admitJob s k b) k m.id { status := 0 }) ∧
        ((admitJob s k b).job p).valid = true ∧ ((admitJob s k b).job p).epoch = b.mem.epoch ∧ ((admitJob s k b).job p).phase = .steady)) ∧
    (issuable s k opJobEpoch = some m →
      (m.desc.arg0 % 4 = 0 → exec (.install k rec sigOk) s = .next (refuseCmd s k m.id 0x05 0)) ∧
      (m.desc.arg0 % 4 = 1 → hostMapped s p m.desc.arg1 1 = false → exec (.install k rec sigOk) s = .next (refuseCmd s k m.id 0x06 0)) ∧
      (m.desc.arg0 % 4 = 1 → hostMapped s p m.desc.arg1 1 = true →
        let verified := j.valid && sigOk && rec.tag == j.tag && memOk rec
        (verified = false → exec (.install k rec sigOk) s = .next (complete s k m.id { status := 0x19 })) ∧
        (verified = true → rec.epoch = j.epoch + 1 → j.phase = .steady →
          exec (.install k rec sigOk) s = .next (complete (install s p rec) k m.id { status := 0 })) ∧
        (verified = true → (rec.epoch ≠ j.epoch + 1 ∨ j.phase ≠ .steady) →
          exec (.install k rec sigOk) s = .next (complete s k m.id { status := 0x1A }))) ∧
      (m.desc.arg0 % 4 = 2 → exec (.switch k) s = .next (if j.valid = true ∧ j.phase = .installed
        then complete (s.setJob p { j with phase := .switched, sendEp := j.epoch, pctr := 0 }) k m.id { status := 0 }
        else complete s k m.id { status := 0x1A })) ∧
      (m.desc.arg0 % 4 = 3 → exec (.graceEnd k) s = .next (if j.valid = true ∧ j.phase = .switched
        then complete (s.setJob p { j with
          phase := .steady, keyOld := none, rx := j.rx.filter (fun x => x.1 / 1024 == j.epoch % 2 ^ 32) }) k m.id { status := 0 }
        else complete s k m.id { status := 0x1A }))) ∧
    (issuable s k opJobHalt = some m →
      let t0 := setPhase s k m.id .issued
      let t1 := match (t0.sched p).run with
        | some r => if haltsId t0 k m r.key r.cmd then endCore t0 p 0x12 else t0
        | none => t0
      let t2 := match (t1.sched p).eng with
        | some e => if haltsId t1 k m e.1 e.2 then endEngine t1 p 0x12 else t1
        | none => t1
      let t := (openKeys t2 p).foldl (fun s c =>
        let s := endCmds s c 0x12 (halts s k m c)
        if c = k then s else cutBefore s c 0x12 m.subNo) t2
      exec (.jobHalt k) s = .next (if haltsSweep t k m
        then settleUpd (resendChanged (t.setUpd p { t.upd p with halt := true }) p) p else finishHalt t p) ∧
      ∀ (u : State) (c : Nat) (x : Cmd), c ≠ k → (halts u k m c x = true ↔
        x.subNo < m.subNo ∧ sweepRuns u c x.id = false ∧ ¬ (x.desc.opcode = opJobHalt ∧ x.phase = .issued))) ∧
    (∀ (u : State) (c id : Nat) (x : Cmd), c ≠ k → (u.upd p).cmd = some (c, id) → (u.ctx c).q.cmds.find? (fun y => y.id == id) = some x →
      (haltsSweep u k m = true ↔ (u.upd p).normSeen = true ∧ x.subNo < m.subNo)) ∧
    (issuable s k opJobResume = some m → hostMapped s p m.desc.arg1 576 = false →
      exec (.jobResume k block) s = .next (refuseCmd s k m.id 0x06 0)) ∧
    (issuable s k opJobResume = some m → hostMapped s p m.desc.arg1 576 = true →
      let n := m.desc.arg0 % 2 ^ 32
      let c := committedOf s p
      let swept := (s.prot p).evSwept
      let whole := (s.prot p).restored
      let blk := parseBlock block
      let done (t : State) : State := complete (resumeState t p n blk) k m.id { status := 0, result := n }
      ((n = c + 1 → swept = true) → (whole = true ∨ n = c ∧ swept = false ∨ n = c + 1) →
        exec (.jobResume k block) s = .next (done s)) ∧
      (n = c + 1 → swept = false →
        exec (.jobResume k block) s = .next (done (rollSweep s p (k, m.id) blk (m.desc.arg2 % 2 ^ 32)))) ∧
      (whole = false → n ≠ c + 1 → (n ≠ c ∨ swept = true) →
        exec (.jobResume k block) s = .next (complete s k m.id { status := 0x1C, result := c }))) ∧
    (mgmtHead s n opJobEvict = some m →
      exec (.jobEvict n block sigOk devOk) s = .next (if sbFails s block opJobEvict 4 s.gth.mgmtCtr sigOk devOk
        then completeMgmt s n m.id { status := 0x23 }
        else completeMgmt (evict (mgmtAccept s block) (sbPayload block % 16)) n m.id { status := 0 }))

/-- O48. Protection transfers (R328 to R332, R338). A DELTA is applied by its holder, once, and acknowledged; a spare that has not been rebuilt
only acknowledges it. DACK and MACK retire what they acknowledge. A block of the module that this one mirrors is written and acknowledged.
A SAG report is counted, and raises suspicion, with an event, for each shared group with another sag within 2 ms; the first report since the
registers were cleared is kept. An RB_REQ is answered by either holder with the unit that it can form and both map bits. A transfer that is
not acknowledged is sent again. The model's choices in it: log 27, 28, 38. -/
def Obligations.ProtectionTransfers : Prop :=
  ∀ (s t : State) (n p r i j : Nat) (k : Packet) (pt : ProtTable) (units : StripeRead) (x : ProtTx),
    let ok (kind : Nat) : Prop := portUp (s.tport n) = true ∧ k.dest = s.trl.pos ∧ k.ty = 1 ∧ acceptPkt s n k = (some p, t) ∧
      rankAt (t.job p) k.src = some r ∧ 0xFFF0 ≤ k.chan ∧ phKind k.body = kind
    let b := k.body
    let sh := pt.shards.getD i {}
    let isQ := sh.members.getD (posQ (phIndex b)) 1024 == (t.job p).rank
    let isP := sh.members.getD (posP (phIndex b)) 1024 == (t.job p).rank
    (ok 1 → protTab t p = some pt → groupShard pt (phGroup b) = some i → (isP = true ∨ isQ = true) →
      exec (.protectionDelta n k) s =
        .next (sendProt (if (t.prot p).spare then t else applyDelta t p r i sh isQ b) p (replyTx 2 r b)) ∧
      (deltaSeen (t.prot p) (phStep b) (mapKey i (phIndex b) (phSlot b) isQ) r (phIndex b) (phPass b) = true →
        applyDelta t p r i sh isQ b = t)) ∧
    (ok 2 →
      let t1 := dropTx t p 1 (phGroup b) (phIndex b) r
      exec (.dack n k) s = .next (settleUpd (t1.setUpd p { t1.upd p with eng := (t1.upd p).eng.map (fun e => (e.1, { e.2 with
        unacked := e.2.unacked.filter (· != (phGroup b, phIndex b, r)) })) }) p)) ∧
    (ok 3 → protTab t p = some pt → exec (.mirror n k) s = .next (if r = pt.mirrorFrom
      then sendProt (engWrite t p (pt.mirrorVa + 65538 * phIndex b) ((phData b).take 65538)) p (replyTx 4 r b) else t)) ∧
    (ok 4 → exec (.mack n k) s = .next (landCheck (dropTx t p 3 0 (phIndex b) r) p)) ∧
    (ok 5 →
      let hit := (sharedGroups t p r).filter (sagMatches t p r)
      let y := { t.prot p with
        sags := inc32 (t.prot p).sags, sagAt := Tbl.set (t.prot p).sagAt r t.now, suspect := ((t.prot p).suspect ++ hit).eraseDups }
      let u := t.setProt p (if y.sagV then y else { y with sagV := true, sagCorr := !hit.isEmpty, sagPos := k.src % 1024 })
      exec (.sag n k) s = .next (if hit.isEmpty then u else report u 55 (evtPart 0x026 0 0xFF p (k.src % 1024)))) ∧
    (ok 6 → protTab t p = some pt → groupShard pt (phGroup b) = some i → (isP = true ∨ isQ = true) →
      let rd := engRead t p (parityVa sh (phIndex b) isQ) sh.unitBytes
      let unit := if 8 ≤ phSlot b then formParity sh.unitBytes (phSlot b == 9) units.units
        else if rd.1 then none else formData sh.unitBytes (phSlot b) isQ rd.2.1 units.units
      let own := (mapOf (rd.2.2.prot p) (phStep b)).contains (mapKey i (phIndex b) (phSlot b) isQ)
      exec (.rbReq n k units) s = .next (sendProt rd.2.2 p { replyTx 7 r b with data := rbPayload (mapBits own units.other isQ) unit })) ∧
    ((s.prot p).tx[j]? = some x → exec (.protectionResend p j) s = .next (sendTx s p x))

/-- O49. REBUILD (R338 to R340). In its turn each mode asks for its credit and begins with it, or is refused for a missing image, an absent
bed, an unmapped list of records, a listed record of an absent die or an unmapped parameter block, in this order, or for mode 0; one that
runs goes on. A formed unit that arrives is stored and no longer asked for; with a check record that disagrees the rebuild fails; a data
unit that its P-holder cannot form is asked of the Q-holder, and any other such unit ends the rebuild. The model's choices in it: log 19,
28, 65. -/
def Obligations.Rebuilds : Prop :=
  ∀ (s t : State) (k n p r : Nat) (pk : Packet) (m : Cmd) (block list : Bytes) (peers : PeerRead) (pt : ProtTable) (rb : Rebuild) (u : RbUnit)
      (checksOk : Bool),
    (∀ (c : Instr) (mode : Nat) (roll : Bool) (recs : List (Nat × Nat × Nat)),
      (c, mode, roll, recs) ∈ [(Instr.rebuildMember k block peers, 1, m.desc.arg0 / 2 ^ 32 == peers.step + 1, []),
        (.rebuildRecords k block list, 2, false, (upto (m.desc.params.getD 2 0)).map (fun i =>
          (bits (le64 list (8 * i)) 62 2, bits (le64 list (8 * i)) 48 14, bits (le64 list (8 * i)) 0 48))),
        (.rebuildParity k block, 3, false, [])] →
      issuable s k opRebuild = some m → (s.prot (keyPart k)).rb = none → (s.sched (keyPart k)).eng = none → engTurn s (keyPart k) m = true →
      m.desc.arg0 % 4 = mode →
      let listed := hostMapped s (keyPart k) (m.desc.params.getD 0 0 + m.desc.params.getD 1 0 * 2 ^ 32) (8 * m.desc.params.getD 2 0)
      let mapped := hostMapped s (keyPart k) m.desc.arg1 576
      ((s.ctx k).image = none → exec c s = .next (refuseCmd s k m.id 0x05 0)) ∧
      ((s.ctx k).image.isSome = true → bedGone s k = true → exec c s = .next (refuseCmd s k m.id 0x01 0)) ∧
      ((s.ctx k).image.isSome = true → bedGone s k = false → mode = 2 → listed = false → exec c s = .next (refuseCmd s k m.id 0x06 0)) ∧
      (let absent := recs.any (fun x => decide (dieCount s.var ≤ x.1))
       (s.ctx k).image.isSome = true → bedGone s k = false → (mode = 2 → listed = true) →
        (mode = 2 → absent = true → exec c s = .next (refuseCmd s k m.id 0x01 0)) ∧
        ((mode = 2 → absent = false) →
        (mapped = false → exec c s = .next (refuseCmd s k m.id 0x06 0)) ∧
        (mapped = true → m.phase = .waiting → exec c s = .next (setPhase s k m.id .asking)) ∧
        (mapped = true → m.phase = .granted → exec c s = .next (beginRebuild s k m mode roll block recs))))) ∧
    ((s.prot (keyPart k)).rb = some rb → rb.cmd.1 = k → rb.mode = 1 →
      exec (.rebuildMember k block peers) s = .next (rebuildTry (if rb.roll
        then peers.landings.foldl (fun s x => takeMirror s (keyPart k) x) s else s) (keyPart k))) ∧
    ((s.prot (keyPart k)).rb = some rb → rb.cmd.1 = k → rb.mode = 2 → issuable s k opRebuild = none →
      exec (.rebuildRecords k block list) s = .next (rebuildTry s (keyPart k))) ∧
    ((s.prot (keyPart k)).rb = some rb → rb.cmd.1 = k → rb.mode = 3 →
      exec (.rebuildParity k block) s = .next (rebuildTry s (keyPart k))) ∧
    (issuable s k opRebuild = some m → (s.prot (keyPart k)).rb = none → m.desc.arg0 % 4 = 0 →
      exec (.rebuildParity k block) s = .next (refuseCmd s k m.id 0x05 0)) ∧
    (portUp (s.tport n) = true → pk.dest = s.trl.pos → pk.ty = 1 → acceptPkt s n pk = (some p, t) → rankAt (t.job p) pk.src = some r →
      0xFFF0 ≤ pk.chan → phKind pk.body = 7 → (t.prot p).rb = some rb → protTab t p = some pt →
      rb.todo.find? (fun z => (pt.shards.getD z.shard {}).group == phGroup pk.body && z.sigma == phIndex pk.body && z.role == phSlot pk.body) = some u →
      let x := pt.shards.getD u.shard {}
      let bs := (phData pk.body).drop 16
      let t0 := dropTx t p 6 x.group u.sigma r
      let t1 := storeUnit t0 p rb x u bs
      let runs := exec (.rbData n pk checksOk) s
      (rb.mode = 3 → checksOk = false → runs = .next (endRebuild t0 p 0x1F [u.shard])) ∧
      ((rb.mode = 3 → checksOk = true) → bs = [] → (8 ≤ u.role ∨ u.askQ = true) → runs = .next (endRebuild t0 p 0x1E [u.shard])) ∧
      ((rb.mode = 3 → checksOk = true) → bs = [] → u.role < 8 → u.askQ = false →
        let v := { u with askQ := true }
        runs = .next (askUnit (t0.setProt p { t0.prot p with rb := some { rb with
          todo := rb.todo.map (fun z => if z = u then v else z) } }) p pt rb.nc v)) ∧
      ((rb.mode = 3 → checksOk = true) → bs ≠ [] → runs = .next (rebuildTry (t1.setProt p { t1.prot p with
        rb := some { (t1.prot p).rb.getD rb with
          todo := rb.todo.filter (· != u)
          maps := if 8 ≤ u.role then rb.maps
                  else rb.maps ++ [(x.firstUnit + 8 * (u.sigma / 10) + u.role, leNat (((phData pk.body).drop 8).take 1))] }
        rbDone := satAdd 64 (t1.prot p).rbDone 1 }) p)))

/-- O50. The decode gatherer (R10, R86 to R94). DG_SET takes the lowest free set with a good block, and is refused for an unmapped address, a bad
block, a region of the image that is too small for a tile, and with no set free. DG_JOIN, DG_LEAVE and DG_STEP wait at their set for a
boundary, at which a set with no running sequence always is; a join beyond the capacity of the set or its places is refused, and a leave
cancels a waiting join, or is malformed where its tag is not there. With no gatherer or a withdrawn bed each is refused, DG_SET without an
image and the others for a set that is not the context's too. A row enters the
tile, unless the tile store is full; the tile is dispatched full, at the end of a step or at its deadline, and is delivered when every
target has room. The model's choices in it: log 19, 33, 34, 59, 65. -/
def Obligations.DecodeGatherer : Prop :=
  ∀ (s : State) (k d slot core : Nat) (m : Cmd) (img : Image) (block row : Bytes) (x : DSet) (tl : List (Nat × Bytes))
      (ts : List (List (Nat × Bytes))),
    let p := keyPart k
    let here := dgPresent s.var && !bedGone s k
    (∀ (c : Instr) (op : Nat), (c, op) ∈ [(Instr.dgSet k block, opDgSet), (.dgJoin k, opDgJoin), (.dgLeave k, opDgLeave),
        (.dgStep k, opDgStep)] → issuable s k op = some m → here = false → exec c s = .next (refuseCmd s k m.id 0x01 0)) ∧
    (issuable s k opDgSet = some m → here = true → (s.ctx k).image = none → exec (.dgSet k block) s = .next (refuseCmd s k m.id 0x05 0)) ∧
    (∀ (c : Instr) (op : Nat), (c, op) ∈ [(Instr.dgJoin k, opDgJoin), (.dgLeave k, opDgLeave), (.dgStep k, opDgStep)] →
      issuable s k op = some m → here = true → (∀ y, Tbl.find s.units.dsets (m.desc.arg0 % 64) = some y → y.key ≠ k) →
      exec c s = .next (refuseCmd s k m.id 0x05 0)) ∧
    (issuable s k opDgSet = some m → here = true → (s.ctx k).image = some img →
      let y := parseDset k block
      let small := (cfRegs img y.task y.region).any (fun w => decide ((cfSizeM1 w + 1) * 4096 < tileBytesOf y))
      let free := (upto 64).find? (fun d => (Tbl.find s.units.dsets d).isNone)
      let runs := exec (.dgSet k block) s
      let mapped := hostMapped s p m.desc.arg0 64
      (mapped = false → runs = .next (refuseCmd s k m.id 0x06 0)) ∧
      (mapped = true → badDset s k block = true → runs = .next (refuseCmd s k m.id 0x05 0)) ∧
      (mapped = true → badDset s k block = false → small = true → runs = .next (refuseCmd s k m.id 0x03 0)) ∧
      (mapped = true → badDset s k block = false → small = false → free = none → runs = .next (refuseCmd s k m.id 0x24 0)) ∧
      (∀ e, mapped = true → badDset s k block = false → small = false → free = some e →
        runs = .next (complete (setDset s e y) k m.id { status := 0, result := e }))) ∧
    (let a := m.desc.arg0 % 64
     let tag := m.desc.arg1 % 2 ^ 32
     let kv := m.desc.arg1 / 2 ^ 32 % 2 ^ 32 * x.kvPer
     let waits (y : DSet) : State := setPhase (setDset s a y) k m.id .issued
     let settled (t : State) : State := if x.slots.isEmpty then boundaryTry t a else t
     here = true → Tbl.find s.units.dsets a = some x → x.key = k →
     (issuable s k opDgJoin = some m →
       (kv ≤ x.kvCap → x.joins.length < 1024 →
         exec (.dgJoin k) s = .next (settled (waits { x with joins := x.joins ++ [({ tag := tag, kv := kv }, m.id)] }))) ∧
       (x.kvCap < kv → exec (.dgJoin k) s = .next (complete s k m.id { status := 0x13 })) ∧
       (kv ≤ x.kvCap → 1024 ≤ x.joins.length → exec (.dgJoin k) s = .next (complete s k m.id { status := 0x24 }))) ∧
     (issuable s k opDgLeave = some m →
       let mine := x.slots.filter (fun q => q.2.tag == tag)
       let stays := mine.find? (fun q => !x.leaves.any (fun l => l.1 == q.1))
       let joins := x.joins.find? (fun j => j.1.tag == tag)
       let leave (i : Nat) : State := waits { x with leaves := x.leaves ++ [(i, m.id)] }
       (∀ q, stays = some q → exec (.dgLeave k) s = .next (leave q.1)) ∧
       (∀ j, stays = none → joins = some j → exec (.dgLeave k) s = .next (complete (complete
         (setDset s a { x with joins := x.joins.filter (fun y => y.2 != j.2) }) k j.2 { status := 0x0A }) k m.id { status := 0 })) ∧
       (∀ q l, stays = none → joins = none → mine = q :: l → exec (.dgLeave k) s = .next (leave q.1)) ∧
       (joins = none → mine = [] → exec (.dgLeave k) s = .next (complete s k m.id { status := 0x05 }))) ∧
     (issuable s k opDgStep = some m →
       exec (.dgStep k) s = .next (settled (waits { x with steps := x.steps ++ [m.id] })))) ∧
    (Tbl.find s.units.dsets d = some x → Tbl.find x.slots slot ≠ none → x.came.contains slot = false →
      let full := x.tile.isEmpty && decide (16777216 < storeUsed s + tileBytesOf x)
      let y := { x with tile := x.tile ++ [(slot, padTo x.row row)], came := slot :: x.came }
      (full = true → exec (.decodeRowArrival d slot core row) s =
        .next (if (s.core core).cmd.isSome then s.setCore core ((s.core core).stall 3 1) else s)) ∧
      (full = false → exec (.decodeRowArrival d slot core row) s =
        .next (if y.tile.length = 128 ∨ (y.slots.all (fun q => y.came.contains q.1)) = true then dispatchTile (setDset s d y) d
          else setDset s d y))) ∧
    (Tbl.find s.units.dsets d = some x → x.tile ≠ [] → exec (.deadlineExpiry d) s =
      .next (boundaryTry (setDset s d { x with tile := [], tiles := x.tiles ++ [x.tile] }) d)) ∧
    (Tbl.find s.units.dsets d = some x → x.tiles = tl :: ts →
      let cores := targetCores s x
      (cores ≠ [] → cores.all (coreTakes s x) = true → exec (.gatheredTileDelivery d) s =
        .next (cores.foldl (putRows x (tileImage x tl)) (setDset s d { x with tiles := ts }))) ∧
      ((cores = [] ∨ cores.all (coreTakes s x) = false) → exec (.gatheredTileDelivery d) s = .next s))

/-! ### The Gatehouse -/

/-- O51. Attestation (R377, R378, R387). At an endpoint whose responder is reached each request is answered in its order, and one out of order
with UnexpectedRequest; a certificate slot above 1 and an index with no measurement are answered with InvalidRequest. GET_MEASUREMENTS gives
the number of blocks, all of them, or the one of an index, of which 1 to 6 are always there. KEY_EXCHANGE opens a session, of at most four,
on a module that is not locked; a session is up after FINISH, which ends it where the data are wrong, and is kept alive, rekeyed and ended.
The model's choices in it: log 42, 60. -/
def Obligations.Attestation : Prop :=
  ∀ (s : State) (e : Endpoint) (slot index id : Nat),
    let x := spdmOf s e
    let bad (req code : Nat) : Res := .next (answer s req (0x100 + code) [] false)
    hasResponder s e = true →
    exec (.getVersion e) s = .next (answer (setSpdm s e { version := true }) 0x84 0 [(0, natLe 2 0x1300)] false) ∧
    (x.version = true → exec (.getCapabilities e) s = .next (answer (setSpdm s e { x with caps := true }) 0xE1 0 capBlocks false)) ∧
    (x.version = false → exec (.getCapabilities e) s = bad 0xE1 4) ∧
    (x.caps = true → exec (.negotiateAlgorithms e) s = .next (answer (setSpdm s e { x with algs := true }) 0xE3 0 algBlocks false)) ∧
    (x.caps = false → exec (.negotiateAlgorithms e) s = bad 0xE3 4) ∧
    (x.algs = true →
      exec (.getDigests e) s = .next (answer s 0x81 0 [(0, digest (chain s 0)), (1, digest (chain s 1))] false) ∧
      (slot < 2 → exec (.getCertificate e slot) s = .next (answer s 0x82 0 [(slot, chain s slot)] false) ∧
        exec (.challenge e slot) s = .next (answer s 0x83 0 [(slot, digest (chain s slot))] true)) ∧
      (2 ≤ slot → exec (.getCertificate e slot) s = bad 0x82 1 ∧ exec (.challenge e slot) s = bad 0x83 1) ∧
      exec (.getMeasurements e 0) s = .next (answer s 0xE0 0 [(0, natLe 1 (measurements s e).length)] true) ∧
      exec (.getMeasurements e 0xFF) s = .next (answer s 0xE0 0 (measurements s e) true) ∧
      (index ≠ 0 → index ≠ 0xFF →
        let bs := (measurements s e).filter (fun m => m.1 == index)
        (bs ≠ [] → exec (.getMeasurements e index) s = .next (answer s 0xE0 0 bs true)) ∧
        (bs = [] → exec (.getMeasurements e index) s = bad 0xE0 1)) ∧
      (1 ≤ index → index ≤ 6 → ∃ m, (measurements s e).filter (fun m => m.1 == index) = [(index, m)]) ∧
      (s.lockedLike = false → x.sessions.length < 4 →
        ∃ u, exec (.keyExchange e) s = .next u ∧
          (spdmOf u e).sessions = { id := s.gth.sessGen + 1, up := false, beat := s.now } :: x.sessions ∧
          u.gth.sessGen = s.gth.sessGen + 1 ∧ u.gth.resp.signed = true ∧ { u with gth := s.gth } = s ∧
          { u.gth with spdm := s.gth.spdm, sessGen := s.gth.sessGen, resp := s.gth.resp } = s.gth) ∧
      (s.lockedLike = false → 4 ≤ x.sessions.length → exec (.keyExchange e) s = bad 0xE4 0x0A)) ∧
    (s.lockedLike = true → exec (.keyExchange e) s = bad 0xE4 4) ∧
    (x.algs = false → exec (.getDigests e) s = bad 0x81 4 ∧ exec (.getCertificate e slot) s = bad 0x82 4 ∧
      exec (.challenge e slot) s = bad 0x83 4 ∧ exec (.getMeasurements e index) s = bad 0xE0 4 ∧ exec (.keyExchange e) s = bad 0xE4 4) ∧
    (sessionIn s e id false = true →
      exec (.finish e id true) s = .next (answer (updSession s e id (fun y => { y with up := true })) 0xE5 0 [] false) ∧
      exec (.finish e id false) s = .next (answer (dropSession s e id) 0xE5 0x101 [] false)) ∧
    (sessionIn s e id true = true →
      exec (.heartbeat e id) s = .next (answer (updSession s e id (fun y => { y with beat := s.now })) 0xE8 0 [] false) ∧
      exec (.keyUpdate e id) s = .next (answer (updSession s e id (fun y => { y with keys := y.keys + 1 })) 0xE9 0 [] false) ∧
      exec (.endSession e id) s = .next (answer (dropSession s e id) 0xEC 0 [] false))

/-- O52. IDE keys and the vendor-defined requests in a session (R379, R380, R381). A key set is programmed, where a VF has no second stream,
started, stopped and listed. A tenant's keys and a context's command key are set once: the same keys again are answered OK, others with
result 2. The head of a usage chain is returned, and result 4 where there is none. PARTITION_ERASE erases a partition with nothing open,
and answers result 3 otherwise. While a layout switch that changes the partition is under way, TENANT_SETUP and BIND_CONTEXT answer result 1 (R447).
The model's choices in it: log 43. -/
def Obligations.SessionRequests : Prop :=
  ∀ (s : State) (fn : Fn) (port id st ks vf key p q : Nat) (pl : Bytes),
    let c := leNat (pl.take 1)
    let k := 64 * p + c
    let reply (r : Nat) : Res := .next (answer s 0xFE r [] false)
    let done (l : List IdeKey) : Res := .next (answer { s with gth := { s.gth with ide := l } } 0xFE 0 [] false)
    let key1 : IdeKey := { port := port, stream := st, kset := ks, vf := vf, key := key, active := false }
    let second := s.gth.ide.any (fun i => i.port == port && ((i.vf == vf) != (i.stream == st)))
    (ideSession s port id = true →
      (vf ≤ 64 → ks < 2 → second = false →
        exec (.keyProg port id st ks vf key) s = done (key1 :: s.gth.ide.filter (fun i => !sameSet port st ks i))) ∧
      ((64 < vf ∨ 2 ≤ ks ∨ second = true) → exec (.keyProg port id st ks vf key) s = reply 4) ∧
      (s.gth.ide.any (sameSet port st ks) = true →
        exec (.kSetGo port id st ks) s = done (s.gth.ide.map (fun i => if sameSet port st ks i then { i with active := true } else i))) ∧
      (s.gth.ide.any (sameSet port st ks) = false → exec (.kSetGo port id st ks) s = reply 1) ∧
      exec (.kSetStop port id st ks) s = done (s.gth.ide.filter (fun i => !sameSet port st ks i)) ∧
      exec (.query port id) s = .next (answer s 0xFE 0 ((s.gth.ide.filter (fun i => i.port == port)).map (fun i =>
        (i.stream, natLe 1 i.kset ++ natLe 1 i.vf ++ natLe 1 (b2n i.active)))) false)) ∧
    (vendorPart s port vf id = some p →
      (pl.length = 129 → (pl.drop 32).getD 0 0 = 4 → slotSwitching s p = true → exec (.tenantSetup port vf id pl) s = reply 1) ∧
      (pl.length = 33 → slotSwitching s p = true → exec (.bindContext port vf id pl) s = reply 1) ∧
      (pl.length = 129 → (pl.drop 32).getD 0 0 = 4 → slotSwitching s p = false →
        let ptk := leNat (pl.take 32)
        let jck := pl.drop 32
        ((slotKeys s p).ptk = none →
          exec (.tenantSetup port vf id pl) s = .next (answer { s with gth := { s.gth with
            slots := Tbl.set s.gth.slots p { slotKeys s p with ptk := some ptk, jck := some jck } } } 0xFE 0 [] false)) ∧
        ((slotKeys s p).ptk.isSome = true → exec (.tenantSetup port vf id pl) s =
          reply (if (slotKeys s p).ptk = some ptk ∧ (slotKeys s p).jck = some jck then 0 else 2))) ∧
      (pl.length = 33 → slotSwitching s p = false → c < 64 → ((s.ctx k).state = .open ∨ (s.ctx k).state = .stopped) → (s.ctx k).q.sqFmt = 2 → (s.ctx k).vf = vf →
        ((s.ctx k).keyed = false → exec (.bindContext port vf id pl) s =
          .next (answer (s.setCtx k { s.ctx k with keyed := true, key := leNat (pl.drop 1) }) 0xFE 0 [] false)) ∧
        ((s.ctx k).keyed = true → exec (.bindContext port vf id pl) s = reply 2)) ∧
      (pl.length = 1 → c < 64 →
        (∀ r, (useOf s k).last = some r → exec (.getUsageHead port vf id pl) s = .next (answer s 0xFE 0 [(0, useBytes r)] false)) ∧
        ((useOf s k).last = none → exec (.getUsageHead port vf id pl) s = reply 4))) ∧
    (erasePart s fn id q = some p →
      (openKeys s p = [] → tdiHeld s p = false →
        ∃ u, exec (.partitionErase fn id q) s = .next u ∧ u = answer (cryptoErase s p) 0xFE 0 [] false ∧
          (u.job p).valid = false ∧ (u.xlate p).stack = [] ∧ (u.xlate p).host = [] ∧
          ∀ a, inFrames (s.entry p) a.1 = true → a ∉ u.mems.stk.bytes) ∧
      ((openKeys s p ≠ [] ∨ tdiHeld s p = true) → exec (.partitionErase fn id q) s = reply 3))

/-- O53. Signed time and bed commands, tamper events and usage records (R10, R346, R383 to R386, R390 to R392, R415). A TIME_SET that
verifies steps the clock; a BED_WITHDRAW that verifies makes a usable bed unusable, and of any other bed answers UNIT_ABSENT; one that does
not verify is refused. A tamper event is logged and recorded as an event, and is answered by its alarm level: from level 1 on with 48 V the
level-1 response, and from level 2 on the module is locked, its configuration keys are gone and its sessions have ended. A boundary emits a
record of every open interval and skips none while the store has room; the oldest waiting record of a port enters its ring where there is a
place. The model's choices in it: log 19, 35, 44, 45, 78. -/
def Obligations.GatehouseRecords : Prop :=
  ∀ (s : State) (n b : Nat) (m : Cmd) (block : Bytes) (sigOk devOk : Bool) (u : UseRec),
    let pay := sbPayload block
    (mgmtHead s n opTimeSet = some m →
      let t := stepClock (mgmtAccept s block) pay
      (sbFails s block opTimeSet 64 s.gth.mgmtCtr sigOk devOk = false →
        exec (.timeSet n block sigOk devOk) s = .next (completeMgmt t n m.id { status := 0 }) ∧ t.alm.time = pay ∧ t.alm.unset = false) ∧
      (sbFails s block opTimeSet 64 s.gth.mgmtCtr sigOk devOk = true →
        exec (.timeSet n block sigOk devOk) s = .next (completeMgmt s n m.id { status := 0x23 }))) ∧
    (mgmtHead s n opBedWithdraw = some m →
      let t := withdrawBed (mgmtAccept s block) (pay % 16)
      (sbFails s block opBedWithdraw 4 s.gth.mgmtCtr sigOk devOk = false →
        (bit s.cfg.bedUsable (pay % 16) = true →
          exec (.bedWithdraw n block sigOk devOk) s = .next (completeMgmt t n m.id { status := 0 }) ∧ bit t.cfg.bedUsable (pay % 16) = false) ∧
        (bit s.cfg.bedUsable (pay % 16) = false →
          exec (.bedWithdraw n block sigOk devOk) s = .next (completeMgmt s n m.id { status := 0x01, notStarted := true }))) ∧
      (sbFails s block opBedWithdraw 4 s.gth.mgmtCtr sigOk devOk = true →
        exec (.bedWithdraw n block sigOk devOk) s = .next (completeMgmt s n m.id { status := 0x23 }))) ∧
    (b % 32 ≠ 0 →
      let level := s.gth.level
      let t1 := { s with gth := { s.gth with
        tamper := s.gth.tamper ||| (b % 32), onBackup := !s.boot.rails
        tlog := Tbl.set s.gth.tlog s.gth.tlogNext
          { time := s.alm.time, valid := true, unset := s.alm.unset, backup := !s.boot.rails, sensors := b % 32, level := level }
        tlogNext := (s.gth.tlogNext + 1) % 8 } }
      let e := evtNone 0x040 (if level = 0 then 0 else if level = 1 then 1 else 3) 0xFF (level % 4 * 32 + b % 32)
      let t := if s.boot.rails = false then noteEvent t1 52 e else if 1 ≤ level then tamperResponse (report t1 52 e) else report t1 52 e
      exec (.tamperEvent b) s = .next (if 2 ≤ level then { t with gth := { t.gth with
        keyStore := false, locked := true, spdm := t.gth.spdm.map (fun x => (x.1, { x.2 with sessions := [] })) } } else t)) ∧
    (s.gth.boundary + 1 ≤ s.alm.time / 60000000000 →
      ∃ t, exec (.usageBoundary) s = .next t ∧ t.gth.boundary = s.gth.boundary + 1 ∧ { t with gth := s.gth } = s ∧
        { t.gth with store := s.gth.store, seq := s.gth.seq, uses := s.gth.uses, skips := s.gth.skips, boundary := s.gth.boundary } = s.gth ∧
        (unreserved s + (usageKeys s).length ≤ 3072 → (usageKeys s).Nodup → t.gth.skips = s.gth.skips ∧
          ∀ k ∈ usageKeys s, (useOf s k).isOpen = true →
            ∃ x ∈ t.gth.store, x.kind = 2 ∧ 64 * x.part + x.ctx = k ∧ x.serial = (useOf s k).serial ∧ x.t0 = (useOf s k).t0 ∧
              x.t1 = (s.gth.boundary + 1) * 60000000000 ∧ x.coreNs = (useOf s k).coreNs ∧ x.stack = (useOf s k).stack ∧
              x.host = (useOf s k).host ∧ x.trellis = (useOf s k).trellis ∧ x.energy = (useOf s k).energy)) ∧
    (let r := Tbl.get {} s.gth.rings n
     s.gth.store.find? (ofPort s n) = some u → (s.port n).up = true → r.enable = true → 6 ≤ r.log2 → r.log2 ≤ 16 →
     (r.tail + 1) % 2 ^ r.log2 ≠ r.head % 2 ^ r.log2 →
     ∃ t, exec (.usageRingWrite n) s = .next t ∧
       t.mems.host = (s.hostWrite n (r.base + 256 * r.tail) (useBytes u)).mems.host ∧
       t.gth.store = s.gth.store.filter (fun x => x.seq != u.seq) ∧
       Tbl.get {} t.gth.rings n = { r with tail := (r.tail + 1) % 2 ^ r.log2 } ∧
       t.irqs = { port := n, vf := 0, vector := r.vector } :: s.irqs ∧
       { t with mems := { t.mems with host := s.mems.host }, gth := { t.gth with store := s.gth.store, rings := s.gth.rings }
                irqs := s.irqs } = s)

/-! ### The Almanac -/

/-- O54. The input and the power frame (R394 to R397, R401 to R403). A sample measures the input and its conditions over time; 20 µs below the
threshold is a sag event, of which every partition with a protected job tells its partners, and 1 ms above it ends it; the power-fail
sequence switches the rails off and keeps the flash and the clock. The frame follows its edges, is lost by an edge out of range or without
edges, runs by itself while it is lost, and is followed again after eight good edges; its home slot makes the heavy starts that wait
eligible. After the power-fail sequence the reservoir is empty and the test access port holds IDCODE, which is the model's choice
(R456, R460; log 48, PRESUMED). The model's choices in it: log 13, 38, 48. -/
def Obligations.InputAndFrame : Prop :=
  ∀ (s : State) (vin iin pd v : Nat),
    let a := s.alm
    let f := a.frame
    let put (g : Frame) : State := { s with alm := { a with frame := g } }
    (∃ u, exec (.inputSample vin iin pd) s = .next u ∧ u.now = s.now + 10000 ∧ u.alm.time = (a.time + 10000) % 2 ^ 64 ∧
      u.alm.inp.vin = vin ∧ u.alm.inp.iin = iin ∧
      u.alm.inp.sagUs = (if vin < a.pw.sagMv then a.inp.sagUs + 10 else 0) ∧
      u.alm.inp.upUs = (if a.pw.sagMv + 1000 ≤ vin then a.inp.upUs + 10 else 0) ∧
      u.alm.inp.lowUs = (if vin < 40000 then a.inp.lowUs + 10 else 0) ∧
      u.alm.inp.absUs = (if iin = 0 then a.inp.absUs + 10 else 0) ∧
      u.alm.inp.highUs = (if 60000 < vin then a.inp.highUs + 10 else 0) ∧
      u.alm.inp.overI = (decide (8000 < iin) || (a.inp.overI && decide (7600 ≤ iin))) ∧
      u.mems = s.mems ∧ (∀ n, { u.core n with tasks := (s.core n).tasks } = s.core n) ∧ u.units.lnt = s.units.lnt ∧ u.trl = s.trl ∧ u.lay = s.lay ∧ u.boot = s.boot ∧
      u.pins = s.pins ∧ (s.boot.rails = false → { u with now := s.now, alm := a } = s)) ∧
    (s.boot.rails = true →
      (a.sag = false → 20 ≤ a.inp.sagUs → ∃ u, exec (.sagEvent) s = .next u ∧
        u = (upto 16).foldl ownSag { s with alm := { a with sag := true, sags := inc32 a.sags, sagTime := a.time } } ∧
        u.alm.sag = true ∧ u.alm.sags = inc32 a.sags ∧ u.alm.sagTime = a.time) ∧
      (powerFails a.inp = true → ∃ u, exec (.powerFailSequence) s = .next u ∧
        (let w := noteEvent s 53 (evtNone 0x033 3 0xFF (if 1000 ≤ a.inp.highUs then 1 else 0))
         let x := coldState (linksDown (fun s k => endContext s k 32) (stopJobs w))
         u = { x with alm := { x.alm with phys := 0 }, pins := { x.pins with ir := 2 } }) ∧ u.boot.rails = false ∧ u.boot.done = false ∧
        u.units.cores = [] ∧ u.parts.ctxs = [] ∧ u.boot.flash = s.boot.flash ∧ u.alm.time = a.time) ∧
      (500 ≤ v → v ≤ 10000 →
        let l := (v :: f.ivals).take 8
        (f.lost = false → exec (.frameEdge v) s = .next (put { f with ivals := l, period := meanOf l, since := 0, home := false })) ∧
        (f.lost = true → f.good < 8 → exec (.frameEdge v) s = .next (put { f with ivals := l, good := f.good + 1 })) ∧
        (f.lost = true → 8 ≤ f.good → exec (.frameEdge v) s =
          .next (put { f with lost := false, ivals := l, good := 0, period := meanOf l, since := 0, home := false }))) ∧
      ((v < 500 ∨ 10000 < v) →
        (f.lost = false → exec (.frameEdge v) s = .next (loseFrame s 0)) ∧
        (f.lost = true → exec (.frameEdge v) s = .next (put { f with ivals := [], good := 0 }))) ∧
      (f.lost = false → 12500 ≤ f.since → exec (.frameTimeout) s = .next (loseFrame s f.since)) ∧
      (f.lost = true → a.pw.frameDef ≤ f.since →
        exec (.internalFrameEdge) s = .next (put { f with since := f.since - a.pw.frameDef, home := false })) ∧
      (f.home = false → a.pw.offset * f.period ≤ 16 * f.since →
        exec (.homeSlotStart) s = .next { s with alm := { a with
          frame := { f with home := true }
          eligible := (a.eligible ++ (upto 16).flatMap (heavyReady s)).eraseDups } })) ∧
    (a.sag = true → 1000 ≤ a.inp.upUs → exec (.sagEventEnd) s = .next { s with alm := { a with sag := false } })

/-- O55. Energy credit (R404, R405, R407 to R410). A tick takes the measurements, advances the thermal model of each die, the effective cap
and the frame credit, meters what ran, and then grants. No grant takes more than the credit, and none passes over a due request that does
not fit. A command that has waited its time or been bypassed four times becomes due, and while one is due and cannot be granted nothing else
is. The model's choices in it: log 13, 36, 37. -/
def Obligations.EnergyCredit : Prop :=
  ∀ (s : State) (i : TickIn) (k id : Nat) (m : Cmd) (r : Request),
    let a := s.alm
    let t := modelTick s i
    let cap : Rat := (1000 * a.pw.depthJ : Nat)
    (s.boot.rails = true →
      let m := (upto 16).foldl (fun s p => if (s.entry p).used then meterTick s i p else s) t
      let u := grantAll (waitTick { m with alm := { m.alm with ran := [], late := [], samples := 0 } })
      exec (.almanacTick i) s = .next { u with alm := clockTick u.var u.alm }) ∧
    (t.alm.tin = i.tin ∧ t.alm.measured = true ∧ t.alm.charge = t.alm.phys ∧ t.alm.peff = effCap a.pw.cap i.tin ∧
      t.alm.bfr = (if cap < a.bfr + t.alm.peff / 10 then cap else a.bfr + t.alm.peff / 10) ∧
      ∀ d, d < dieCount s.var → Tbl.get 0 t.alm.tdie d = dieTick i (Tbl.get 0 a.tdie d) d) ∧
    (grantable s r = true → (r.est : Rat) ≤ a.bfr ∧ (r.est : Rat) ≤ bth s ∧ (doGrant s r).alm.bfr = a.bfr - r.est) ∧
    (i.tin ≤ 720 → effCap a.pw.cap i.tin = a.pw.cap) ∧ (880 ≤ i.tin → effCap a.pw.cap i.tin = 0) ∧
    (a.dueQ.contains (k, id) = false → (allWaiters s).any (fun r => r.key == k && r.cmd == id) = true →
      (s.ctx k).q.cmds.find? (fun m => m.id == id) = some m → (a.pw.dueUs ≤ m.waitUs ∨ 4 ≤ m.bypass) →
      let t := updCmd s k id (fun m => { m with due := true })
      exec (.commandDue k id) s = .next { t with alm := { t.alm with
        dueQ := t.alm.dueQ ++ [(k, id)], dueCnt := inc32 t.alm.dueCnt } }) ∧
    (∀ rs, dueIn s (allWaiters s) = r :: rs → asksNow s r = false ∨ grantable s r = false → grantAll s = s)

/-! ### The Belvedere and the check units -/

/-- O56. Events (R419 to R426): the oldest buffered event is taken, sets its bit of the fault word and enters the history; a lost heartbeat is
a FATAL event; ALIVE toggles while the module works. The model's choices in it: log 41. -/
def Obligations.Events : Prop :=
  ∀ (s : State) (line n : Nat) (e : Evt) (es : List Evt),
    (Tbl.get [] s.blv.bufs line = e :: es →
      exec (.belvedereEvent line) s = .next (takeEvent { s with blv := { s.blv with bufs := Tbl.set s.blv.bufs line es } } line e)) ∧
    ((noteEvent s line e).blv.fault = s.blv.fault ||| 2 ^ line ∧
      Tbl.get 0 (noteEvent s line e).blv.hist s.blv.head = histEntry s line e ∧
      (noteEvent s line e).blv.head = (s.blv.head + 1) % 16 ∧ (noteEvent s line e).blv.events = satAdd 64 s.blv.events 1 ∧
      (e.sev = 3 → (noteEvent s line e).blv.fatal = true ∧ (noteEvent s line e).blv.lastFatal = histEntry s line e) ∧
      { noteEvent s line e with blv := s.blv, irqs := s.irqs } = s) ∧
    (takeEvent s line e =
      (let t := if e.code = 0x041 then withdrawBed (noteEvent s line e) (e.unit / 16) else noteEvent s line e
       if e.sev = 3 then fatalStop t else t)) ∧
    (n % 8 ≠ 0 → s.boot.rails = true → s.pins.resetLow = false →
      ∃ l u, l ∈ [52, 53, 55] ∧ exec (.heartbeatLost n) s = .next u ∧ u = takeEvent s l (evtNone 0x050 3 0xFF (n % 8)) ∧
        (noteEvent s l (evtNone 0x050 3 0xFF (n % 8))).blv.fatal = true) ∧
    (aliveOk s = true → exec (.aliveToggle) s = .next { s with blv := { s.blv with alive := !s.blv.alive } })

/-- O57. Check units (R432, R433, R434, R435, R437): START opens a record, a feed enters the queue in its width, END closes the record with
its result. A RESET, an assignment, a crypto-erase and a cold start reset the unit, and only a RESET keeps its configuration. The operand
that counts the feeds, and what END leaves of CHK_EXP and CHK_RES, are the model's choices: log 40. -/
def Obligations.CheckUnits : Prop :=
  ∀ (s : State) (fn : Fn) (port u v alive : Nat),
    let c := s.chk u
    let cleared (d : ChkUnit) : Prop :=
      d.isOpen = false ∧ d.queue = [] ∧ d.base = false ∧ d.last = 0 ∧ d.errs6 = 0 ∧ d.recs = 0 ∧ d.errCnt = 0
    let others (t : State) : Prop := { t with units := { t.units with chk := s.units.chk } } = s
    let sameCfg (d e : ChkUnit) : Prop := d.alvIn = e.alvIn ∧ d.irqEn = e.irqEn ∧ d.vector = e.vector ∧ d.alg = e.alg
    (ownsUnit s fn u = true →
      (c.isOpen = false → ∃ t, exec (.chkStart fn u alive 0) s = .next t ∧
        t.chk u = { c with isOpen := true, crc := crcInit c.alg, rcv := alive % 256, setBits := 0
                           queue := if c.alvIn then [natLe 1 (alive % 256)] else [] } ∧ others t ∧ ∀ w, w ≠ u → t.chk w = s.chk w) ∧
      (∀ (i : Instr) (n : Nat), (i, n) ∈ [(Instr.chkD8 fn u v 0, 1), (.chkD16 fn u v 0, 2), (.chkD32 fn u v 0, 4)] →
        c.isOpen = true → c.queue.length < 16 →
        ∃ t, exec i s = .next t ∧ t.chk u = { c with queue := c.queue ++ [natLe n (v % 2 ^ (8 * n))] } ∧ others t ∧
          ∀ w, w ≠ u → t.chk w = s.chk w) ∧
      (c.isOpen = true → c.queue.length ≤ 16 →
        ∃ t, exec (.chkEnd fn u 0) s = .next t ∧ others { t with blv := s.blv, irqs := s.irqs } ∧ (∀ w, w ≠ u → t.chk w = s.chk w) ∧
          sameCfg (t.chk u) c ∧ (t.chk u).base = true ∧
          (t.chk u).last = (if c.base = true ∧ c.rcv = c.last then c.last else c.rcv) ∧ (t.chk u).isOpen = false ∧ (t.chk u).queue = [] ∧
          (t.chk u).res = crcOut c.alg (c.queue.foldl (crcFeed c.alg) c.crc) ∧ (t.chk u).recs = inc32 c.recs ∧
          (bit (t.chk u).errs6 0 = true ∨ c.exp % 2 ^ crcWidth c.alg = (t.chk u).res)) ∧
      (∃ t, exec (.chkReset fn u) s = .next t ∧ others t ∧ (∀ w, w ≠ u → t.chk w = s.chk w) ∧ cleared (t.chk u) ∧ sameCfg (t.chk u) c ∧
        (t.chk u).toPart = c.toPart ∧ (t.chk u).port = c.port ∧ (t.chk u).part = c.part)) ∧
    (bit (hostMask s.var) port = true → s.shut = false → u < 32 → c.isOpen = false →
      ∃ t, exec (.chkAssign (.mgmt port) u v) s = .next t ∧ others t ∧ cleared (t.chk u) ∧ sameCfg (t.chk u) {} ∧
        (t.chk u).toPart = bit v 31 ∧ (t.chk u).port = bits v 8 2 ∧ (t.chk u).part = bits v 0 4 ∧ ∀ w, w ≠ u → t.chk w = s.chk w) ∧
    (c.toPart = true → cleared ((cryptoErase s c.part).chk u) ∧ sameCfg ((cryptoErase s c.part).chk u) {}) ∧
    cleared ((railsUp s).chk u) ∧ sameCfg ((railsUp s).chk u) {}

/-! ### Starting and stopping the module -/

/-- O58. Cold starts, the warm restart and the loss of power (R374, R438, R443, R444, R446, R455): what each begins with; identity, flash
and the backup domain are kept. A row of the same kind goes on with a Daybreak that is under way, in the steps it reaches (log 80). A backup
cell is exhausted only after 30 days without 48 V (R5); that it leaves the other backup registers is log 45 (DEDUCED); that RESET_N writes
no usage record is log 44 (DEDUCED). The model's choices in it: log 9, 44, 45, 46, 79, 80. -/
def Obligations.StartsAndResets : Prop :=
  ∀ (s : State) (b : BootIn),
    (s.boot.rails = false → 100000 ≤ s.alm.inp.okUs → s.pins.resetLow = true →
      exec (.inputQualifies b) s = .next (railsUp s) ∧ (railsUp s).boot.rails = true ∧ (railsUp s).boot.flash = s.boot.flash) ∧
    (s.boot.rails = false → 100000 ≤ s.alm.inp.okUs → s.pins.resetLow = false →
      let t := railsUp s
      exec (.inputQualifies b) s = .next (bootOn b t)) ∧
    (booting s false = true → exec (.inputQualifies b) s = .next (bootOn b s) ∧ exec (.resetNRelease b) s = .next (bootOn b s)) ∧
    (booting s true = true → exec (.warmRestart b) s = .next (bootOn b s)) ∧ (b.upTo ≤ s.boot.step → bootOn b s = s) ∧
    (s.boot.rails = true → ∃ u, exec (.resetNAssert) s = .next u ∧
      (let x := coldState s
       u = { x with alm := { s.alm with grants := [], dueQ := [], eligible := [] }, boot := { x.boot with rails := true }
                    pins := { x.pins with resetLow := true } }) ∧ u.pins.resetLow = true ∧ u.boot.rails = true ∧ u.boot.done = false ∧
      u.parts.ctxs = [] ∧ u.gth.store = s.gth.store ∧ u.gth.tlog = s.gth.tlog) ∧
    (s.boot.rails = true → s.pins.resetLow = true →
      let t := railsUp { s with pins := { s.pins with resetLow := false } }
      exec (.resetNRelease b) s = .next (bootOn b (bootOne b t 2))) ∧
    (warmOk s = true →
      let t := if s.boot.warming = true then s else warmStop s
      exec (.warmRestart b) s = .next (if (upto 16).any (exempt t) then t else warmBoot t b)) ∧
    (warmOk s = false → booting s true = false → exec (.warmRestart b) s = .next s) ∧
    ((s.boot.rails = true ∨ s.alm.spent < 30 * 86400 * 10 ^ 9) → exec (.backupCellExhausted) s = .next s) ∧
    (s.boot.rails = false → 30 * 86400 * 10 ^ 9 ≤ s.alm.spent → exec (.backupCellExhausted) s = .next { s with
      gth := { s.gth with keyStore := false, locked := true, spdm := s.gth.spdm.map (fun x => (x.1, { x.2 with sessions := [] })) }
      alm := { s.alm with unset := true, spent := backupNs } })

/-- O59. The configuration flash, the pins and the test access port (R448, R455 to R459): an erase sets every byte of its sector to FFH; a
program clears bits; neither begins while one runs or in the accepted bank, and one that fails reaches no byte but its own; the pins and the
port's instructions, of which every code outside the table is BYPASS. A scan of the boundary register captures the pins and takes its 37
cells, which drive ALIVE and its capture in EXTEST with RESET_N low. The model's choices in it: log 47, 48, 81. -/
def Obligations.FlashAndPins : Prop :=
  ∀ (s : State) (fn : Fn) (v n a : Nat) (jobs : List Nat),
    let b := s.boot
    (flashFn s fn = true → b.flBusy = false → (b.bank = 0 ∨ b.bank ≠ b.flTarget + 1) →
      exec (.sectorErase fn) s = .next { s with boot := { b with
        flBusy := true, flOp := some (1, flashAddr s (b.flAddr / 65536 * 65536)) } } ∧
      exec (.pageProgram fn) s = .next { s with boot := { b with
        flBusy := true, flOp := some (2, flashAddr s ((b.flAddr + 0x10000000 - 4) % 0x10000000 / 256 * 256)) } }) ∧
    (flashFn s fn = true → (b.flBusy = true ∨ (b.bank ≠ 0 ∧ b.bank = b.flTarget + 1)) →
      exec (.sectorErase fn) s = .next { s with boot := { b with flErr := true } } ∧
      exec (.pageProgram fn) s = .next { s with boot := { b with flErr := true } }) ∧
    (b.flOp = some (n, a) → ∃ u, exec (.flashOperationComplete false) s = .next u ∧ u.boot.flBusy = false ∧ u.boot.flErr = true ∧
      { u with freeCount := s.freeCount, boot := { u.boot with flash := b.flash, flBusy := b.flBusy, flErr := b.flErr, flOp := b.flOp } } = s ∧
      ∀ i, (i < a ∨ a + (if n = 1 then 65536 else 256) ≤ i) → flashByte u i = flashByte s i) ∧
    (flashFn s fn = true → exec (.cfgFlData fn v) s = .next { s with boot := { b with
      flBuf := Mem.wrN b.flBuf (b.flAddr / 4 * 4 % 256) (natLe 4 v), flAddr := (b.flAddr + 4) % 0x10000000 } }) ∧
    (b.flOp = some (1, a) → ∃ u, exec (.flashOperationComplete true) s = .next u ∧ u.boot.flBusy = false ∧
      { u with boot := { u.boot with flash := b.flash, flBusy := b.flBusy, flOp := b.flOp } } = s ∧
      (∀ i, i < 65536 → flashByte u (a + i) = 0xFF) ∧ (∀ i, (i < a ∨ a + 65536 ≤ i) → flashByte u i = flashByte s i)) ∧
    (b.flOp = some (2, a) → ∃ u, exec (.flashOperationComplete true) s = .next u ∧ u.boot.flBusy = false ∧
      { u with boot := { u.boot with flash := b.flash, flBusy := b.flBusy, flOp := b.flOp } } = s ∧
      (∀ i, i < 256 → flashByte u (a + i) = flashByte s (a + i) &&& Mem.rd b.flBuf i) ∧
      (∀ i, (i < a ∨ a + 256 ≤ i) → flashByte u i = flashByte s i)) ∧
    (bit (hostMask s.var) n = true → n < 4 → s.pins.perstLow.contains n = false →
      let t := { s with pins := { s.pins with perstLow := n :: s.pins.perstLow } }
      exec (.perstNAssert n) s = .next (if (s.port n).up then linkDown resetContext t n else t)) ∧
    (s.pins.perstLow.contains n = true → s.boot.rails = true → 6 ≤ b.step →
      exec (.perstNRelease n) s = .next (linkUp { s with pins := { s.pins with perstLow := s.pins.perstLow.filter (· != n) } } n)) ∧
    (n < 4 → s.pins.cables.contains n = false →
      exec (.cableSeated n) s = .next { s with pins := { s.pins with cables := n :: s.pins.cables } }) ∧
    (s.pins.cables.contains n = true → ∃ u, exec (.cableRemoved n jobs) s = .next u ∧
      u = [4 * n, 4 * n + 1, 4 * n + 2, 4 * n + 3].foldl (cablePort jobs)
        { s with pins := { s.pins with cables := s.pins.cables.filter (· != n) } } ∧ u.pins.cables = s.pins.cables.filter (· != n) ∧
      ∀ q, q < 4 → portUp (u.tport (4 * n + q)) = false) ∧
    (s.boot.rails = true →
      exec (.idcode) s = .next { s with pins := { s.pins with ir := 2 }, readOut := s.cfg.rev % 16 * 2 ^ 28 + 0x04B5454B } ∧
      (tapIr 0 = .extest ∧ tapIr 1 = .sample ∧ tapIr 2 = .idcode ∧ ∀ code, 3 ≤ code → tapIr code = .bypass) ∧
      (∃ u, exec (.bypass) s = .next u ∧ tapIr u.pins.ir = .bypass ∧ 3 ≤ u.pins.ir ∧ u.pins.ir < 16 ∧ u.readOut = 0 ∧
        { u with freeCount := s.freeCount, readOut := s.readOut, pins := { u.pins with ir := s.pins.ir } } = s) ∧
      exec (.testLogicReset) s = .next { s with pins := { s.pins with ir := 2 } } ∧
      ∀ (x : Instr) (code : Nat), (x, code) ∈ [(Instr.extest ⟨v, a⟩, 0), (.samplePreload ⟨v, a⟩, 1)] → ∃ u, exec x s = .next u ∧
        u.pins = { s.pins with ir := code, boundary := v % 2 ^ 37 } ∧ { u with pins := s.pins, readOut := s.readOut } = s ∧
        u.readOut < 2 ^ 37 ∧ bit u.readOut 25 = !s.pins.resetLow ∧
        (∀ i, i < 37 → ¬ (22 ≤ i ∧ i ≤ 25) → i ≠ 27 → i ≠ 28 → (i < 22 → i % 2 = 1) → i < 29 → bit u.readOut i = bit a i) ∧
        (∀ i, i < 4 → bit u.readOut (29 + i) = !s.pins.perstLow.contains i ∧ bit u.readOut (33 + i) = !s.pins.cables.contains i) ∧
        bit u.readOut 22 = (if code = 0 ∧ s.pins.resetLow = true then bit s.pins.boundary 22 && bit s.pins.boundary 23 else s.blv.alive))

/-! ### The control window, and the state after reset -/

/-- O60. Registers (R16 to R18, R424, R461) and the state after reset: a write acts on the place its function and offset name, and is
discarded where they name none; an access of 8 bytes is two accesses of 4, and one of another width or off its width writes nothing and reads
zero (R461); reading the low half of a counter latches the high half, which the next read of it returns and uses up; reading word 0 of a
history entry, by whichever row, latches the rest. After reset the rails are off, no command waits or runs, and nothing is loaded or stored.
The model's choices in it: log 9, 11. -/
def Obligations.RegistersAndReset : Prop :=
  (∀ (s : State) (fn : Fn) (a v n e : Nat) (x : Place),
    (∀ w, ((w ≠ 4 ∧ w ≠ 8) ∨ a % w ≠ 0) →
      exec (.registerWrite fn ⟨a, w⟩ v) s = .next s ∧ exec (.counterLowHalfRead fn ⟨a, w⟩) s = .next { s with readOut := 0 }) ∧
    (a % 8 = 0 → ∀ u t, exec (.registerWrite fn ⟨a, 4⟩ v) s = .next u → exec (.counterLowHalfRead fn ⟨a, 4⟩) s = .next t →
      exec (.registerWrite fn ⟨a, 8⟩ v) s = exec (.registerWrite fn ⟨a + 4, 4⟩ (v / 2 ^ 32)) u ∧
      ∀ h, exec (.counterLowHalfRead fn ⟨a + 4, 4⟩) t = .next h →
        exec (.counterLowHalfRead fn ⟨a, 8⟩) s = .next { h with readOut := t.readOut + 2 ^ 32 * h.readOut }) ∧
    (a % 4 = 0 → place s fn a = some x → exec (.registerWrite fn ⟨a, 4⟩ v) s = .next (writePlace s fn (v % 2 ^ 32) x)) ∧
    (a % 4 = 0 → place s fn a = none → exec (.registerWrite fn ⟨a, 4⟩ v) s = .next s) ∧
    (a % 4 = 0 → place s fn a = some x → counterLow x = true → tdiShut s (isMgmt fn) x = false →
      ∃ u, exec (.counterLowHalfRead fn ⟨a, 4⟩) s = .next u ∧ u = { s with
          readOut := readLive s (isMgmt fn) x
          latch := Tbl.set s.latch (placeOff (nextPlace x)) (readLive s (isMgmt fn) (nextPlace x)) } ∧ u.readOut = readLive s (isMgmt fn) x ∧
        Tbl.find u.latch (placeOff (nextPlace x)) = some (readLive s (isMgmt fn) (nextPlace x))) ∧
    (a % 4 = 0 → place s fn a = some x → counterLow x = false → tdiShut s (isMgmt fn) x = false →
      let t : State := { s with
        readOut := (match Tbl.find s.latch (placeOff x) with | some h => h | none => readLive s (isMgmt fn) x)
        latch := Tbl.del s.latch (placeOff x) }
      let held (i : Nat) : State := { t with blv := { s.blv with latch := Tbl.set s.blv.latch i (Tbl.get 0 s.blv.hist i / 2 ^ 32) } }
      (∀ m i, i < 16 → x = .blv m (0x100 + 16 * i) → exec (.counterLowHalfRead fn ⟨a, 4⟩) s = .next (held i)) ∧
      ((∀ m i, i < 16 → x ≠ .blv m (0x100 + 16 * i)) → exec (.counterLowHalfRead fn ⟨a, 4⟩) s = .next t)) ∧
    (bit (hostMask s.var) n = true → e < 16 →
      exec (.historyWord0Read (.mgmt n) e) s = .next { s with
        readOut := Tbl.get 0 s.blv.hist e % 2 ^ 32
        blv := { s.blv with latch := Tbl.set s.blv.latch e (Tbl.get 0 s.blv.hist e / 2 ^ 32) } })) ∧
  (let r := State.reset
   r.pending = [] ∧ r.boot.rails = false ∧ r.boot.done = false ∧ r.parts.ctxs = [] ∧ r.units.cores = [] ∧ r.units.lnt = [] ∧
   r.mems.stk.bytes = [] ∧ r.gth.locked = false ∧ r.gth.store = [] ∧ r.blv.fault = 0 ∧ (∀ n, (r.core n).cmd = none) ∧
   (∀ n, (r.tport n).state = 0) ∧ (∀ k, (r.ctx k).state = .closed))

end
end

