-- ==== Sys2Proof/Laws/Tbl.lean ====
section
/-! SUPPORT. Sys2Proof/Laws/Tbl.lean: the laws of tables and byte memories: reading after writing, and the canonical form that
every operation keeps. -/
namespace Sys2Proof.Machine

variable {α : Type}

/-! ### Tables -/

@[simp] theorem Tbl.find_nil (n : Nat) : Tbl.find ([] : Tbl α) n = none := rfl

@[simp] theorem Tbl.get_nil (d : α) (n : Nat) : Tbl.get d [] n = d := rfl

/-- A set key reads as the value set. -/
@[simp] theorem Tbl.find_set_same (t : Tbl α) (n : Nat) (v : α) : Tbl.find (Tbl.set t n v) n = some v := by
  induction t with
  | nil => simp [Tbl.set, Tbl.find]
  | cons h t ih =>
    obtain ⟨k, w⟩ := h
    simp only [Tbl.set]
    split
    · simp [Tbl.find]
    · split
      · simp [Tbl.find]
      · rename_i h1 h2; simp [Tbl.find, h2, ih]

/-- Another key reads as before. -/
theorem Tbl.find_set_ne (t : Tbl α) {n m : Nat} (v : α) (h : m ≠ n) : Tbl.find (Tbl.set t n v) m = Tbl.find t m := by
  induction t with
  | nil => simp [Tbl.set, Tbl.find, h]
  | cons x t ih =>
    obtain ⟨k, w⟩ := x
    simp only [Tbl.set]
    split
    · simp [Tbl.find, h]
    · split
      · rename_i h1 h2; subst h2; simp [Tbl.find, h]
      · simp [Tbl.find, ih]

@[simp] theorem Tbl.get_set_same (d : α) (t : Tbl α) (n : Nat) (v : α) : Tbl.get d (Tbl.set t n v) n = v := by
  simp [Tbl.get]

theorem Tbl.get_set_ne (d : α) (t : Tbl α) {n m : Nat} (v : α) (h : m ≠ n) : Tbl.get d (Tbl.set t n v) m = Tbl.get d t m := by
  simp [Tbl.get, Tbl.find_set_ne t v h]

/-- The later of two writes to a key stands. -/
@[simp] theorem Tbl.set_set (t : Tbl α) (n : Nat) (v w : α) : Tbl.set (Tbl.set t n v) n w = Tbl.set t n w := by
  induction t with
  | nil => simp [Tbl.set]
  | cons x t ih =>
    obtain ⟨k, u⟩ := x
    simp only [Tbl.set]
    split
    · simp [Tbl.set]
    · split
      · simp [Tbl.set]
      · rename_i h1 h2; simp [Tbl.set, h1, h2, ih]

/-- Writes to different keys commute. -/
theorem Tbl.set_comm (t : Tbl α) {n m : Nat} (v w : α) (h : n ≠ m) :
    Tbl.set (Tbl.set t n v) m w = Tbl.set (Tbl.set t m w) n v := by
  induction t with
  | nil =>
    rcases Nat.lt_or_gt_of_ne h with hl | hl
    · have : ¬ m < n := by omega
      have h2 : m ≠ n := h.symm
      simp [Tbl.set, hl, this, h2]
    · have : ¬ n < m := by omega
      simp [Tbl.set, hl, this, h]
  | cons x t ih =>
    obtain ⟨k, u⟩ := x
    rcases Nat.lt_trichotomy n k with a | a | a <;> rcases Nat.lt_trichotomy m k with b | b | b
    · rcases Nat.lt_or_gt_of_ne h with hl | hl
      · have h1 : ¬ m < n := by omega
        have h2 : m ≠ n := h.symm
        simp [Tbl.set, a, b, hl, h1, h2]
      · have h1 : ¬ n < m := by omega
        simp [Tbl.set, a, b, hl, h1, h]
    · subst b
      have h1 : ¬ m < n := by omega
      have h2 : m ≠ n := h.symm
      simp [Tbl.set, a, h1, h2]
    · have h1 : ¬ m < n := by omega
      have h2 : m ≠ n := h.symm
      have h3 : ¬ m < k := by omega
      have h4 : m ≠ k := by omega
      simp [Tbl.set, a, h1, h2, h3, h4]
    · subst a
      have h1 : ¬ n < m := by omega
      simp [Tbl.set, b, h1, h]
    · omega
    · subst a
      have h1 : ¬ m < n := by omega
      have h2 : m ≠ n := h.symm
      simp [Tbl.set, h1, h2]
    · have h1 : ¬ n < m := by omega
      have h3 : ¬ n < k := by omega
      have h4 : n ≠ k := by omega
      simp [Tbl.set, b, h1, h3, h4, h]
    · subst b
      have h1 : ¬ n < m := by omega
      simp [Tbl.set, h1, h]
    · have h1 : ¬ n < k := by omega
      have h2 : ¬ m < k := by omega
      have h3 : n ≠ k := by omega
      have h4 : m ≠ k := by omega
      simp [Tbl.set, h1, h2, h3, h4, ih]

/-- Every key of a rising table lies above a bound below its first. -/
theorem Tbl.rising_cons {k : Nat} {v : α} {t : Tbl α} :
    Tbl.rising ((k, v) :: t) = true ↔ (∀ x ∈ t, k < x.1) ∧ Tbl.rising t = true := by
  induction t generalizing k v with
  | nil => simp [Tbl.rising]
  | cons x t ih =>
    obtain ⟨b, w⟩ := x
    simp only [Tbl.rising, Bool.and_eq_true, decide_eq_true_eq]
    constructor
    · rintro ⟨h1, h2⟩
      refine ⟨?_, h2⟩
      intro y hy
      rcases List.mem_cons.mp hy with rfl | hy
      · exact h1
      · exact Nat.lt_trans h1 ((ih.mp h2).1 y hy)
    · rintro ⟨h1, h2⟩
      exact ⟨h1 (b, w) (by simp), h2⟩

theorem Tbl.mem_set {t : Tbl α} {n : Nat} {v : α} {x : Nat × α} (h : x ∈ Tbl.set t n v) : x = (n, v) ∨ x ∈ t := by
  induction t with
  | nil => simp [Tbl.set] at h; exact .inl h
  | cons y t ih =>
    obtain ⟨k, w⟩ := y
    simp only [Tbl.set] at h
    split at h
    · simpa using h
    · split at h
      · rcases List.mem_cons.mp h with rfl | h
        · exact .inl rfl
        · exact .inr (List.mem_cons_of_mem _ h)
      · rcases List.mem_cons.mp h with rfl | h
        · exact .inr (by simp)
        · rcases ih h with rfl | h
          · exact .inl rfl
          · exact .inr (List.mem_cons_of_mem _ h)

theorem Tbl.mem_del {t : Tbl α} {n : Nat} {x : Nat × α} (h : x ∈ Tbl.del t n) : x ∈ t := by
  induction t with
  | nil => simp [Tbl.del] at h
  | cons y t ih =>
    obtain ⟨k, w⟩ := y
    simp only [Tbl.del] at h
    split at h
    · exact List.mem_cons_of_mem _ (ih h)
    · rcases List.mem_cons.mp h with rfl | h
      · simp
      · exact List.mem_cons_of_mem _ (ih h)

/-- A write keeps the keys rising. -/
theorem Tbl.rising_set {t : Tbl α} (n : Nat) (v : α) (h : Tbl.rising t = true) : Tbl.rising (Tbl.set t n v) = true := by
  induction t with
  | nil => simp [Tbl.set, Tbl.rising]
  | cons x t ih =>
    obtain ⟨k, w⟩ := x
    obtain ⟨h1, h2⟩ := Tbl.rising_cons.mp h
    simp only [Tbl.set]
    split
    · rename_i hl
      refine Tbl.rising_cons.mpr ⟨?_, h⟩
      intro y hy
      rcases List.mem_cons.mp hy with rfl | hy
      · exact hl
      · exact Nat.lt_trans hl (h1 y hy)
    · split
      · rename_i hl he
        subst he
        exact Tbl.rising_cons.mpr ⟨h1, h2⟩
      · rename_i hl he
        refine Tbl.rising_cons.mpr ⟨?_, ih h2⟩
        intro y hy
        rcases Tbl.mem_set hy with rfl | hy
        · simp only; omega
        · exact h1 y hy

/-- A removal keeps the keys rising. -/
theorem Tbl.rising_del {t : Tbl α} (n : Nat) (h : Tbl.rising t = true) : Tbl.rising (Tbl.del t n) = true := by
  induction t with
  | nil => simp [Tbl.del, Tbl.rising]
  | cons x t ih =>
    obtain ⟨k, w⟩ := x
    obtain ⟨h1, h2⟩ := Tbl.rising_cons.mp h
    simp only [Tbl.del]
    split
    · exact ih h2
    · exact Tbl.rising_cons.mpr ⟨fun y hy => h1 y (Tbl.mem_del hy), ih h2⟩

theorem Tbl.rising_filter {t : Tbl α} (p : Nat × α → Bool) (h : Tbl.rising t = true) : Tbl.rising (t.filter p) = true := by
  induction t with
  | nil => simp [Tbl.rising]
  | cons x t ih =>
    obtain ⟨k, w⟩ := x
    obtain ⟨h1, h2⟩ := Tbl.rising_cons.mp h
    rw [List.filter_cons]
    split
    · exact Tbl.rising_cons.mpr ⟨fun y hy => h1 y (List.mem_filter.mp hy).1, ih h2⟩
    · exact ih h2

@[simp] theorem Tbl.find_del_same (t : Tbl α) (n : Nat) : Tbl.find (Tbl.del t n) n = none := by
  induction t with
  | nil => rfl
  | cons x t ih =>
    obtain ⟨k, w⟩ := x
    simp only [Tbl.del]
    split
    · exact ih
    · rename_i he; simp [Tbl.find, he, ih]

theorem Tbl.find_del_ne (t : Tbl α) {n m : Nat} (h : m ≠ n) : Tbl.find (Tbl.del t n) m = Tbl.find t m := by
  induction t with
  | nil => rfl
  | cons x t ih =>
    obtain ⟨k, w⟩ := x
    simp only [Tbl.del]
    split
    · rename_i he; subst he; simp [Tbl.find, h, ih]
    · simp [Tbl.find, ih]

/-- An entry of a table is in it. -/
theorem Tbl.mem_of_find {t : Tbl α} {n : Nat} {v : α} (h : Tbl.find t n = some v) : (n, v) ∈ t := by
  induction t with
  | nil => simp at h
  | cons x t ih =>
    obtain ⟨k, w⟩ := x
    simp only [Tbl.find] at h
    split at h
    · rename_i he; subst he; simp at h; subst h; simp
    · exact List.mem_cons_of_mem _ (ih h)

/-! ### Byte memories -/

theorem Mem.wf_wr {m : Mem} (a : Nat) (b : Byte) (h : Mem.wf m = true) : Mem.wf (Mem.wr m a b) = true := by
  simp only [Mem.wf, Bool.and_eq_true, List.all_eq_true, decide_eq_true_eq] at h ⊢
  obtain ⟨h1, h2⟩ := h
  unfold Mem.wr
  split
  · exact ⟨Tbl.rising_del a h1, fun x hx => h2 x (Tbl.mem_del hx)⟩
  · rename_i hb
    refine ⟨Tbl.rising_set a b h1, fun x hx => ?_⟩
    rcases Tbl.mem_set hx with rfl | hx
    · exact hb
    · exact h2 x hx

/-- Writing bytes keeps the canonical form. -/
theorem Mem.wf_wrN (bs : Bytes) {m : Mem} (a : Nat) (h : Mem.wf m = true) : Mem.wf (Mem.wrN m a bs) = true := by
  induction bs generalizing m a with
  | nil => exact h
  | cons b bs ih => exact ih (a + 1) (Mem.wf_wr a b h)

/-- Zeroing a range keeps the canonical form. -/
theorem Mem.wf_zero {m : Mem} (a n : Nat) (h : Mem.wf m = true) : Mem.wf (Mem.zero m a n) = true := by
  simp only [Mem.wf, Bool.and_eq_true, List.all_eq_true, decide_eq_true_eq] at h ⊢
  exact ⟨Tbl.rising_filter _ h.1, fun x hx => h.2 x (List.mem_filter.mp hx).1⟩

theorem Mem.wf_nil : Mem.wf [] = true := rfl

/-- A byte written reads back. -/
@[simp] theorem Mem.rd_wr_same (m : Mem) (a : Nat) (b : Byte) : Mem.rd (Mem.wr m a b) a = b := by
  unfold Mem.rd Mem.wr
  split
  · rename_i hb; subst hb; simp [Tbl.get]
  · simp

/-- A write leaves every other byte. -/
theorem Mem.rd_wr_ne (m : Mem) {a c : Nat} (b : Byte) (h : c ≠ a) : Mem.rd (Mem.wr m a b) c = Mem.rd m c := by
  unfold Mem.rd Mem.wr
  split
  · simp [Tbl.get, Tbl.find_del_ne m h]
  · exact Tbl.get_set_ne 0 m b h

/-- Writing bytes leaves every byte outside them. -/
theorem Mem.rd_wrN_out (bs : Bytes) (m : Mem) {a c : Nat} (h : c < a ∨ a + bs.length ≤ c) :
    Mem.rd (Mem.wrN m a bs) c = Mem.rd m c := by
  induction bs generalizing m a with
  | nil => rfl
  | cons b bs ih =>
    simp only [List.length_cons] at h
    rw [Mem.wrN, ih _ (by omega), Mem.rd_wr_ne _ _ (by omega)]

/-- Bytes written read back. -/
theorem Mem.rdN_wrN (bs : Bytes) (m : Mem) (a : Nat) : Mem.rdN (Mem.wrN m a bs) a bs.length = bs := by
  induction bs generalizing m a with
  | nil => rfl
  | cons b bs ih =>
    rw [Mem.wrN, List.length_cons, Mem.rdN, ih _ (a + 1), Mem.rd_wrN_out bs _ (by omega), Mem.rd_wr_same]

theorem Mem.rd_zero_out (m : Mem) {a n c : Nat} (h : c < a ∨ a + n ≤ c) : Mem.rd (Mem.zero m a n) c = Mem.rd m c := by
  unfold Mem.rd Mem.zero Tbl.get
  congr 1
  induction m with
  | nil => rfl
  | cons x m ih =>
    obtain ⟨k, w⟩ := x
    rw [List.filter_cons]
    split
    · simp [Tbl.find, ih]
    · rename_i hk
      have hne : c ≠ k := by
        rintro rfl
        apply hk
        simp only [Bool.or_eq_true, decide_eq_true_eq]
        exact h
      rw [ih]
      simp [Tbl.find, hne]

theorem Mem.rd_zero_in (m : Mem) {a n c : Nat} (h1 : a ≤ c) (h2 : c < a + n) : Mem.rd (Mem.zero m a n) c = 0 := by
  unfold Mem.rd Mem.zero Tbl.get
  have : Tbl.find (m.filter (fun c => decide (c.1 < a) || decide (a + n ≤ c.1))) c = none := by
    induction m with
    | nil => rfl
    | cons x m ih =>
      obtain ⟨k, w⟩ := x
      rw [List.filter_cons]
      split
      · rename_i hk
        have hne : c ≠ k := by
          rintro rfl
          simp only [Bool.or_eq_true, decide_eq_true_eq] at hk
          omega
        simp [Tbl.find, hne, ih]
      · exact ih
  rw [this]
  rfl

/-! ### Little-endian numbers -/

@[simp] theorem natLe_length (n v : Nat) : (natLe n v).length = n := by
  induction n generalizing v with
  | zero => rfl
  | succ n ih => simp [natLe, ih]

/-- A number written in n bytes reads back modulo 256^n. -/
theorem leNat_natLe (n v : Nat) : leNat (natLe n v) = v % 256 ^ n := by
  induction n generalizing v with
  | zero => simp [natLe, leNat, Nat.mod_one]
  | succ n ih =>
    rw [natLe, leNat, ih, Nat.pow_succ, Nat.mul_comm (256 ^ n) 256, Nat.mod_mul]
    simp

end Sys2Proof.Machine
end

