-- ==== Sys2Proof/Laws/State.lean ====
section
/-! SUPPORT. Sys2Proof/Laws/State.lean: what each update of the state leaves: every field and every part it does not name reads as
before, and the part it names reads as written. -/
namespace Sys2Proof.Machine

variable (s : State)

/-! ### setCore -/

@[simp] theorem State.setCore_core (n : Nat) (x : Core) : (s.setCore n x).core n = x := by simp [State.setCore, State.core]
theorem State.setCore_core_ne (n : Nat) (x : Core) {m : Nat} (h : m ≠ n) : (s.setCore n x).core m = s.core m := by
  simp [State.setCore, State.core, Tbl.get_set_ne _ _ _ h]
@[simp] theorem State.setCore_setCore (n : Nat) (x : Core) (y) : (s.setCore n x).setCore n y = s.setCore n y := by simp [State.setCore]
@[simp] theorem State.setCore_cfg (n : Nat) (x : Core) : (s.setCore n x).cfg = s.cfg := rfl
@[simp] theorem State.setCore_lay (n : Nat) (x : Core) : (s.setCore n x).lay = s.lay := rfl
@[simp] theorem State.setCore_parts (n : Nat) (x : Core) : (s.setCore n x).parts = s.parts := rfl
@[simp] theorem State.setCore_mems (n : Nat) (x : Core) : (s.setCore n x).mems = s.mems := rfl
@[simp] theorem State.setCore_trl (n : Nat) (x : Core) : (s.setCore n x).trl = s.trl := rfl
@[simp] theorem State.setCore_blv (n : Nat) (x : Core) : (s.setCore n x).blv = s.blv := rfl
@[simp] theorem State.setCore_gth (n : Nat) (x : Core) : (s.setCore n x).gth = s.gth := rfl
@[simp] theorem State.setCore_alm (n : Nat) (x : Core) : (s.setCore n x).alm = s.alm := rfl
@[simp] theorem State.setCore_boot (n : Nat) (x : Core) : (s.setCore n x).boot = s.boot := rfl
@[simp] theorem State.setCore_pins (n : Nat) (x : Core) : (s.setCore n x).pins = s.pins := rfl
@[simp] theorem State.setCore_latch (n : Nat) (x : Core) : (s.setCore n x).latch = s.latch := rfl
@[simp] theorem State.setCore_readOut (n : Nat) (x : Core) : (s.setCore n x).readOut = s.readOut := rfl
@[simp] theorem State.setCore_irqs (n : Nat) (x : Core) : (s.setCore n x).irqs = s.irqs := rfl
@[simp] theorem State.setCore_now (n : Nat) (x : Core) : (s.setCore n x).now = s.now := rfl
@[simp] theorem State.setCore_freeCount (n : Nat) (x : Core) : (s.setCore n x).freeCount = s.freeCount := rfl
@[simp] theorem State.setCore_pending (n : Nat) (x : Core) : (s.setCore n x).pending = s.pending := rfl
@[simp] theorem State.setCore_ctx (n : Nat) (x : Core) (m : Nat) : (s.setCore n x).ctx m = s.ctx m := rfl
@[simp] theorem State.setCore_sched (n : Nat) (x : Core) (m : Nat) : (s.setCore n x).sched m = s.sched m := rfl
@[simp] theorem State.setCore_xlate (n : Nat) (x : Core) (m : Nat) : (s.setCore n x).xlate m = s.xlate m := rfl
@[simp] theorem State.setCore_upd (n : Nat) (x : Core) (m : Nat) : (s.setCore n x).upd m = s.upd m := rfl
@[simp] theorem State.setCore_prot (n : Nat) (x : Core) (m : Nat) : (s.setCore n x).prot m = s.prot m := rfl
@[simp] theorem State.setCore_job (n : Nat) (x : Core) (m : Nat) : (s.setCore n x).job m = s.job m := rfl
@[simp] theorem State.setCore_lnt (n : Nat) (x : Core) (m : Nat) : (s.setCore n x).lnt m = s.lnt m := rfl
@[simp] theorem State.setCore_stkCtl (n : Nat) (x : Core) (m : Nat) : (s.setCore n x).stkCtl m = s.stkCtl m := rfl
@[simp] theorem State.setCore_updReg (n : Nat) (x : Core) (m : Nat) : (s.setCore n x).updReg m = s.updReg m := rfl
@[simp] theorem State.setCore_chk (n : Nat) (x : Core) (m : Nat) : (s.setCore n x).chk m = s.chk m := rfl
@[simp] theorem State.setCore_mq (n : Nat) (x : Core) (m : Nat) : (s.setCore n x).mq m = s.mq m := rfl
@[simp] theorem State.setCore_port (n : Nat) (x : Core) (m : Nat) : (s.setCore n x).port m = s.port m := rfl
@[simp] theorem State.setCore_tport (n : Nat) (x : Core) (m : Nat) : (s.setCore n x).tport m = s.tport m := rfl
@[simp] theorem State.setCore_pool (n : Nat) (x : Core) (m : Nat) : (s.setCore n x).pool m = s.pool m := rfl
@[simp] theorem State.setCore_entry (n : Nat) (x : Core) (m : Nat) : (s.setCore n x).entry m = s.entry m := rfl
@[simp] theorem State.setCore_var (n : Nat) (x : Core) : (s.setCore n x).var = s.var := rfl

/-! ### setCtx -/

@[simp] theorem State.setCtx_ctx (n : Nat) (x : Ctx) : (s.setCtx n x).ctx n = x := by simp [State.setCtx, State.ctx]
theorem State.setCtx_ctx_ne (n : Nat) (x : Ctx) {m : Nat} (h : m ≠ n) : (s.setCtx n x).ctx m = s.ctx m := by
  simp [State.setCtx, State.ctx, Tbl.get_set_ne _ _ _ h]
@[simp] theorem State.setCtx_setCtx (n : Nat) (x : Ctx) (y) : (s.setCtx n x).setCtx n y = s.setCtx n y := by simp [State.setCtx]
@[simp] theorem State.setCtx_cfg (n : Nat) (x : Ctx) : (s.setCtx n x).cfg = s.cfg := rfl
@[simp] theorem State.setCtx_lay (n : Nat) (x : Ctx) : (s.setCtx n x).lay = s.lay := rfl
@[simp] theorem State.setCtx_units (n : Nat) (x : Ctx) : (s.setCtx n x).units = s.units := rfl
@[simp] theorem State.setCtx_mems (n : Nat) (x : Ctx) : (s.setCtx n x).mems = s.mems := rfl
@[simp] theorem State.setCtx_trl (n : Nat) (x : Ctx) : (s.setCtx n x).trl = s.trl := rfl
@[simp] theorem State.setCtx_blv (n : Nat) (x : Ctx) : (s.setCtx n x).blv = s.blv := rfl
@[simp] theorem State.setCtx_gth (n : Nat) (x : Ctx) : (s.setCtx n x).gth = s.gth := rfl
@[simp] theorem State.setCtx_alm (n : Nat) (x : Ctx) : (s.setCtx n x).alm = s.alm := rfl
@[simp] theorem State.setCtx_boot (n : Nat) (x : Ctx) : (s.setCtx n x).boot = s.boot := rfl
@[simp] theorem State.setCtx_pins (n : Nat) (x : Ctx) : (s.setCtx n x).pins = s.pins := rfl
@[simp] theorem State.setCtx_latch (n : Nat) (x : Ctx) : (s.setCtx n x).latch = s.latch := rfl
@[simp] theorem State.setCtx_readOut (n : Nat) (x : Ctx) : (s.setCtx n x).readOut = s.readOut := rfl
@[simp] theorem State.setCtx_irqs (n : Nat) (x : Ctx) : (s.setCtx n x).irqs = s.irqs := rfl
@[simp] theorem State.setCtx_now (n : Nat) (x : Ctx) : (s.setCtx n x).now = s.now := rfl
@[simp] theorem State.setCtx_freeCount (n : Nat) (x : Ctx) : (s.setCtx n x).freeCount = s.freeCount := rfl
@[simp] theorem State.setCtx_pending (n : Nat) (x : Ctx) : (s.setCtx n x).pending = s.pending := rfl
@[simp] theorem State.setCtx_core (n : Nat) (x : Ctx) (m : Nat) : (s.setCtx n x).core m = s.core m := rfl
@[simp] theorem State.setCtx_sched (n : Nat) (x : Ctx) (m : Nat) : (s.setCtx n x).sched m = s.sched m := rfl
@[simp] theorem State.setCtx_xlate (n : Nat) (x : Ctx) (m : Nat) : (s.setCtx n x).xlate m = s.xlate m := rfl
@[simp] theorem State.setCtx_upd (n : Nat) (x : Ctx) (m : Nat) : (s.setCtx n x).upd m = s.upd m := rfl
@[simp] theorem State.setCtx_prot (n : Nat) (x : Ctx) (m : Nat) : (s.setCtx n x).prot m = s.prot m := rfl
@[simp] theorem State.setCtx_job (n : Nat) (x : Ctx) (m : Nat) : (s.setCtx n x).job m = s.job m := rfl
@[simp] theorem State.setCtx_lnt (n : Nat) (x : Ctx) (m : Nat) : (s.setCtx n x).lnt m = s.lnt m := rfl
@[simp] theorem State.setCtx_stkCtl (n : Nat) (x : Ctx) (m : Nat) : (s.setCtx n x).stkCtl m = s.stkCtl m := rfl
@[simp] theorem State.setCtx_updReg (n : Nat) (x : Ctx) (m : Nat) : (s.setCtx n x).updReg m = s.updReg m := rfl
@[simp] theorem State.setCtx_chk (n : Nat) (x : Ctx) (m : Nat) : (s.setCtx n x).chk m = s.chk m := rfl
@[simp] theorem State.setCtx_mq (n : Nat) (x : Ctx) (m : Nat) : (s.setCtx n x).mq m = s.mq m := rfl
@[simp] theorem State.setCtx_port (n : Nat) (x : Ctx) (m : Nat) : (s.setCtx n x).port m = s.port m := rfl
@[simp] theorem State.setCtx_tport (n : Nat) (x : Ctx) (m : Nat) : (s.setCtx n x).tport m = s.tport m := rfl
@[simp] theorem State.setCtx_pool (n : Nat) (x : Ctx) (m : Nat) : (s.setCtx n x).pool m = s.pool m := rfl
@[simp] theorem State.setCtx_entry (n : Nat) (x : Ctx) (m : Nat) : (s.setCtx n x).entry m = s.entry m := rfl
@[simp] theorem State.setCtx_var (n : Nat) (x : Ctx) : (s.setCtx n x).var = s.var := rfl

/-! ### setSched -/

@[simp] theorem State.setSched_sched (n : Nat) (x : Sched) : (s.setSched n x).sched n = x := by simp [State.setSched, State.sched]
theorem State.setSched_sched_ne (n : Nat) (x : Sched) {m : Nat} (h : m ≠ n) : (s.setSched n x).sched m = s.sched m := by
  simp [State.setSched, State.sched, Tbl.get_set_ne _ _ _ h]
@[simp] theorem State.setSched_setSched (n : Nat) (x : Sched) (y) : (s.setSched n x).setSched n y = s.setSched n y := by simp [State.setSched]
@[simp] theorem State.setSched_cfg (n : Nat) (x : Sched) : (s.setSched n x).cfg = s.cfg := rfl
@[simp] theorem State.setSched_lay (n : Nat) (x : Sched) : (s.setSched n x).lay = s.lay := rfl
@[simp] theorem State.setSched_units (n : Nat) (x : Sched) : (s.setSched n x).units = s.units := rfl
@[simp] theorem State.setSched_mems (n : Nat) (x : Sched) : (s.setSched n x).mems = s.mems := rfl
@[simp] theorem State.setSched_trl (n : Nat) (x : Sched) : (s.setSched n x).trl = s.trl := rfl
@[simp] theorem State.setSched_blv (n : Nat) (x : Sched) : (s.setSched n x).blv = s.blv := rfl
@[simp] theorem State.setSched_gth (n : Nat) (x : Sched) : (s.setSched n x).gth = s.gth := rfl
@[simp] theorem State.setSched_alm (n : Nat) (x : Sched) : (s.setSched n x).alm = s.alm := rfl
@[simp] theorem State.setSched_boot (n : Nat) (x : Sched) : (s.setSched n x).boot = s.boot := rfl
@[simp] theorem State.setSched_pins (n : Nat) (x : Sched) : (s.setSched n x).pins = s.pins := rfl
@[simp] theorem State.setSched_latch (n : Nat) (x : Sched) : (s.setSched n x).latch = s.latch := rfl
@[simp] theorem State.setSched_readOut (n : Nat) (x : Sched) : (s.setSched n x).readOut = s.readOut := rfl
@[simp] theorem State.setSched_irqs (n : Nat) (x : Sched) : (s.setSched n x).irqs = s.irqs := rfl
@[simp] theorem State.setSched_now (n : Nat) (x : Sched) : (s.setSched n x).now = s.now := rfl
@[simp] theorem State.setSched_freeCount (n : Nat) (x : Sched) : (s.setSched n x).freeCount = s.freeCount := rfl
@[simp] theorem State.setSched_pending (n : Nat) (x : Sched) : (s.setSched n x).pending = s.pending := rfl
@[simp] theorem State.setSched_core (n : Nat) (x : Sched) (m : Nat) : (s.setSched n x).core m = s.core m := rfl
@[simp] theorem State.setSched_ctx (n : Nat) (x : Sched) (m : Nat) : (s.setSched n x).ctx m = s.ctx m := rfl
@[simp] theorem State.setSched_xlate (n : Nat) (x : Sched) (m : Nat) : (s.setSched n x).xlate m = s.xlate m := rfl
@[simp] theorem State.setSched_upd (n : Nat) (x : Sched) (m : Nat) : (s.setSched n x).upd m = s.upd m := rfl
@[simp] theorem State.setSched_prot (n : Nat) (x : Sched) (m : Nat) : (s.setSched n x).prot m = s.prot m := rfl
@[simp] theorem State.setSched_job (n : Nat) (x : Sched) (m : Nat) : (s.setSched n x).job m = s.job m := rfl
@[simp] theorem State.setSched_lnt (n : Nat) (x : Sched) (m : Nat) : (s.setSched n x).lnt m = s.lnt m := rfl
@[simp] theorem State.setSched_stkCtl (n : Nat) (x : Sched) (m : Nat) : (s.setSched n x).stkCtl m = s.stkCtl m := rfl
@[simp] theorem State.setSched_updReg (n : Nat) (x : Sched) (m : Nat) : (s.setSched n x).updReg m = s.updReg m := rfl
@[simp] theorem State.setSched_chk (n : Nat) (x : Sched) (m : Nat) : (s.setSched n x).chk m = s.chk m := rfl
@[simp] theorem State.setSched_mq (n : Nat) (x : Sched) (m : Nat) : (s.setSched n x).mq m = s.mq m := rfl
@[simp] theorem State.setSched_port (n : Nat) (x : Sched) (m : Nat) : (s.setSched n x).port m = s.port m := rfl
@[simp] theorem State.setSched_tport (n : Nat) (x : Sched) (m : Nat) : (s.setSched n x).tport m = s.tport m := rfl
@[simp] theorem State.setSched_pool (n : Nat) (x : Sched) (m : Nat) : (s.setSched n x).pool m = s.pool m := rfl
@[simp] theorem State.setSched_entry (n : Nat) (x : Sched) (m : Nat) : (s.setSched n x).entry m = s.entry m := rfl
@[simp] theorem State.setSched_var (n : Nat) (x : Sched) : (s.setSched n x).var = s.var := rfl

/-! ### setXlate -/

@[simp] theorem State.setXlate_xlate (n : Nat) (x : Xlate) : (s.setXlate n x).xlate n = x := by simp [State.setXlate, State.xlate]
theorem State.setXlate_xlate_ne (n : Nat) (x : Xlate) {m : Nat} (h : m ≠ n) : (s.setXlate n x).xlate m = s.xlate m := by
  simp [State.setXlate, State.xlate, Tbl.get_set_ne _ _ _ h]
@[simp] theorem State.setXlate_setXlate (n : Nat) (x : Xlate) (y) : (s.setXlate n x).setXlate n y = s.setXlate n y := by simp [State.setXlate]
@[simp] theorem State.setXlate_cfg (n : Nat) (x : Xlate) : (s.setXlate n x).cfg = s.cfg := rfl
@[simp] theorem State.setXlate_lay (n : Nat) (x : Xlate) : (s.setXlate n x).lay = s.lay := rfl
@[simp] theorem State.setXlate_units (n : Nat) (x : Xlate) : (s.setXlate n x).units = s.units := rfl
@[simp] theorem State.setXlate_mems (n : Nat) (x : Xlate) : (s.setXlate n x).mems = s.mems := rfl
@[simp] theorem State.setXlate_trl (n : Nat) (x : Xlate) : (s.setXlate n x).trl = s.trl := rfl
@[simp] theorem State.setXlate_blv (n : Nat) (x : Xlate) : (s.setXlate n x).blv = s.blv := rfl
@[simp] theorem State.setXlate_gth (n : Nat) (x : Xlate) : (s.setXlate n x).gth = s.gth := rfl
@[simp] theorem State.setXlate_alm (n : Nat) (x : Xlate) : (s.setXlate n x).alm = s.alm := rfl
@[simp] theorem State.setXlate_boot (n : Nat) (x : Xlate) : (s.setXlate n x).boot = s.boot := rfl
@[simp] theorem State.setXlate_pins (n : Nat) (x : Xlate) : (s.setXlate n x).pins = s.pins := rfl
@[simp] theorem State.setXlate_latch (n : Nat) (x : Xlate) : (s.setXlate n x).latch = s.latch := rfl
@[simp] theorem State.setXlate_readOut (n : Nat) (x : Xlate) : (s.setXlate n x).readOut = s.readOut := rfl
@[simp] theorem State.setXlate_irqs (n : Nat) (x : Xlate) : (s.setXlate n x).irqs = s.irqs := rfl
@[simp] theorem State.setXlate_now (n : Nat) (x : Xlate) : (s.setXlate n x).now = s.now := rfl
@[simp] theorem State.setXlate_freeCount (n : Nat) (x : Xlate) : (s.setXlate n x).freeCount = s.freeCount := rfl
@[simp] theorem State.setXlate_pending (n : Nat) (x : Xlate) : (s.setXlate n x).pending = s.pending := rfl
@[simp] theorem State.setXlate_core (n : Nat) (x : Xlate) (m : Nat) : (s.setXlate n x).core m = s.core m := rfl
@[simp] theorem State.setXlate_ctx (n : Nat) (x : Xlate) (m : Nat) : (s.setXlate n x).ctx m = s.ctx m := rfl
@[simp] theorem State.setXlate_sched (n : Nat) (x : Xlate) (m : Nat) : (s.setXlate n x).sched m = s.sched m := rfl
@[simp] theorem State.setXlate_upd (n : Nat) (x : Xlate) (m : Nat) : (s.setXlate n x).upd m = s.upd m := rfl
@[simp] theorem State.setXlate_prot (n : Nat) (x : Xlate) (m : Nat) : (s.setXlate n x).prot m = s.prot m := rfl
@[simp] theorem State.setXlate_job (n : Nat) (x : Xlate) (m : Nat) : (s.setXlate n x).job m = s.job m := rfl
@[simp] theorem State.setXlate_lnt (n : Nat) (x : Xlate) (m : Nat) : (s.setXlate n x).lnt m = s.lnt m := rfl
@[simp] theorem State.setXlate_stkCtl (n : Nat) (x : Xlate) (m : Nat) : (s.setXlate n x).stkCtl m = s.stkCtl m := rfl
@[simp] theorem State.setXlate_updReg (n : Nat) (x : Xlate) (m : Nat) : (s.setXlate n x).updReg m = s.updReg m := rfl
@[simp] theorem State.setXlate_chk (n : Nat) (x : Xlate) (m : Nat) : (s.setXlate n x).chk m = s.chk m := rfl
@[simp] theorem State.setXlate_mq (n : Nat) (x : Xlate) (m : Nat) : (s.setXlate n x).mq m = s.mq m := rfl
@[simp] theorem State.setXlate_port (n : Nat) (x : Xlate) (m : Nat) : (s.setXlate n x).port m = s.port m := rfl
@[simp] theorem State.setXlate_tport (n : Nat) (x : Xlate) (m : Nat) : (s.setXlate n x).tport m = s.tport m := rfl
@[simp] theorem State.setXlate_pool (n : Nat) (x : Xlate) (m : Nat) : (s.setXlate n x).pool m = s.pool m := rfl
@[simp] theorem State.setXlate_entry (n : Nat) (x : Xlate) (m : Nat) : (s.setXlate n x).entry m = s.entry m := rfl
@[simp] theorem State.setXlate_var (n : Nat) (x : Xlate) : (s.setXlate n x).var = s.var := rfl

/-! ### setUpd -/

@[simp] theorem State.setUpd_upd (n : Nat) (x : UpdPart) : (s.setUpd n x).upd n = x := by simp [State.setUpd, State.upd]
theorem State.setUpd_upd_ne (n : Nat) (x : UpdPart) {m : Nat} (h : m ≠ n) : (s.setUpd n x).upd m = s.upd m := by
  simp [State.setUpd, State.upd, Tbl.get_set_ne _ _ _ h]
@[simp] theorem State.setUpd_setUpd (n : Nat) (x : UpdPart) (y) : (s.setUpd n x).setUpd n y = s.setUpd n y := by simp [State.setUpd]
@[simp] theorem State.setUpd_cfg (n : Nat) (x : UpdPart) : (s.setUpd n x).cfg = s.cfg := rfl
@[simp] theorem State.setUpd_lay (n : Nat) (x : UpdPart) : (s.setUpd n x).lay = s.lay := rfl
@[simp] theorem State.setUpd_units (n : Nat) (x : UpdPart) : (s.setUpd n x).units = s.units := rfl
@[simp] theorem State.setUpd_mems (n : Nat) (x : UpdPart) : (s.setUpd n x).mems = s.mems := rfl
@[simp] theorem State.setUpd_trl (n : Nat) (x : UpdPart) : (s.setUpd n x).trl = s.trl := rfl
@[simp] theorem State.setUpd_blv (n : Nat) (x : UpdPart) : (s.setUpd n x).blv = s.blv := rfl
@[simp] theorem State.setUpd_gth (n : Nat) (x : UpdPart) : (s.setUpd n x).gth = s.gth := rfl
@[simp] theorem State.setUpd_alm (n : Nat) (x : UpdPart) : (s.setUpd n x).alm = s.alm := rfl
@[simp] theorem State.setUpd_boot (n : Nat) (x : UpdPart) : (s.setUpd n x).boot = s.boot := rfl
@[simp] theorem State.setUpd_pins (n : Nat) (x : UpdPart) : (s.setUpd n x).pins = s.pins := rfl
@[simp] theorem State.setUpd_latch (n : Nat) (x : UpdPart) : (s.setUpd n x).latch = s.latch := rfl
@[simp] theorem State.setUpd_readOut (n : Nat) (x : UpdPart) : (s.setUpd n x).readOut = s.readOut := rfl
@[simp] theorem State.setUpd_irqs (n : Nat) (x : UpdPart) : (s.setUpd n x).irqs = s.irqs := rfl
@[simp] theorem State.setUpd_now (n : Nat) (x : UpdPart) : (s.setUpd n x).now = s.now := rfl
@[simp] theorem State.setUpd_freeCount (n : Nat) (x : UpdPart) : (s.setUpd n x).freeCount = s.freeCount := rfl
@[simp] theorem State.setUpd_pending (n : Nat) (x : UpdPart) : (s.setUpd n x).pending = s.pending := rfl
@[simp] theorem State.setUpd_core (n : Nat) (x : UpdPart) (m : Nat) : (s.setUpd n x).core m = s.core m := rfl
@[simp] theorem State.setUpd_ctx (n : Nat) (x : UpdPart) (m : Nat) : (s.setUpd n x).ctx m = s.ctx m := rfl
@[simp] theorem State.setUpd_sched (n : Nat) (x : UpdPart) (m : Nat) : (s.setUpd n x).sched m = s.sched m := rfl
@[simp] theorem State.setUpd_xlate (n : Nat) (x : UpdPart) (m : Nat) : (s.setUpd n x).xlate m = s.xlate m := rfl
@[simp] theorem State.setUpd_prot (n : Nat) (x : UpdPart) (m : Nat) : (s.setUpd n x).prot m = s.prot m := rfl
@[simp] theorem State.setUpd_job (n : Nat) (x : UpdPart) (m : Nat) : (s.setUpd n x).job m = s.job m := rfl
@[simp] theorem State.setUpd_lnt (n : Nat) (x : UpdPart) (m : Nat) : (s.setUpd n x).lnt m = s.lnt m := rfl
@[simp] theorem State.setUpd_stkCtl (n : Nat) (x : UpdPart) (m : Nat) : (s.setUpd n x).stkCtl m = s.stkCtl m := rfl
@[simp] theorem State.setUpd_updReg (n : Nat) (x : UpdPart) (m : Nat) : (s.setUpd n x).updReg m = s.updReg m := rfl
@[simp] theorem State.setUpd_chk (n : Nat) (x : UpdPart) (m : Nat) : (s.setUpd n x).chk m = s.chk m := rfl
@[simp] theorem State.setUpd_mq (n : Nat) (x : UpdPart) (m : Nat) : (s.setUpd n x).mq m = s.mq m := rfl
@[simp] theorem State.setUpd_port (n : Nat) (x : UpdPart) (m : Nat) : (s.setUpd n x).port m = s.port m := rfl
@[simp] theorem State.setUpd_tport (n : Nat) (x : UpdPart) (m : Nat) : (s.setUpd n x).tport m = s.tport m := rfl
@[simp] theorem State.setUpd_pool (n : Nat) (x : UpdPart) (m : Nat) : (s.setUpd n x).pool m = s.pool m := rfl
@[simp] theorem State.setUpd_entry (n : Nat) (x : UpdPart) (m : Nat) : (s.setUpd n x).entry m = s.entry m := rfl
@[simp] theorem State.setUpd_var (n : Nat) (x : UpdPart) : (s.setUpd n x).var = s.var := rfl

/-! ### setProt -/

@[simp] theorem State.setProt_prot (n : Nat) (x : ProtPart) : (s.setProt n x).prot n = x := by simp [State.setProt, State.prot]
theorem State.setProt_prot_ne (n : Nat) (x : ProtPart) {m : Nat} (h : m ≠ n) : (s.setProt n x).prot m = s.prot m := by
  simp [State.setProt, State.prot, Tbl.get_set_ne _ _ _ h]
@[simp] theorem State.setProt_setProt (n : Nat) (x : ProtPart) (y) : (s.setProt n x).setProt n y = s.setProt n y := by simp [State.setProt]
@[simp] theorem State.setProt_cfg (n : Nat) (x : ProtPart) : (s.setProt n x).cfg = s.cfg := rfl
@[simp] theorem State.setProt_lay (n : Nat) (x : ProtPart) : (s.setProt n x).lay = s.lay := rfl
@[simp] theorem State.setProt_units (n : Nat) (x : ProtPart) : (s.setProt n x).units = s.units := rfl
@[simp] theorem State.setProt_mems (n : Nat) (x : ProtPart) : (s.setProt n x).mems = s.mems := rfl
@[simp] theorem State.setProt_trl (n : Nat) (x : ProtPart) : (s.setProt n x).trl = s.trl := rfl
@[simp] theorem State.setProt_blv (n : Nat) (x : ProtPart) : (s.setProt n x).blv = s.blv := rfl
@[simp] theorem State.setProt_gth (n : Nat) (x : ProtPart) : (s.setProt n x).gth = s.gth := rfl
@[simp] theorem State.setProt_alm (n : Nat) (x : ProtPart) : (s.setProt n x).alm = s.alm := rfl
@[simp] theorem State.setProt_boot (n : Nat) (x : ProtPart) : (s.setProt n x).boot = s.boot := rfl
@[simp] theorem State.setProt_pins (n : Nat) (x : ProtPart) : (s.setProt n x).pins = s.pins := rfl
@[simp] theorem State.setProt_latch (n : Nat) (x : ProtPart) : (s.setProt n x).latch = s.latch := rfl
@[simp] theorem State.setProt_readOut (n : Nat) (x : ProtPart) : (s.setProt n x).readOut = s.readOut := rfl
@[simp] theorem State.setProt_irqs (n : Nat) (x : ProtPart) : (s.setProt n x).irqs = s.irqs := rfl
@[simp] theorem State.setProt_now (n : Nat) (x : ProtPart) : (s.setProt n x).now = s.now := rfl
@[simp] theorem State.setProt_freeCount (n : Nat) (x : ProtPart) : (s.setProt n x).freeCount = s.freeCount := rfl
@[simp] theorem State.setProt_pending (n : Nat) (x : ProtPart) : (s.setProt n x).pending = s.pending := rfl
@[simp] theorem State.setProt_core (n : Nat) (x : ProtPart) (m : Nat) : (s.setProt n x).core m = s.core m := rfl
@[simp] theorem State.setProt_ctx (n : Nat) (x : ProtPart) (m : Nat) : (s.setProt n x).ctx m = s.ctx m := rfl
@[simp] theorem State.setProt_sched (n : Nat) (x : ProtPart) (m : Nat) : (s.setProt n x).sched m = s.sched m := rfl
@[simp] theorem State.setProt_xlate (n : Nat) (x : ProtPart) (m : Nat) : (s.setProt n x).xlate m = s.xlate m := rfl
@[simp] theorem State.setProt_upd (n : Nat) (x : ProtPart) (m : Nat) : (s.setProt n x).upd m = s.upd m := rfl
@[simp] theorem State.setProt_job (n : Nat) (x : ProtPart) (m : Nat) : (s.setProt n x).job m = s.job m := rfl
@[simp] theorem State.setProt_lnt (n : Nat) (x : ProtPart) (m : Nat) : (s.setProt n x).lnt m = s.lnt m := rfl
@[simp] theorem State.setProt_stkCtl (n : Nat) (x : ProtPart) (m : Nat) : (s.setProt n x).stkCtl m = s.stkCtl m := rfl
@[simp] theorem State.setProt_updReg (n : Nat) (x : ProtPart) (m : Nat) : (s.setProt n x).updReg m = s.updReg m := rfl
@[simp] theorem State.setProt_chk (n : Nat) (x : ProtPart) (m : Nat) : (s.setProt n x).chk m = s.chk m := rfl
@[simp] theorem State.setProt_mq (n : Nat) (x : ProtPart) (m : Nat) : (s.setProt n x).mq m = s.mq m := rfl
@[simp] theorem State.setProt_port (n : Nat) (x : ProtPart) (m : Nat) : (s.setProt n x).port m = s.port m := rfl
@[simp] theorem State.setProt_tport (n : Nat) (x : ProtPart) (m : Nat) : (s.setProt n x).tport m = s.tport m := rfl
@[simp] theorem State.setProt_pool (n : Nat) (x : ProtPart) (m : Nat) : (s.setProt n x).pool m = s.pool m := rfl
@[simp] theorem State.setProt_entry (n : Nat) (x : ProtPart) (m : Nat) : (s.setProt n x).entry m = s.entry m := rfl
@[simp] theorem State.setProt_var (n : Nat) (x : ProtPart) : (s.setProt n x).var = s.var := rfl

/-! ### setJob -/

@[simp] theorem State.setJob_job (n : Nat) (x : Job) : (s.setJob n x).job n = x := by simp [State.setJob, State.job]
theorem State.setJob_job_ne (n : Nat) (x : Job) {m : Nat} (h : m ≠ n) : (s.setJob n x).job m = s.job m := by
  simp [State.setJob, State.job, Tbl.get_set_ne _ _ _ h]
@[simp] theorem State.setJob_setJob (n : Nat) (x : Job) (y) : (s.setJob n x).setJob n y = s.setJob n y := by simp [State.setJob]
@[simp] theorem State.setJob_cfg (n : Nat) (x : Job) : (s.setJob n x).cfg = s.cfg := rfl
@[simp] theorem State.setJob_lay (n : Nat) (x : Job) : (s.setJob n x).lay = s.lay := rfl
@[simp] theorem State.setJob_units (n : Nat) (x : Job) : (s.setJob n x).units = s.units := rfl
@[simp] theorem State.setJob_mems (n : Nat) (x : Job) : (s.setJob n x).mems = s.mems := rfl
@[simp] theorem State.setJob_trl (n : Nat) (x : Job) : (s.setJob n x).trl = s.trl := rfl
@[simp] theorem State.setJob_blv (n : Nat) (x : Job) : (s.setJob n x).blv = s.blv := rfl
@[simp] theorem State.setJob_gth (n : Nat) (x : Job) : (s.setJob n x).gth = s.gth := rfl
@[simp] theorem State.setJob_alm (n : Nat) (x : Job) : (s.setJob n x).alm = s.alm := rfl
@[simp] theorem State.setJob_boot (n : Nat) (x : Job) : (s.setJob n x).boot = s.boot := rfl
@[simp] theorem State.setJob_pins (n : Nat) (x : Job) : (s.setJob n x).pins = s.pins := rfl
@[simp] theorem State.setJob_latch (n : Nat) (x : Job) : (s.setJob n x).latch = s.latch := rfl
@[simp] theorem State.setJob_readOut (n : Nat) (x : Job) : (s.setJob n x).readOut = s.readOut := rfl
@[simp] theorem State.setJob_irqs (n : Nat) (x : Job) : (s.setJob n x).irqs = s.irqs := rfl
@[simp] theorem State.setJob_now (n : Nat) (x : Job) : (s.setJob n x).now = s.now := rfl
@[simp] theorem State.setJob_freeCount (n : Nat) (x : Job) : (s.setJob n x).freeCount = s.freeCount := rfl
@[simp] theorem State.setJob_pending (n : Nat) (x : Job) : (s.setJob n x).pending = s.pending := rfl
@[simp] theorem State.setJob_core (n : Nat) (x : Job) (m : Nat) : (s.setJob n x).core m = s.core m := rfl
@[simp] theorem State.setJob_ctx (n : Nat) (x : Job) (m : Nat) : (s.setJob n x).ctx m = s.ctx m := rfl
@[simp] theorem State.setJob_sched (n : Nat) (x : Job) (m : Nat) : (s.setJob n x).sched m = s.sched m := rfl
@[simp] theorem State.setJob_xlate (n : Nat) (x : Job) (m : Nat) : (s.setJob n x).xlate m = s.xlate m := rfl
@[simp] theorem State.setJob_upd (n : Nat) (x : Job) (m : Nat) : (s.setJob n x).upd m = s.upd m := rfl
@[simp] theorem State.setJob_prot (n : Nat) (x : Job) (m : Nat) : (s.setJob n x).prot m = s.prot m := rfl
@[simp] theorem State.setJob_lnt (n : Nat) (x : Job) (m : Nat) : (s.setJob n x).lnt m = s.lnt m := rfl
@[simp] theorem State.setJob_stkCtl (n : Nat) (x : Job) (m : Nat) : (s.setJob n x).stkCtl m = s.stkCtl m := rfl
@[simp] theorem State.setJob_updReg (n : Nat) (x : Job) (m : Nat) : (s.setJob n x).updReg m = s.updReg m := rfl
@[simp] theorem State.setJob_chk (n : Nat) (x : Job) (m : Nat) : (s.setJob n x).chk m = s.chk m := rfl
@[simp] theorem State.setJob_mq (n : Nat) (x : Job) (m : Nat) : (s.setJob n x).mq m = s.mq m := rfl
@[simp] theorem State.setJob_port (n : Nat) (x : Job) (m : Nat) : (s.setJob n x).port m = s.port m := rfl
@[simp] theorem State.setJob_tport (n : Nat) (x : Job) (m : Nat) : (s.setJob n x).tport m = s.tport m := rfl
@[simp] theorem State.setJob_pool (n : Nat) (x : Job) (m : Nat) : (s.setJob n x).pool m = s.pool m := rfl
@[simp] theorem State.setJob_entry (n : Nat) (x : Job) (m : Nat) : (s.setJob n x).entry m = s.entry m := rfl
@[simp] theorem State.setJob_var (n : Nat) (x : Job) : (s.setJob n x).var = s.var := rfl

/-! ### setLnt -/

@[simp] theorem State.setLnt_lnt (n : Nat) (x : Lantern) : (s.setLnt n x).lnt n = x := by simp [State.setLnt, State.lnt]
theorem State.setLnt_lnt_ne (n : Nat) (x : Lantern) {m : Nat} (h : m ≠ n) : (s.setLnt n x).lnt m = s.lnt m := by
  simp [State.setLnt, State.lnt, Tbl.get_set_ne _ _ _ h]
@[simp] theorem State.setLnt_setLnt (n : Nat) (x : Lantern) (y) : (s.setLnt n x).setLnt n y = s.setLnt n y := by simp [State.setLnt]
@[simp] theorem State.setLnt_cfg (n : Nat) (x : Lantern) : (s.setLnt n x).cfg = s.cfg := rfl
@[simp] theorem State.setLnt_lay (n : Nat) (x : Lantern) : (s.setLnt n x).lay = s.lay := rfl
@[simp] theorem State.setLnt_parts (n : Nat) (x : Lantern) : (s.setLnt n x).parts = s.parts := rfl
@[simp] theorem State.setLnt_mems (n : Nat) (x : Lantern) : (s.setLnt n x).mems = s.mems := rfl
@[simp] theorem State.setLnt_trl (n : Nat) (x : Lantern) : (s.setLnt n x).trl = s.trl := rfl
@[simp] theorem State.setLnt_blv (n : Nat) (x : Lantern) : (s.setLnt n x).blv = s.blv := rfl
@[simp] theorem State.setLnt_gth (n : Nat) (x : Lantern) : (s.setLnt n x).gth = s.gth := rfl
@[simp] theorem State.setLnt_alm (n : Nat) (x : Lantern) : (s.setLnt n x).alm = s.alm := rfl
@[simp] theorem State.setLnt_boot (n : Nat) (x : Lantern) : (s.setLnt n x).boot = s.boot := rfl
@[simp] theorem State.setLnt_pins (n : Nat) (x : Lantern) : (s.setLnt n x).pins = s.pins := rfl
@[simp] theorem State.setLnt_latch (n : Nat) (x : Lantern) : (s.setLnt n x).latch = s.latch := rfl
@[simp] theorem State.setLnt_readOut (n : Nat) (x : Lantern) : (s.setLnt n x).readOut = s.readOut := rfl
@[simp] theorem State.setLnt_irqs (n : Nat) (x : Lantern) : (s.setLnt n x).irqs = s.irqs := rfl
@[simp] theorem State.setLnt_now (n : Nat) (x : Lantern) : (s.setLnt n x).now = s.now := rfl
@[simp] theorem State.setLnt_freeCount (n : Nat) (x : Lantern) : (s.setLnt n x).freeCount = s.freeCount := rfl
@[simp] theorem State.setLnt_pending (n : Nat) (x : Lantern) : (s.setLnt n x).pending = s.pending := rfl
@[simp] theorem State.setLnt_core (n : Nat) (x : Lantern) (m : Nat) : (s.setLnt n x).core m = s.core m := rfl
@[simp] theorem State.setLnt_ctx (n : Nat) (x : Lantern) (m : Nat) : (s.setLnt n x).ctx m = s.ctx m := rfl
@[simp] theorem State.setLnt_sched (n : Nat) (x : Lantern) (m : Nat) : (s.setLnt n x).sched m = s.sched m := rfl
@[simp] theorem State.setLnt_xlate (n : Nat) (x : Lantern) (m : Nat) : (s.setLnt n x).xlate m = s.xlate m := rfl
@[simp] theorem State.setLnt_upd (n : Nat) (x : Lantern) (m : Nat) : (s.setLnt n x).upd m = s.upd m := rfl
@[simp] theorem State.setLnt_prot (n : Nat) (x : Lantern) (m : Nat) : (s.setLnt n x).prot m = s.prot m := rfl
@[simp] theorem State.setLnt_job (n : Nat) (x : Lantern) (m : Nat) : (s.setLnt n x).job m = s.job m := rfl
@[simp] theorem State.setLnt_stkCtl (n : Nat) (x : Lantern) (m : Nat) : (s.setLnt n x).stkCtl m = s.stkCtl m := rfl
@[simp] theorem State.setLnt_updReg (n : Nat) (x : Lantern) (m : Nat) : (s.setLnt n x).updReg m = s.updReg m := rfl
@[simp] theorem State.setLnt_chk (n : Nat) (x : Lantern) (m : Nat) : (s.setLnt n x).chk m = s.chk m := rfl
@[simp] theorem State.setLnt_mq (n : Nat) (x : Lantern) (m : Nat) : (s.setLnt n x).mq m = s.mq m := rfl
@[simp] theorem State.setLnt_port (n : Nat) (x : Lantern) (m : Nat) : (s.setLnt n x).port m = s.port m := rfl
@[simp] theorem State.setLnt_tport (n : Nat) (x : Lantern) (m : Nat) : (s.setLnt n x).tport m = s.tport m := rfl
@[simp] theorem State.setLnt_pool (n : Nat) (x : Lantern) (m : Nat) : (s.setLnt n x).pool m = s.pool m := rfl
@[simp] theorem State.setLnt_entry (n : Nat) (x : Lantern) (m : Nat) : (s.setLnt n x).entry m = s.entry m := rfl
@[simp] theorem State.setLnt_var (n : Nat) (x : Lantern) : (s.setLnt n x).var = s.var := rfl

/-! ### setStkCtl -/

@[simp] theorem State.setStkCtl_stkCtl (n : Nat) (x : StackCtl) : (s.setStkCtl n x).stkCtl n = x := by simp [State.setStkCtl, State.stkCtl]
theorem State.setStkCtl_stkCtl_ne (n : Nat) (x : StackCtl) {m : Nat} (h : m ≠ n) : (s.setStkCtl n x).stkCtl m = s.stkCtl m := by
  simp [State.setStkCtl, State.stkCtl, Tbl.get_set_ne _ _ _ h]
@[simp] theorem State.setStkCtl_setStkCtl (n : Nat) (x : StackCtl) (y) : (s.setStkCtl n x).setStkCtl n y = s.setStkCtl n y := by simp [State.setStkCtl]
@[simp] theorem State.setStkCtl_cfg (n : Nat) (x : StackCtl) : (s.setStkCtl n x).cfg = s.cfg := rfl
@[simp] theorem State.setStkCtl_lay (n : Nat) (x : StackCtl) : (s.setStkCtl n x).lay = s.lay := rfl
@[simp] theorem State.setStkCtl_parts (n : Nat) (x : StackCtl) : (s.setStkCtl n x).parts = s.parts := rfl
@[simp] theorem State.setStkCtl_mems (n : Nat) (x : StackCtl) : (s.setStkCtl n x).mems = s.mems := rfl
@[simp] theorem State.setStkCtl_trl (n : Nat) (x : StackCtl) : (s.setStkCtl n x).trl = s.trl := rfl
@[simp] theorem State.setStkCtl_blv (n : Nat) (x : StackCtl) : (s.setStkCtl n x).blv = s.blv := rfl
@[simp] theorem State.setStkCtl_gth (n : Nat) (x : StackCtl) : (s.setStkCtl n x).gth = s.gth := rfl
@[simp] theorem State.setStkCtl_alm (n : Nat) (x : StackCtl) : (s.setStkCtl n x).alm = s.alm := rfl
@[simp] theorem State.setStkCtl_boot (n : Nat) (x : StackCtl) : (s.setStkCtl n x).boot = s.boot := rfl
@[simp] theorem State.setStkCtl_pins (n : Nat) (x : StackCtl) : (s.setStkCtl n x).pins = s.pins := rfl
@[simp] theorem State.setStkCtl_latch (n : Nat) (x : StackCtl) : (s.setStkCtl n x).latch = s.latch := rfl
@[simp] theorem State.setStkCtl_readOut (n : Nat) (x : StackCtl) : (s.setStkCtl n x).readOut = s.readOut := rfl
@[simp] theorem State.setStkCtl_irqs (n : Nat) (x : StackCtl) : (s.setStkCtl n x).irqs = s.irqs := rfl
@[simp] theorem State.setStkCtl_now (n : Nat) (x : StackCtl) : (s.setStkCtl n x).now = s.now := rfl
@[simp] theorem State.setStkCtl_freeCount (n : Nat) (x : StackCtl) : (s.setStkCtl n x).freeCount = s.freeCount := rfl
@[simp] theorem State.setStkCtl_pending (n : Nat) (x : StackCtl) : (s.setStkCtl n x).pending = s.pending := rfl
@[simp] theorem State.setStkCtl_core (n : Nat) (x : StackCtl) (m : Nat) : (s.setStkCtl n x).core m = s.core m := rfl
@[simp] theorem State.setStkCtl_ctx (n : Nat) (x : StackCtl) (m : Nat) : (s.setStkCtl n x).ctx m = s.ctx m := rfl
@[simp] theorem State.setStkCtl_sched (n : Nat) (x : StackCtl) (m : Nat) : (s.setStkCtl n x).sched m = s.sched m := rfl
@[simp] theorem State.setStkCtl_xlate (n : Nat) (x : StackCtl) (m : Nat) : (s.setStkCtl n x).xlate m = s.xlate m := rfl
@[simp] theorem State.setStkCtl_upd (n : Nat) (x : StackCtl) (m : Nat) : (s.setStkCtl n x).upd m = s.upd m := rfl
@[simp] theorem State.setStkCtl_prot (n : Nat) (x : StackCtl) (m : Nat) : (s.setStkCtl n x).prot m = s.prot m := rfl
@[simp] theorem State.setStkCtl_job (n : Nat) (x : StackCtl) (m : Nat) : (s.setStkCtl n x).job m = s.job m := rfl
@[simp] theorem State.setStkCtl_lnt (n : Nat) (x : StackCtl) (m : Nat) : (s.setStkCtl n x).lnt m = s.lnt m := rfl
@[simp] theorem State.setStkCtl_updReg (n : Nat) (x : StackCtl) (m : Nat) : (s.setStkCtl n x).updReg m = s.updReg m := rfl
@[simp] theorem State.setStkCtl_chk (n : Nat) (x : StackCtl) (m : Nat) : (s.setStkCtl n x).chk m = s.chk m := rfl
@[simp] theorem State.setStkCtl_mq (n : Nat) (x : StackCtl) (m : Nat) : (s.setStkCtl n x).mq m = s.mq m := rfl
@[simp] theorem State.setStkCtl_port (n : Nat) (x : StackCtl) (m : Nat) : (s.setStkCtl n x).port m = s.port m := rfl
@[simp] theorem State.setStkCtl_tport (n : Nat) (x : StackCtl) (m : Nat) : (s.setStkCtl n x).tport m = s.tport m := rfl
@[simp] theorem State.setStkCtl_pool (n : Nat) (x : StackCtl) (m : Nat) : (s.setStkCtl n x).pool m = s.pool m := rfl
@[simp] theorem State.setStkCtl_entry (n : Nat) (x : StackCtl) (m : Nat) : (s.setStkCtl n x).entry m = s.entry m := rfl
@[simp] theorem State.setStkCtl_var (n : Nat) (x : StackCtl) : (s.setStkCtl n x).var = s.var := rfl

/-! ### setUpdReg -/

@[simp] theorem State.setUpdReg_updReg (n : Nat) (x : UpdRegs) : (s.setUpdReg n x).updReg n = x := by simp [State.setUpdReg, State.updReg]
theorem State.setUpdReg_updReg_ne (n : Nat) (x : UpdRegs) {m : Nat} (h : m ≠ n) : (s.setUpdReg n x).updReg m = s.updReg m := by
  simp [State.setUpdReg, State.updReg, Tbl.get_set_ne _ _ _ h]
@[simp] theorem State.setUpdReg_setUpdReg (n : Nat) (x : UpdRegs) (y) : (s.setUpdReg n x).setUpdReg n y = s.setUpdReg n y := by simp [State.setUpdReg]
@[simp] theorem State.setUpdReg_cfg (n : Nat) (x : UpdRegs) : (s.setUpdReg n x).cfg = s.cfg := rfl
@[simp] theorem State.setUpdReg_lay (n : Nat) (x : UpdRegs) : (s.setUpdReg n x).lay = s.lay := rfl
@[simp] theorem State.setUpdReg_parts (n : Nat) (x : UpdRegs) : (s.setUpdReg n x).parts = s.parts := rfl
@[simp] theorem State.setUpdReg_mems (n : Nat) (x : UpdRegs) : (s.setUpdReg n x).mems = s.mems := rfl
@[simp] theorem State.setUpdReg_trl (n : Nat) (x : UpdRegs) : (s.setUpdReg n x).trl = s.trl := rfl
@[simp] theorem State.setUpdReg_blv (n : Nat) (x : UpdRegs) : (s.setUpdReg n x).blv = s.blv := rfl
@[simp] theorem State.setUpdReg_gth (n : Nat) (x : UpdRegs) : (s.setUpdReg n x).gth = s.gth := rfl
@[simp] theorem State.setUpdReg_alm (n : Nat) (x : UpdRegs) : (s.setUpdReg n x).alm = s.alm := rfl
@[simp] theorem State.setUpdReg_boot (n : Nat) (x : UpdRegs) : (s.setUpdReg n x).boot = s.boot := rfl
@[simp] theorem State.setUpdReg_pins (n : Nat) (x : UpdRegs) : (s.setUpdReg n x).pins = s.pins := rfl
@[simp] theorem State.setUpdReg_latch (n : Nat) (x : UpdRegs) : (s.setUpdReg n x).latch = s.latch := rfl
@[simp] theorem State.setUpdReg_readOut (n : Nat) (x : UpdRegs) : (s.setUpdReg n x).readOut = s.readOut := rfl
@[simp] theorem State.setUpdReg_irqs (n : Nat) (x : UpdRegs) : (s.setUpdReg n x).irqs = s.irqs := rfl
@[simp] theorem State.setUpdReg_now (n : Nat) (x : UpdRegs) : (s.setUpdReg n x).now = s.now := rfl
@[simp] theorem State.setUpdReg_freeCount (n : Nat) (x : UpdRegs) : (s.setUpdReg n x).freeCount = s.freeCount := rfl
@[simp] theorem State.setUpdReg_pending (n : Nat) (x : UpdRegs) : (s.setUpdReg n x).pending = s.pending := rfl
@[simp] theorem State.setUpdReg_core (n : Nat) (x : UpdRegs) (m : Nat) : (s.setUpdReg n x).core m = s.core m := rfl
@[simp] theorem State.setUpdReg_ctx (n : Nat) (x : UpdRegs) (m : Nat) : (s.setUpdReg n x).ctx m = s.ctx m := rfl
@[simp] theorem State.setUpdReg_sched (n : Nat) (x : UpdRegs) (m : Nat) : (s.setUpdReg n x).sched m = s.sched m := rfl
@[simp] theorem State.setUpdReg_xlate (n : Nat) (x : UpdRegs) (m : Nat) : (s.setUpdReg n x).xlate m = s.xlate m := rfl
@[simp] theorem State.setUpdReg_upd (n : Nat) (x : UpdRegs) (m : Nat) : (s.setUpdReg n x).upd m = s.upd m := rfl
@[simp] theorem State.setUpdReg_prot (n : Nat) (x : UpdRegs) (m : Nat) : (s.setUpdReg n x).prot m = s.prot m := rfl
@[simp] theorem State.setUpdReg_job (n : Nat) (x : UpdRegs) (m : Nat) : (s.setUpdReg n x).job m = s.job m := rfl
@[simp] theorem State.setUpdReg_lnt (n : Nat) (x : UpdRegs) (m : Nat) : (s.setUpdReg n x).lnt m = s.lnt m := rfl
@[simp] theorem State.setUpdReg_stkCtl (n : Nat) (x : UpdRegs) (m : Nat) : (s.setUpdReg n x).stkCtl m = s.stkCtl m := rfl
@[simp] theorem State.setUpdReg_chk (n : Nat) (x : UpdRegs) (m : Nat) : (s.setUpdReg n x).chk m = s.chk m := rfl
@[simp] theorem State.setUpdReg_mq (n : Nat) (x : UpdRegs) (m : Nat) : (s.setUpdReg n x).mq m = s.mq m := rfl
@[simp] theorem State.setUpdReg_port (n : Nat) (x : UpdRegs) (m : Nat) : (s.setUpdReg n x).port m = s.port m := rfl
@[simp] theorem State.setUpdReg_tport (n : Nat) (x : UpdRegs) (m : Nat) : (s.setUpdReg n x).tport m = s.tport m := rfl
@[simp] theorem State.setUpdReg_pool (n : Nat) (x : UpdRegs) (m : Nat) : (s.setUpdReg n x).pool m = s.pool m := rfl
@[simp] theorem State.setUpdReg_entry (n : Nat) (x : UpdRegs) (m : Nat) : (s.setUpdReg n x).entry m = s.entry m := rfl
@[simp] theorem State.setUpdReg_var (n : Nat) (x : UpdRegs) : (s.setUpdReg n x).var = s.var := rfl

/-! ### setChk -/

@[simp] theorem State.setChk_chk (n : Nat) (x : ChkUnit) : (s.setChk n x).chk n = x := by simp [State.setChk, State.chk]
theorem State.setChk_chk_ne (n : Nat) (x : ChkUnit) {m : Nat} (h : m ≠ n) : (s.setChk n x).chk m = s.chk m := by
  simp [State.setChk, State.chk, Tbl.get_set_ne _ _ _ h]
@[simp] theorem State.setChk_setChk (n : Nat) (x : ChkUnit) (y) : (s.setChk n x).setChk n y = s.setChk n y := by simp [State.setChk]
@[simp] theorem State.setChk_cfg (n : Nat) (x : ChkUnit) : (s.setChk n x).cfg = s.cfg := rfl
@[simp] theorem State.setChk_lay (n : Nat) (x : ChkUnit) : (s.setChk n x).lay = s.lay := rfl
@[simp] theorem State.setChk_parts (n : Nat) (x : ChkUnit) : (s.setChk n x).parts = s.parts := rfl
@[simp] theorem State.setChk_mems (n : Nat) (x : ChkUnit) : (s.setChk n x).mems = s.mems := rfl
@[simp] theorem State.setChk_trl (n : Nat) (x : ChkUnit) : (s.setChk n x).trl = s.trl := rfl
@[simp] theorem State.setChk_blv (n : Nat) (x : ChkUnit) : (s.setChk n x).blv = s.blv := rfl
@[simp] theorem State.setChk_gth (n : Nat) (x : ChkUnit) : (s.setChk n x).gth = s.gth := rfl
@[simp] theorem State.setChk_alm (n : Nat) (x : ChkUnit) : (s.setChk n x).alm = s.alm := rfl
@[simp] theorem State.setChk_boot (n : Nat) (x : ChkUnit) : (s.setChk n x).boot = s.boot := rfl
@[simp] theorem State.setChk_pins (n : Nat) (x : ChkUnit) : (s.setChk n x).pins = s.pins := rfl
@[simp] theorem State.setChk_latch (n : Nat) (x : ChkUnit) : (s.setChk n x).latch = s.latch := rfl
@[simp] theorem State.setChk_readOut (n : Nat) (x : ChkUnit) : (s.setChk n x).readOut = s.readOut := rfl
@[simp] theorem State.setChk_irqs (n : Nat) (x : ChkUnit) : (s.setChk n x).irqs = s.irqs := rfl
@[simp] theorem State.setChk_now (n : Nat) (x : ChkUnit) : (s.setChk n x).now = s.now := rfl
@[simp] theorem State.setChk_freeCount (n : Nat) (x : ChkUnit) : (s.setChk n x).freeCount = s.freeCount := rfl
@[simp] theorem State.setChk_pending (n : Nat) (x : ChkUnit) : (s.setChk n x).pending = s.pending := rfl
@[simp] theorem State.setChk_core (n : Nat) (x : ChkUnit) (m : Nat) : (s.setChk n x).core m = s.core m := rfl
@[simp] theorem State.setChk_ctx (n : Nat) (x : ChkUnit) (m : Nat) : (s.setChk n x).ctx m = s.ctx m := rfl
@[simp] theorem State.setChk_sched (n : Nat) (x : ChkUnit) (m : Nat) : (s.setChk n x).sched m = s.sched m := rfl
@[simp] theorem State.setChk_xlate (n : Nat) (x : ChkUnit) (m : Nat) : (s.setChk n x).xlate m = s.xlate m := rfl
@[simp] theorem State.setChk_upd (n : Nat) (x : ChkUnit) (m : Nat) : (s.setChk n x).upd m = s.upd m := rfl
@[simp] theorem State.setChk_prot (n : Nat) (x : ChkUnit) (m : Nat) : (s.setChk n x).prot m = s.prot m := rfl
@[simp] theorem State.setChk_job (n : Nat) (x : ChkUnit) (m : Nat) : (s.setChk n x).job m = s.job m := rfl
@[simp] theorem State.setChk_lnt (n : Nat) (x : ChkUnit) (m : Nat) : (s.setChk n x).lnt m = s.lnt m := rfl
@[simp] theorem State.setChk_stkCtl (n : Nat) (x : ChkUnit) (m : Nat) : (s.setChk n x).stkCtl m = s.stkCtl m := rfl
@[simp] theorem State.setChk_updReg (n : Nat) (x : ChkUnit) (m : Nat) : (s.setChk n x).updReg m = s.updReg m := rfl
@[simp] theorem State.setChk_mq (n : Nat) (x : ChkUnit) (m : Nat) : (s.setChk n x).mq m = s.mq m := rfl
@[simp] theorem State.setChk_port (n : Nat) (x : ChkUnit) (m : Nat) : (s.setChk n x).port m = s.port m := rfl
@[simp] theorem State.setChk_tport (n : Nat) (x : ChkUnit) (m : Nat) : (s.setChk n x).tport m = s.tport m := rfl
@[simp] theorem State.setChk_pool (n : Nat) (x : ChkUnit) (m : Nat) : (s.setChk n x).pool m = s.pool m := rfl
@[simp] theorem State.setChk_entry (n : Nat) (x : ChkUnit) (m : Nat) : (s.setChk n x).entry m = s.entry m := rfl
@[simp] theorem State.setChk_var (n : Nat) (x : ChkUnit) : (s.setChk n x).var = s.var := rfl

/-! ### setMq -/

@[simp] theorem State.setMq_mq (n : Nat) (x : Queue) : (s.setMq n x).mq n = x := by simp [State.setMq, State.mq]
theorem State.setMq_mq_ne (n : Nat) (x : Queue) {m : Nat} (h : m ≠ n) : (s.setMq n x).mq m = s.mq m := by
  simp [State.setMq, State.mq, Tbl.get_set_ne _ _ _ h]
@[simp] theorem State.setMq_setMq (n : Nat) (x : Queue) (y) : (s.setMq n x).setMq n y = s.setMq n y := by simp [State.setMq]
@[simp] theorem State.setMq_cfg (n : Nat) (x : Queue) : (s.setMq n x).cfg = s.cfg := rfl
@[simp] theorem State.setMq_lay (n : Nat) (x : Queue) : (s.setMq n x).lay = s.lay := rfl
@[simp] theorem State.setMq_parts (n : Nat) (x : Queue) : (s.setMq n x).parts = s.parts := rfl
@[simp] theorem State.setMq_mems (n : Nat) (x : Queue) : (s.setMq n x).mems = s.mems := rfl
@[simp] theorem State.setMq_trl (n : Nat) (x : Queue) : (s.setMq n x).trl = s.trl := rfl
@[simp] theorem State.setMq_blv (n : Nat) (x : Queue) : (s.setMq n x).blv = s.blv := rfl
@[simp] theorem State.setMq_gth (n : Nat) (x : Queue) : (s.setMq n x).gth = s.gth := rfl
@[simp] theorem State.setMq_alm (n : Nat) (x : Queue) : (s.setMq n x).alm = s.alm := rfl
@[simp] theorem State.setMq_boot (n : Nat) (x : Queue) : (s.setMq n x).boot = s.boot := rfl
@[simp] theorem State.setMq_pins (n : Nat) (x : Queue) : (s.setMq n x).pins = s.pins := rfl
@[simp] theorem State.setMq_latch (n : Nat) (x : Queue) : (s.setMq n x).latch = s.latch := rfl
@[simp] theorem State.setMq_readOut (n : Nat) (x : Queue) : (s.setMq n x).readOut = s.readOut := rfl
@[simp] theorem State.setMq_irqs (n : Nat) (x : Queue) : (s.setMq n x).irqs = s.irqs := rfl
@[simp] theorem State.setMq_now (n : Nat) (x : Queue) : (s.setMq n x).now = s.now := rfl
@[simp] theorem State.setMq_freeCount (n : Nat) (x : Queue) : (s.setMq n x).freeCount = s.freeCount := rfl
@[simp] theorem State.setMq_pending (n : Nat) (x : Queue) : (s.setMq n x).pending = s.pending := rfl
@[simp] theorem State.setMq_core (n : Nat) (x : Queue) (m : Nat) : (s.setMq n x).core m = s.core m := rfl
@[simp] theorem State.setMq_ctx (n : Nat) (x : Queue) (m : Nat) : (s.setMq n x).ctx m = s.ctx m := rfl
@[simp] theorem State.setMq_sched (n : Nat) (x : Queue) (m : Nat) : (s.setMq n x).sched m = s.sched m := rfl
@[simp] theorem State.setMq_xlate (n : Nat) (x : Queue) (m : Nat) : (s.setMq n x).xlate m = s.xlate m := rfl
@[simp] theorem State.setMq_upd (n : Nat) (x : Queue) (m : Nat) : (s.setMq n x).upd m = s.upd m := rfl
@[simp] theorem State.setMq_prot (n : Nat) (x : Queue) (m : Nat) : (s.setMq n x).prot m = s.prot m := rfl
@[simp] theorem State.setMq_job (n : Nat) (x : Queue) (m : Nat) : (s.setMq n x).job m = s.job m := rfl
@[simp] theorem State.setMq_lnt (n : Nat) (x : Queue) (m : Nat) : (s.setMq n x).lnt m = s.lnt m := rfl
@[simp] theorem State.setMq_stkCtl (n : Nat) (x : Queue) (m : Nat) : (s.setMq n x).stkCtl m = s.stkCtl m := rfl
@[simp] theorem State.setMq_updReg (n : Nat) (x : Queue) (m : Nat) : (s.setMq n x).updReg m = s.updReg m := rfl
@[simp] theorem State.setMq_chk (n : Nat) (x : Queue) (m : Nat) : (s.setMq n x).chk m = s.chk m := rfl
@[simp] theorem State.setMq_port (n : Nat) (x : Queue) (m : Nat) : (s.setMq n x).port m = s.port m := rfl
@[simp] theorem State.setMq_tport (n : Nat) (x : Queue) (m : Nat) : (s.setMq n x).tport m = s.tport m := rfl
@[simp] theorem State.setMq_pool (n : Nat) (x : Queue) (m : Nat) : (s.setMq n x).pool m = s.pool m := rfl
@[simp] theorem State.setMq_entry (n : Nat) (x : Queue) (m : Nat) : (s.setMq n x).entry m = s.entry m := rfl
@[simp] theorem State.setMq_var (n : Nat) (x : Queue) : (s.setMq n x).var = s.var := rfl

/-! ### setPort -/

@[simp] theorem State.setPort_port (n : Nat) (x : HostPort) : (s.setPort n x).port n = x := by simp [State.setPort, State.port]
theorem State.setPort_port_ne (n : Nat) (x : HostPort) {m : Nat} (h : m ≠ n) : (s.setPort n x).port m = s.port m := by
  simp [State.setPort, State.port, Tbl.get_set_ne _ _ _ h]
@[simp] theorem State.setPort_setPort (n : Nat) (x : HostPort) (y) : (s.setPort n x).setPort n y = s.setPort n y := by simp [State.setPort]
@[simp] theorem State.setPort_cfg (n : Nat) (x : HostPort) : (s.setPort n x).cfg = s.cfg := rfl
@[simp] theorem State.setPort_lay (n : Nat) (x : HostPort) : (s.setPort n x).lay = s.lay := rfl
@[simp] theorem State.setPort_parts (n : Nat) (x : HostPort) : (s.setPort n x).parts = s.parts := rfl
@[simp] theorem State.setPort_mems (n : Nat) (x : HostPort) : (s.setPort n x).mems = s.mems := rfl
@[simp] theorem State.setPort_trl (n : Nat) (x : HostPort) : (s.setPort n x).trl = s.trl := rfl
@[simp] theorem State.setPort_blv (n : Nat) (x : HostPort) : (s.setPort n x).blv = s.blv := rfl
@[simp] theorem State.setPort_gth (n : Nat) (x : HostPort) : (s.setPort n x).gth = s.gth := rfl
@[simp] theorem State.setPort_alm (n : Nat) (x : HostPort) : (s.setPort n x).alm = s.alm := rfl
@[simp] theorem State.setPort_boot (n : Nat) (x : HostPort) : (s.setPort n x).boot = s.boot := rfl
@[simp] theorem State.setPort_pins (n : Nat) (x : HostPort) : (s.setPort n x).pins = s.pins := rfl
@[simp] theorem State.setPort_latch (n : Nat) (x : HostPort) : (s.setPort n x).latch = s.latch := rfl
@[simp] theorem State.setPort_readOut (n : Nat) (x : HostPort) : (s.setPort n x).readOut = s.readOut := rfl
@[simp] theorem State.setPort_irqs (n : Nat) (x : HostPort) : (s.setPort n x).irqs = s.irqs := rfl
@[simp] theorem State.setPort_now (n : Nat) (x : HostPort) : (s.setPort n x).now = s.now := rfl
@[simp] theorem State.setPort_freeCount (n : Nat) (x : HostPort) : (s.setPort n x).freeCount = s.freeCount := rfl
@[simp] theorem State.setPort_pending (n : Nat) (x : HostPort) : (s.setPort n x).pending = s.pending := rfl
@[simp] theorem State.setPort_core (n : Nat) (x : HostPort) (m : Nat) : (s.setPort n x).core m = s.core m := rfl
@[simp] theorem State.setPort_ctx (n : Nat) (x : HostPort) (m : Nat) : (s.setPort n x).ctx m = s.ctx m := rfl
@[simp] theorem State.setPort_sched (n : Nat) (x : HostPort) (m : Nat) : (s.setPort n x).sched m = s.sched m := rfl
@[simp] theorem State.setPort_xlate (n : Nat) (x : HostPort) (m : Nat) : (s.setPort n x).xlate m = s.xlate m := rfl
@[simp] theorem State.setPort_upd (n : Nat) (x : HostPort) (m : Nat) : (s.setPort n x).upd m = s.upd m := rfl
@[simp] theorem State.setPort_prot (n : Nat) (x : HostPort) (m : Nat) : (s.setPort n x).prot m = s.prot m := rfl
@[simp] theorem State.setPort_job (n : Nat) (x : HostPort) (m : Nat) : (s.setPort n x).job m = s.job m := rfl
@[simp] theorem State.setPort_lnt (n : Nat) (x : HostPort) (m : Nat) : (s.setPort n x).lnt m = s.lnt m := rfl
@[simp] theorem State.setPort_stkCtl (n : Nat) (x : HostPort) (m : Nat) : (s.setPort n x).stkCtl m = s.stkCtl m := rfl
@[simp] theorem State.setPort_updReg (n : Nat) (x : HostPort) (m : Nat) : (s.setPort n x).updReg m = s.updReg m := rfl
@[simp] theorem State.setPort_chk (n : Nat) (x : HostPort) (m : Nat) : (s.setPort n x).chk m = s.chk m := rfl
@[simp] theorem State.setPort_mq (n : Nat) (x : HostPort) (m : Nat) : (s.setPort n x).mq m = s.mq m := rfl
@[simp] theorem State.setPort_tport (n : Nat) (x : HostPort) (m : Nat) : (s.setPort n x).tport m = s.tport m := rfl
@[simp] theorem State.setPort_pool (n : Nat) (x : HostPort) (m : Nat) : (s.setPort n x).pool m = s.pool m := rfl
@[simp] theorem State.setPort_entry (n : Nat) (x : HostPort) (m : Nat) : (s.setPort n x).entry m = s.entry m := rfl
@[simp] theorem State.setPort_var (n : Nat) (x : HostPort) : (s.setPort n x).var = s.var := rfl

/-! ### setTport -/

@[simp] theorem State.setTport_tport (n : Nat) (x : Port) : (s.setTport n x).tport n = x := by simp [State.setTport, State.tport]
theorem State.setTport_tport_ne (n : Nat) (x : Port) {m : Nat} (h : m ≠ n) : (s.setTport n x).tport m = s.tport m := by
  simp [State.setTport, State.tport, Tbl.get_set_ne _ _ _ h]
@[simp] theorem State.setTport_setTport (n : Nat) (x : Port) (y) : (s.setTport n x).setTport n y = s.setTport n y := by simp [State.setTport]
@[simp] theorem State.setTport_cfg (n : Nat) (x : Port) : (s.setTport n x).cfg = s.cfg := rfl
@[simp] theorem State.setTport_lay (n : Nat) (x : Port) : (s.setTport n x).lay = s.lay := rfl
@[simp] theorem State.setTport_parts (n : Nat) (x : Port) : (s.setTport n x).parts = s.parts := rfl
@[simp] theorem State.setTport_units (n : Nat) (x : Port) : (s.setTport n x).units = s.units := rfl
@[simp] theorem State.setTport_mems (n : Nat) (x : Port) : (s.setTport n x).mems = s.mems := rfl
@[simp] theorem State.setTport_blv (n : Nat) (x : Port) : (s.setTport n x).blv = s.blv := rfl
@[simp] theorem State.setTport_gth (n : Nat) (x : Port) : (s.setTport n x).gth = s.gth := rfl
@[simp] theorem State.setTport_alm (n : Nat) (x : Port) : (s.setTport n x).alm = s.alm := rfl
@[simp] theorem State.setTport_boot (n : Nat) (x : Port) : (s.setTport n x).boot = s.boot := rfl
@[simp] theorem State.setTport_pins (n : Nat) (x : Port) : (s.setTport n x).pins = s.pins := rfl
@[simp] theorem State.setTport_latch (n : Nat) (x : Port) : (s.setTport n x).latch = s.latch := rfl
@[simp] theorem State.setTport_readOut (n : Nat) (x : Port) : (s.setTport n x).readOut = s.readOut := rfl
@[simp] theorem State.setTport_irqs (n : Nat) (x : Port) : (s.setTport n x).irqs = s.irqs := rfl
@[simp] theorem State.setTport_now (n : Nat) (x : Port) : (s.setTport n x).now = s.now := rfl
@[simp] theorem State.setTport_freeCount (n : Nat) (x : Port) : (s.setTport n x).freeCount = s.freeCount := rfl
@[simp] theorem State.setTport_pending (n : Nat) (x : Port) : (s.setTport n x).pending = s.pending := rfl
@[simp] theorem State.setTport_core (n : Nat) (x : Port) (m : Nat) : (s.setTport n x).core m = s.core m := rfl
@[simp] theorem State.setTport_ctx (n : Nat) (x : Port) (m : Nat) : (s.setTport n x).ctx m = s.ctx m := rfl
@[simp] theorem State.setTport_sched (n : Nat) (x : Port) (m : Nat) : (s.setTport n x).sched m = s.sched m := rfl
@[simp] theorem State.setTport_xlate (n : Nat) (x : Port) (m : Nat) : (s.setTport n x).xlate m = s.xlate m := rfl
@[simp] theorem State.setTport_upd (n : Nat) (x : Port) (m : Nat) : (s.setTport n x).upd m = s.upd m := rfl
@[simp] theorem State.setTport_prot (n : Nat) (x : Port) (m : Nat) : (s.setTport n x).prot m = s.prot m := rfl
@[simp] theorem State.setTport_job (n : Nat) (x : Port) (m : Nat) : (s.setTport n x).job m = s.job m := rfl
@[simp] theorem State.setTport_lnt (n : Nat) (x : Port) (m : Nat) : (s.setTport n x).lnt m = s.lnt m := rfl
@[simp] theorem State.setTport_stkCtl (n : Nat) (x : Port) (m : Nat) : (s.setTport n x).stkCtl m = s.stkCtl m := rfl
@[simp] theorem State.setTport_updReg (n : Nat) (x : Port) (m : Nat) : (s.setTport n x).updReg m = s.updReg m := rfl
@[simp] theorem State.setTport_chk (n : Nat) (x : Port) (m : Nat) : (s.setTport n x).chk m = s.chk m := rfl
@[simp] theorem State.setTport_mq (n : Nat) (x : Port) (m : Nat) : (s.setTport n x).mq m = s.mq m := rfl
@[simp] theorem State.setTport_port (n : Nat) (x : Port) (m : Nat) : (s.setTport n x).port m = s.port m := rfl
@[simp] theorem State.setTport_pool (n : Nat) (x : Port) (m : Nat) : (s.setTport n x).pool m = s.pool m := rfl
@[simp] theorem State.setTport_entry (n : Nat) (x : Port) (m : Nat) : (s.setTport n x).entry m = s.entry m := rfl
@[simp] theorem State.setTport_var (n : Nat) (x : Port) : (s.setTport n x).var = s.var := rfl

/-! ### setPool -/

@[simp] theorem State.setPool_pool (n : Nat) (x : Mem) : (s.setPool n x).pool n = x := by simp [State.setPool, State.pool]
theorem State.setPool_pool_ne (n : Nat) (x : Mem) {m : Nat} (h : m ≠ n) : (s.setPool n x).pool m = s.pool m := by
  simp [State.setPool, State.pool, Tbl.get_set_ne _ _ _ h]
@[simp] theorem State.setPool_setPool (n : Nat) (x : Mem) (y) : (s.setPool n x).setPool n y = s.setPool n y := by simp [State.setPool]
@[simp] theorem State.setPool_cfg (n : Nat) (x : Mem) : (s.setPool n x).cfg = s.cfg := rfl
@[simp] theorem State.setPool_lay (n : Nat) (x : Mem) : (s.setPool n x).lay = s.lay := rfl
@[simp] theorem State.setPool_parts (n : Nat) (x : Mem) : (s.setPool n x).parts = s.parts := rfl
@[simp] theorem State.setPool_units (n : Nat) (x : Mem) : (s.setPool n x).units = s.units := rfl
@[simp] theorem State.setPool_trl (n : Nat) (x : Mem) : (s.setPool n x).trl = s.trl := rfl
@[simp] theorem State.setPool_blv (n : Nat) (x : Mem) : (s.setPool n x).blv = s.blv := rfl
@[simp] theorem State.setPool_gth (n : Nat) (x : Mem) : (s.setPool n x).gth = s.gth := rfl
@[simp] theorem State.setPool_alm (n : Nat) (x : Mem) : (s.setPool n x).alm = s.alm := rfl
@[simp] theorem State.setPool_boot (n : Nat) (x : Mem) : (s.setPool n x).boot = s.boot := rfl
@[simp] theorem State.setPool_pins (n : Nat) (x : Mem) : (s.setPool n x).pins = s.pins := rfl
@[simp] theorem State.setPool_latch (n : Nat) (x : Mem) : (s.setPool n x).latch = s.latch := rfl
@[simp] theorem State.setPool_readOut (n : Nat) (x : Mem) : (s.setPool n x).readOut = s.readOut := rfl
@[simp] theorem State.setPool_irqs (n : Nat) (x : Mem) : (s.setPool n x).irqs = s.irqs := rfl
@[simp] theorem State.setPool_now (n : Nat) (x : Mem) : (s.setPool n x).now = s.now := rfl
@[simp] theorem State.setPool_freeCount (n : Nat) (x : Mem) : (s.setPool n x).freeCount = s.freeCount := rfl
@[simp] theorem State.setPool_pending (n : Nat) (x : Mem) : (s.setPool n x).pending = s.pending := rfl
@[simp] theorem State.setPool_core (n : Nat) (x : Mem) (m : Nat) : (s.setPool n x).core m = s.core m := rfl
@[simp] theorem State.setPool_ctx (n : Nat) (x : Mem) (m : Nat) : (s.setPool n x).ctx m = s.ctx m := rfl
@[simp] theorem State.setPool_sched (n : Nat) (x : Mem) (m : Nat) : (s.setPool n x).sched m = s.sched m := rfl
@[simp] theorem State.setPool_xlate (n : Nat) (x : Mem) (m : Nat) : (s.setPool n x).xlate m = s.xlate m := rfl
@[simp] theorem State.setPool_upd (n : Nat) (x : Mem) (m : Nat) : (s.setPool n x).upd m = s.upd m := rfl
@[simp] theorem State.setPool_prot (n : Nat) (x : Mem) (m : Nat) : (s.setPool n x).prot m = s.prot m := rfl
@[simp] theorem State.setPool_job (n : Nat) (x : Mem) (m : Nat) : (s.setPool n x).job m = s.job m := rfl
@[simp] theorem State.setPool_lnt (n : Nat) (x : Mem) (m : Nat) : (s.setPool n x).lnt m = s.lnt m := rfl
@[simp] theorem State.setPool_stkCtl (n : Nat) (x : Mem) (m : Nat) : (s.setPool n x).stkCtl m = s.stkCtl m := rfl
@[simp] theorem State.setPool_updReg (n : Nat) (x : Mem) (m : Nat) : (s.setPool n x).updReg m = s.updReg m := rfl
@[simp] theorem State.setPool_chk (n : Nat) (x : Mem) (m : Nat) : (s.setPool n x).chk m = s.chk m := rfl
@[simp] theorem State.setPool_mq (n : Nat) (x : Mem) (m : Nat) : (s.setPool n x).mq m = s.mq m := rfl
@[simp] theorem State.setPool_port (n : Nat) (x : Mem) (m : Nat) : (s.setPool n x).port m = s.port m := rfl
@[simp] theorem State.setPool_tport (n : Nat) (x : Mem) (m : Nat) : (s.setPool n x).tport m = s.tport m := rfl
@[simp] theorem State.setPool_entry (n : Nat) (x : Mem) (m : Nat) : (s.setPool n x).entry m = s.entry m := rfl
@[simp] theorem State.setPool_var (n : Nat) (x : Mem) : (s.setPool n x).var = s.var := rfl

/-! ### setStk -/

@[simp] theorem State.setStk_cfg (x : StackMem) : (s.setStk x).cfg = s.cfg := rfl
@[simp] theorem State.setStk_lay (x : StackMem) : (s.setStk x).lay = s.lay := rfl
@[simp] theorem State.setStk_parts (x : StackMem) : (s.setStk x).parts = s.parts := rfl
@[simp] theorem State.setStk_units (x : StackMem) : (s.setStk x).units = s.units := rfl
@[simp] theorem State.setStk_trl (x : StackMem) : (s.setStk x).trl = s.trl := rfl
@[simp] theorem State.setStk_blv (x : StackMem) : (s.setStk x).blv = s.blv := rfl
@[simp] theorem State.setStk_gth (x : StackMem) : (s.setStk x).gth = s.gth := rfl
@[simp] theorem State.setStk_alm (x : StackMem) : (s.setStk x).alm = s.alm := rfl
@[simp] theorem State.setStk_boot (x : StackMem) : (s.setStk x).boot = s.boot := rfl
@[simp] theorem State.setStk_pins (x : StackMem) : (s.setStk x).pins = s.pins := rfl
@[simp] theorem State.setStk_latch (x : StackMem) : (s.setStk x).latch = s.latch := rfl
@[simp] theorem State.setStk_readOut (x : StackMem) : (s.setStk x).readOut = s.readOut := rfl
@[simp] theorem State.setStk_irqs (x : StackMem) : (s.setStk x).irqs = s.irqs := rfl
@[simp] theorem State.setStk_now (x : StackMem) : (s.setStk x).now = s.now := rfl
@[simp] theorem State.setStk_freeCount (x : StackMem) : (s.setStk x).freeCount = s.freeCount := rfl
@[simp] theorem State.setStk_pending (x : StackMem) : (s.setStk x).pending = s.pending := rfl
@[simp] theorem State.setStk_core (x : StackMem) (m : Nat) : (s.setStk x).core m = s.core m := rfl
@[simp] theorem State.setStk_ctx (x : StackMem) (m : Nat) : (s.setStk x).ctx m = s.ctx m := rfl
@[simp] theorem State.setStk_sched (x : StackMem) (m : Nat) : (s.setStk x).sched m = s.sched m := rfl
@[simp] theorem State.setStk_xlate (x : StackMem) (m : Nat) : (s.setStk x).xlate m = s.xlate m := rfl
@[simp] theorem State.setStk_upd (x : StackMem) (m : Nat) : (s.setStk x).upd m = s.upd m := rfl
@[simp] theorem State.setStk_prot (x : StackMem) (m : Nat) : (s.setStk x).prot m = s.prot m := rfl
@[simp] theorem State.setStk_job (x : StackMem) (m : Nat) : (s.setStk x).job m = s.job m := rfl
@[simp] theorem State.setStk_lnt (x : StackMem) (m : Nat) : (s.setStk x).lnt m = s.lnt m := rfl
@[simp] theorem State.setStk_stkCtl (x : StackMem) (m : Nat) : (s.setStk x).stkCtl m = s.stkCtl m := rfl
@[simp] theorem State.setStk_updReg (x : StackMem) (m : Nat) : (s.setStk x).updReg m = s.updReg m := rfl
@[simp] theorem State.setStk_chk (x : StackMem) (m : Nat) : (s.setStk x).chk m = s.chk m := rfl
@[simp] theorem State.setStk_mq (x : StackMem) (m : Nat) : (s.setStk x).mq m = s.mq m := rfl
@[simp] theorem State.setStk_port (x : StackMem) (m : Nat) : (s.setStk x).port m = s.port m := rfl
@[simp] theorem State.setStk_tport (x : StackMem) (m : Nat) : (s.setStk x).tport m = s.tport m := rfl
@[simp] theorem State.setStk_pool (x : StackMem) (m : Nat) : (s.setStk x).pool m = s.pool m := rfl
@[simp] theorem State.setStk_entry (x : StackMem) (m : Nat) : (s.setStk x).entry m = s.entry m := rfl
@[simp] theorem State.setStk_var (x : StackMem) : (s.setStk x).var = s.var := rfl

/-! ### hostWrite -/

@[simp] theorem State.hostWrite_cfg (n a : Nat) (bs : Bytes) : (s.hostWrite n a bs).cfg = s.cfg := rfl
@[simp] theorem State.hostWrite_lay (n a : Nat) (bs : Bytes) : (s.hostWrite n a bs).lay = s.lay := rfl
@[simp] theorem State.hostWrite_parts (n a : Nat) (bs : Bytes) : (s.hostWrite n a bs).parts = s.parts := rfl
@[simp] theorem State.hostWrite_units (n a : Nat) (bs : Bytes) : (s.hostWrite n a bs).units = s.units := rfl
@[simp] theorem State.hostWrite_trl (n a : Nat) (bs : Bytes) : (s.hostWrite n a bs).trl = s.trl := rfl
@[simp] theorem State.hostWrite_blv (n a : Nat) (bs : Bytes) : (s.hostWrite n a bs).blv = s.blv := rfl
@[simp] theorem State.hostWrite_gth (n a : Nat) (bs : Bytes) : (s.hostWrite n a bs).gth = s.gth := rfl
@[simp] theorem State.hostWrite_alm (n a : Nat) (bs : Bytes) : (s.hostWrite n a bs).alm = s.alm := rfl
@[simp] theorem State.hostWrite_boot (n a : Nat) (bs : Bytes) : (s.hostWrite n a bs).boot = s.boot := rfl
@[simp] theorem State.hostWrite_pins (n a : Nat) (bs : Bytes) : (s.hostWrite n a bs).pins = s.pins := rfl
@[simp] theorem State.hostWrite_latch (n a : Nat) (bs : Bytes) : (s.hostWrite n a bs).latch = s.latch := rfl
@[simp] theorem State.hostWrite_readOut (n a : Nat) (bs : Bytes) : (s.hostWrite n a bs).readOut = s.readOut := rfl
@[simp] theorem State.hostWrite_irqs (n a : Nat) (bs : Bytes) : (s.hostWrite n a bs).irqs = s.irqs := rfl
@[simp] theorem State.hostWrite_now (n a : Nat) (bs : Bytes) : (s.hostWrite n a bs).now = s.now := rfl
@[simp] theorem State.hostWrite_freeCount (n a : Nat) (bs : Bytes) : (s.hostWrite n a bs).freeCount = s.freeCount := rfl
@[simp] theorem State.hostWrite_pending (n a : Nat) (bs : Bytes) : (s.hostWrite n a bs).pending = s.pending := rfl
@[simp] theorem State.hostWrite_core (n a : Nat) (bs : Bytes) (m : Nat) : (s.hostWrite n a bs).core m = s.core m := rfl
@[simp] theorem State.hostWrite_ctx (n a : Nat) (bs : Bytes) (m : Nat) : (s.hostWrite n a bs).ctx m = s.ctx m := rfl
@[simp] theorem State.hostWrite_sched (n a : Nat) (bs : Bytes) (m : Nat) : (s.hostWrite n a bs).sched m = s.sched m := rfl
@[simp] theorem State.hostWrite_xlate (n a : Nat) (bs : Bytes) (m : Nat) : (s.hostWrite n a bs).xlate m = s.xlate m := rfl
@[simp] theorem State.hostWrite_upd (n a : Nat) (bs : Bytes) (m : Nat) : (s.hostWrite n a bs).upd m = s.upd m := rfl
@[simp] theorem State.hostWrite_prot (n a : Nat) (bs : Bytes) (m : Nat) : (s.hostWrite n a bs).prot m = s.prot m := rfl
@[simp] theorem State.hostWrite_job (n a : Nat) (bs : Bytes) (m : Nat) : (s.hostWrite n a bs).job m = s.job m := rfl
@[simp] theorem State.hostWrite_lnt (n a : Nat) (bs : Bytes) (m : Nat) : (s.hostWrite n a bs).lnt m = s.lnt m := rfl
@[simp] theorem State.hostWrite_stkCtl (n a : Nat) (bs : Bytes) (m : Nat) : (s.hostWrite n a bs).stkCtl m = s.stkCtl m := rfl
@[simp] theorem State.hostWrite_updReg (n a : Nat) (bs : Bytes) (m : Nat) : (s.hostWrite n a bs).updReg m = s.updReg m := rfl
@[simp] theorem State.hostWrite_chk (n a : Nat) (bs : Bytes) (m : Nat) : (s.hostWrite n a bs).chk m = s.chk m := rfl
@[simp] theorem State.hostWrite_mq (n a : Nat) (bs : Bytes) (m : Nat) : (s.hostWrite n a bs).mq m = s.mq m := rfl
@[simp] theorem State.hostWrite_port (n a : Nat) (bs : Bytes) (m : Nat) : (s.hostWrite n a bs).port m = s.port m := rfl
@[simp] theorem State.hostWrite_tport (n a : Nat) (bs : Bytes) (m : Nat) : (s.hostWrite n a bs).tport m = s.tport m := rfl
@[simp] theorem State.hostWrite_pool (n a : Nat) (bs : Bytes) (m : Nat) : (s.hostWrite n a bs).pool m = s.pool m := rfl
@[simp] theorem State.hostWrite_entry (n a : Nat) (bs : Bytes) (m : Nat) : (s.hostWrite n a bs).entry m = s.entry m := rfl
@[simp] theorem State.hostWrite_var (n a : Nat) (bs : Bytes) : (s.hostWrite n a bs).var = s.var := rfl

/-! ### Cores -/

@[simp] theorem Core.setTask_task (c : Core) (t : Nat) (x : Task) : (c.setTask t x).task t = x := by simp [Core.setTask, Core.task]
theorem Core.setTask_task_ne (c : Core) {t u : Nat} (x : Task) (h : u ≠ t) : (c.setTask t x).task u = c.task u := by
  simp [Core.setTask, Core.task, Tbl.get_set_ne _ _ _ h]
@[simp] theorem Core.setTask_setTask (c : Core) (t : Nat) (x y : Task) : (c.setTask t x).setTask t y = c.setTask t y := by
  simp [Core.setTask]
@[simp] theorem Core.setSlot_slot (c : Core) (i : Nat) (x : Slot) : (c.setSlot i x).slot i = x := by simp [Core.setSlot, Core.slot]
theorem Core.setSlot_slot_ne (c : Core) {i j : Nat} (x : Slot) (h : j ≠ i) : (c.setSlot i x).slot j = c.slot j := by
  simp [Core.setSlot, Core.slot, Tbl.get_set_ne _ _ _ h]
@[simp] theorem Core.setSlot_setSlot (c : Core) (i : Nat) (x y : Slot) : (c.setSlot i x).setSlot i y = c.setSlot i y := by
  simp [Core.setSlot]
@[simp] theorem Core.setRegion_region (c : Core) (t g : Nat) (r : Region) : (c.setRegion t g r).region t g = r := by
  simp [Core.setRegion, Core.region]

@[simp] theorem Core.setTask_cmd (c : Core) (t : Nat) (x : Task) : (c.setTask t x).cmd = c.cmd := rfl
@[simp] theorem Core.setTask_q (c : Core) (t : Nat) (x : Task) : (c.setTask t x).q = c.q := rfl
@[simp] theorem Core.setTask_slots (c : Core) (t : Nat) (x : Task) : (c.setTask t x).slots = c.slots := rfl
@[simp] theorem Core.setTask_scratch (c : Core) (t : Nat) (x : Task) : (c.setTask t x).scratch = c.scratch := rfl
@[simp] theorem Core.setTask_badPar (c : Core) (t : Nat) (x : Task) : (c.setTask t x).badPar = c.badPar := rfl
@[simp] theorem Core.setTask_wins (c : Core) (t : Nat) (x : Task) : (c.setTask t x).wins = c.wins := rfl
@[simp] theorem Core.setTask_flags (c : Core) (t : Nat) (x : Task) : (c.setTask t x).flags = c.flags := rfl
@[simp] theorem Core.setTask_wbuf (c : Core) (t : Nat) (x : Task) : (c.setTask t x).wbuf = c.wbuf := rfl
@[simp] theorem Core.setTask_fx (c : Core) (t : Nat) (x : Task) : (c.setTask t x).fx = c.fx := rfl
@[simp] theorem Core.setTask_cnt (c : Core) (t : Nat) (x : Task) : (c.setTask t x).cnt = c.cnt := rfl
@[simp] theorem Core.setTask_last (c : Core) (t : Nat) (x : Task) : (c.setTask t x).last = c.last := rfl
@[simp] theorem Core.setTask_nextSeq (c : Core) (t : Nat) (x : Task) : (c.setTask t x).nextSeq = c.nextSeq := rfl
@[simp] theorem Core.setTask_lastTask (c : Core) (t : Nat) (x : Task) : (c.setTask t x).lastTask = c.lastTask := rfl
@[simp] theorem Core.setTask_descs (c : Core) (t : Nat) (x : Task) : (c.setTask t x).descs = c.descs := rfl
@[simp] theorem Core.setTask_tcache (c : Core) (t : Nat) (x : Task) : (c.setTask t x).tcache = c.tcache := rfl
@[simp] theorem Core.setTask_shadow (c : Core) (t : Nat) (x : Task) : (c.setTask t x).shadow = c.shadow := rfl
@[simp] theorem Core.setSlot_cmd (c : Core) (t : Nat) (x : Slot) : (c.setSlot t x).cmd = c.cmd := rfl
@[simp] theorem Core.setSlot_q (c : Core) (t : Nat) (x : Slot) : (c.setSlot t x).q = c.q := rfl
@[simp] theorem Core.setSlot_scratch (c : Core) (t : Nat) (x : Slot) : (c.setSlot t x).scratch = c.scratch := rfl
@[simp] theorem Core.setSlot_badPar (c : Core) (t : Nat) (x : Slot) : (c.setSlot t x).badPar = c.badPar := rfl
@[simp] theorem Core.setSlot_wins (c : Core) (t : Nat) (x : Slot) : (c.setSlot t x).wins = c.wins := rfl
@[simp] theorem Core.setSlot_flags (c : Core) (t : Nat) (x : Slot) : (c.setSlot t x).flags = c.flags := rfl
@[simp] theorem Core.setSlot_wbuf (c : Core) (t : Nat) (x : Slot) : (c.setSlot t x).wbuf = c.wbuf := rfl
@[simp] theorem Core.setSlot_fx (c : Core) (t : Nat) (x : Slot) : (c.setSlot t x).fx = c.fx := rfl
@[simp] theorem Core.setSlot_cnt (c : Core) (t : Nat) (x : Slot) : (c.setSlot t x).cnt = c.cnt := rfl
@[simp] theorem Core.setSlot_last (c : Core) (t : Nat) (x : Slot) : (c.setSlot t x).last = c.last := rfl
@[simp] theorem Core.setSlot_nextSeq (c : Core) (t : Nat) (x : Slot) : (c.setSlot t x).nextSeq = c.nextSeq := rfl
@[simp] theorem Core.setSlot_lastTask (c : Core) (t : Nat) (x : Slot) : (c.setSlot t x).lastTask = c.lastTask := rfl
@[simp] theorem Core.setSlot_descs (c : Core) (t : Nat) (x : Slot) : (c.setSlot t x).descs = c.descs := rfl
@[simp] theorem Core.setSlot_tcache (c : Core) (t : Nat) (x : Slot) : (c.setSlot t x).tcache = c.tcache := rfl
@[simp] theorem Core.setSlot_shadow (c : Core) (t : Nat) (x : Slot) : (c.setSlot t x).shadow = c.shadow := rfl
@[simp] theorem Core.setSlot_tasks (c : Core) (t : Nat) (x : Slot) : (c.setSlot t x).tasks = c.tasks := rfl
@[simp] theorem Core.setRegion_cmd (c : Core) (t g : Nat) (x : Region) : (c.setRegion t g x).cmd = c.cmd := rfl
@[simp] theorem Core.setRegion_q (c : Core) (t g : Nat) (x : Region) : (c.setRegion t g x).q = c.q := rfl
@[simp] theorem Core.setRegion_slots (c : Core) (t g : Nat) (x : Region) : (c.setRegion t g x).slots = c.slots := rfl
@[simp] theorem Core.setRegion_scratch (c : Core) (t g : Nat) (x : Region) : (c.setRegion t g x).scratch = c.scratch := rfl
@[simp] theorem Core.setRegion_badPar (c : Core) (t g : Nat) (x : Region) : (c.setRegion t g x).badPar = c.badPar := rfl
@[simp] theorem Core.setRegion_wins (c : Core) (t g : Nat) (x : Region) : (c.setRegion t g x).wins = c.wins := rfl
@[simp] theorem Core.setRegion_flags (c : Core) (t g : Nat) (x : Region) : (c.setRegion t g x).flags = c.flags := rfl
@[simp] theorem Core.setRegion_wbuf (c : Core) (t g : Nat) (x : Region) : (c.setRegion t g x).wbuf = c.wbuf := rfl
@[simp] theorem Core.setRegion_fx (c : Core) (t g : Nat) (x : Region) : (c.setRegion t g x).fx = c.fx := rfl
@[simp] theorem Core.setRegion_cnt (c : Core) (t g : Nat) (x : Region) : (c.setRegion t g x).cnt = c.cnt := rfl
@[simp] theorem Core.setRegion_last (c : Core) (t g : Nat) (x : Region) : (c.setRegion t g x).last = c.last := rfl
@[simp] theorem Core.setRegion_nextSeq (c : Core) (t g : Nat) (x : Region) : (c.setRegion t g x).nextSeq = c.nextSeq := rfl
@[simp] theorem Core.setRegion_lastTask (c : Core) (t g : Nat) (x : Region) : (c.setRegion t g x).lastTask = c.lastTask := rfl
@[simp] theorem Core.setRegion_descs (c : Core) (t g : Nat) (x : Region) : (c.setRegion t g x).descs = c.descs := rfl
@[simp] theorem Core.setRegion_tcache (c : Core) (t g : Nat) (x : Region) : (c.setRegion t g x).tcache = c.tcache := rfl
@[simp] theorem Core.setRegion_shadow (c : Core) (t g : Nat) (x : Region) : (c.setRegion t g x).shadow = c.shadow := rfl
@[simp] theorem Core.stall_cmd (c : Core) (e k : Nat) : (c.stall e k).cmd = c.cmd := rfl
@[simp] theorem Core.stall_q (c : Core) (e k : Nat) : (c.stall e k).q = c.q := rfl
@[simp] theorem Core.stall_slots (c : Core) (e k : Nat) : (c.stall e k).slots = c.slots := rfl
@[simp] theorem Core.stall_scratch (c : Core) (e k : Nat) : (c.stall e k).scratch = c.scratch := rfl
@[simp] theorem Core.stall_badPar (c : Core) (e k : Nat) : (c.stall e k).badPar = c.badPar := rfl
@[simp] theorem Core.stall_wins (c : Core) (e k : Nat) : (c.stall e k).wins = c.wins := rfl
@[simp] theorem Core.stall_flags (c : Core) (e k : Nat) : (c.stall e k).flags = c.flags := rfl
@[simp] theorem Core.stall_wbuf (c : Core) (e k : Nat) : (c.stall e k).wbuf = c.wbuf := rfl
@[simp] theorem Core.stall_fx (c : Core) (e k : Nat) : (c.stall e k).fx = c.fx := rfl
@[simp] theorem Core.stall_last (c : Core) (e k : Nat) : (c.stall e k).last = c.last := rfl
@[simp] theorem Core.stall_nextSeq (c : Core) (e k : Nat) : (c.stall e k).nextSeq = c.nextSeq := rfl
@[simp] theorem Core.stall_lastTask (c : Core) (e k : Nat) : (c.stall e k).lastTask = c.lastTask := rfl
@[simp] theorem Core.stall_descs (c : Core) (e k : Nat) : (c.stall e k).descs = c.descs := rfl
@[simp] theorem Core.stall_tcache (c : Core) (e k : Nat) : (c.stall e k).tcache = c.tcache := rfl
@[simp] theorem Core.stall_shadow (c : Core) (e k : Nat) : (c.stall e k).shadow = c.shadow := rfl
@[simp] theorem Core.stall_tasks (c : Core) (e k : Nat) : (c.stall e k).tasks = c.tasks := rfl
@[simp] theorem Core.busyCycle_cmd (c : Core) (e : Nat) : (c.busyCycle e).cmd = c.cmd := rfl
@[simp] theorem Core.busyCycle_q (c : Core) (e : Nat) : (c.busyCycle e).q = c.q := rfl
@[simp] theorem Core.busyCycle_slots (c : Core) (e : Nat) : (c.busyCycle e).slots = c.slots := rfl
@[simp] theorem Core.busyCycle_scratch (c : Core) (e : Nat) : (c.busyCycle e).scratch = c.scratch := rfl
@[simp] theorem Core.busyCycle_badPar (c : Core) (e : Nat) : (c.busyCycle e).badPar = c.badPar := rfl
@[simp] theorem Core.busyCycle_wins (c : Core) (e : Nat) : (c.busyCycle e).wins = c.wins := rfl
@[simp] theorem Core.busyCycle_flags (c : Core) (e : Nat) : (c.busyCycle e).flags = c.flags := rfl
@[simp] theorem Core.busyCycle_wbuf (c : Core) (e : Nat) : (c.busyCycle e).wbuf = c.wbuf := rfl
@[simp] theorem Core.busyCycle_fx (c : Core) (e : Nat) : (c.busyCycle e).fx = c.fx := rfl
@[simp] theorem Core.busyCycle_last (c : Core) (e : Nat) : (c.busyCycle e).last = c.last := rfl
@[simp] theorem Core.busyCycle_nextSeq (c : Core) (e : Nat) : (c.busyCycle e).nextSeq = c.nextSeq := rfl
@[simp] theorem Core.busyCycle_lastTask (c : Core) (e : Nat) : (c.busyCycle e).lastTask = c.lastTask := rfl
@[simp] theorem Core.busyCycle_descs (c : Core) (e : Nat) : (c.busyCycle e).descs = c.descs := rfl
@[simp] theorem Core.busyCycle_tcache (c : Core) (e : Nat) : (c.busyCycle e).tcache = c.tcache := rfl
@[simp] theorem Core.busyCycle_shadow (c : Core) (e : Nat) : (c.busyCycle e).shadow = c.shadow := rfl
@[simp] theorem Core.busyCycle_tasks (c : Core) (e : Nat) : (c.busyCycle e).tasks = c.tasks := rfl

end Sys2Proof.Machine
end

