-- ==== Sys2Proof/Laws/Core.lean ====
section
/-! SUPPORT. Sys2Proof/Laws/Core.lean: what a dispatch, an issue attempt and an issue do under the conditions of Safety.lean. -/
namespace Sys2Proof.Machine

variable {s : State} {n t : Nat} {op : Op}

/-- A task that can dispatch runs the dispatch. -/
theorem withDispatch_of (h : dispatchable s n t op = true) (f : CoreCmd → Core → Nat → State) :
    withDispatch s n t op f = f (cmdOf s n) (s.core n) (wordAt s n t) := by
  unfold dispatchable nextIs at h
  simp only [Bool.and_eq_true, Bool.not_eq_true', beq_iff_eq] at h
  obtain ⟨⟨⟨⟨⟨⟨h1, h2⟩, h6⟩, h3⟩, h4⟩, h5⟩, h7⟩ := h
  unfold withDispatch cmdOf wordAt at *
  cases hc : (s.core n).cmd with
  | none => simp [hc] at h1
  | some m => simp [badFetch, h2, h3, h4, h5, h6, h7, hc]

/-- The head of a queue is tried. -/
theorem withHead_of (h : atHead s n op = true) (f : CoreCmd → Core → QInstr → State) :
    withHead s n op f = f (cmdOf s n) (s.core n) (headOf s n op) := by
  unfold atHead at h
  unfold withHead cmdOf headOf
  cases hc : (s.core n).cmd with
  | none => simp [hc] at h
  | some m =>
    cases hq : queueOf (s.core n) (engOf op) with
    | nil => simp [hq] at h
    | cons q l => simp [hq, hc] at h; simp [hq, hc, h]

/-- A head that can issue computes. -/
theorem issueCompute_of (h : canIssue s n op = true) (f : CoreCmd → Core → QInstr → List (Nat × Nat × Bytes) × FlagSet) :
    issueCompute s n op f =
      s.setCore n (computed (s.core n) op (headOf s n op) (f (cmdOf s n) (s.core n) (headOf s n op))) := by
  unfold canIssue at h
  simp only [Bool.and_eq_true, Option.isNone_iff_eq_none] at h
  obtain ⟨⟨⟨⟨h1, h2⟩, h3⟩, h4⟩, h5⟩ := h
  unfold issueCompute
  rw [withHead_of h1]
  simp [h2, h3, h4, h5, computed]

/-- The parts of canIssue. -/
theorem canIssue_parts (h : canIssue s n op = true) :
    atHead s n op = true ∧ badRegion (s.core n) op (headOf s n op) = none ∧ operandsReady (s.core n) op (headOf s n op) = true ∧
      resultsFree (s.core n) op (headOf s n op) = true ∧ operandBad (s.core n) op (headOf s n op) = none := by
  unfold canIssue at h
  simp only [Bool.and_eq_true, Option.isNone_iff_eq_none] at h
  obtain ⟨⟨⟨⟨h1, h2⟩, h3⟩, h4⟩, h5⟩ := h
  exact ⟨h1, h2, h3, h4, h5⟩

/-- A core that runs a command. -/
theorem cmd_of (h : (s.core n).cmd.isSome = true) : (s.core n).cmd = some (cmdOf s n) := by
  unfold cmdOf
  cases hc : (s.core n).cmd with
  | none => simp [hc] at h
  | some m => rfl

theorem atHead_cmd (h : atHead s n op = true) : (s.core n).cmd = some (cmdOf s n) := by
  refine cmd_of ?_
  unfold atHead at h
  simp only [Bool.and_eq_true] at h
  exact h.1

/-- A task that has moved on is not held. -/
@[simp] theorem gotoPc_hold (k : Task) (pc : Nat) : (gotoPc k pc).hold = .none := rfl

/-- Marking a task that moves on as held and releasing it leaves it moved on. -/
@[simp] theorem gotoPc_release (k : Task) (pc : Nat) (h : Hold) :
    ({ { gotoPc k pc with hold := h } with hold := .none } : Task) = gotoPc k pc := rfl

end Sys2Proof.Machine
end

