-- ==== Sys2Proof/Laws/Ident.lean ====
section
/-! SUPPORT. Sys2Proof/Laws/Ident.lean: no command changes the queue of waiting commands or the identity of the module: what no command changes; the shared operations.
For each function that answers a state, `_ident` says that it keeps them; for each command, `_keeps` says that it answers a next
state that keeps them. -/
namespace Sys2Proof.Machine

/-- What no command changes. -/
def State.ident (s : State) : List Instr × Variant × Nat := (s.pending, s.cfg.variant, s.cfg.rev)

@[simp] theorem ident_mk (s : State) (a b c d e f g h i j k l m n o) :
    State.ident ⟨s.cfg, a, b, c, d, e, f, g, h, i, j, k, l, m, n, o, s.pending⟩ = s.ident := rfl
@[simp] theorem ident_mk_cfg (s : State) (u a b c d e f g h i j k l m n o) :
    State.ident ⟨⟨s.cfg.variant, s.cfg.rev, u⟩, a, b, c, d, e, f, g, h, i, j, k, l, m, n, o, s.pending⟩ = s.ident := rfl
@[simp] theorem ident_ite (c : Prop) [Decidable c] (a b : State) : (if c then a else b).ident = if c then a.ident else b.ident := by
  split <;> rfl
@[simp] theorem ident_foldl {α : Type} (f : State → α → State) (h : ∀ s x, (f s x).ident = s.ident) (l : List α) (s : State) :
    (l.foldl f s).ident = s.ident := by
  induction l generalizing s with
  | nil => rfl
  | cons x l ih => simp [ih, h]
@[simp] theorem ident_foldl_fst {α β : Type} (f : State × β → α → State × β) (h : ∀ x a, (f x a).1.ident = x.1.ident) (l : List α) (x : State × β) :
    (l.foldl f x).1.ident = x.1.ident := by
  induction l generalizing x with
  | nil => rfl
  | cons a l ih => simp [ih, h]
@[simp] theorem ident_foldl_snd {α β : Type} (f : β × State → α → β × State) (h : ∀ s x, (f s x).2.ident = s.2.ident) (l : List α) (s : β × State) :
    (l.foldl f s).2.ident = s.2.ident := by
  induction l generalizing s with
  | nil => rfl
  | cons x l ih => simp [ih, h]

/-- A command's answer is a next state with the same waiting commands and the same identity. -/
def Keeps (r : Res) (s : State) : Prop := ∃ t, r = .next t ∧ t.ident = s.ident
theorem keeps_next {s t : State} (h : t.ident = s.ident) : Keeps (.next t) s := ⟨t, rfl, h⟩

/-! ### Ops -/

@[simp] theorem State_setCore_ident (s : State) (n : Nat) (c : Core) : (State.setCore s n c).ident = s.ident := by
  unfold State.setCore
  rfl

@[simp] theorem State_setCtx_ident (s : State) (k : Nat) (c : Ctx) : (State.setCtx s k c).ident = s.ident := by
  unfold State.setCtx
  rfl

@[simp] theorem State_setSched_ident (s : State) (p : Nat) (x : Sched) : (State.setSched s p x).ident = s.ident := by
  unfold State.setSched
  rfl

@[simp] theorem State_setXlate_ident (s : State) (p : Nat) (x : Xlate) : (State.setXlate s p x).ident = s.ident := by
  unfold State.setXlate
  rfl

@[simp] theorem State_setUpd_ident (s : State) (p : Nat) (x : UpdPart) : (State.setUpd s p x).ident = s.ident := by
  unfold State.setUpd
  rfl

@[simp] theorem State_setProt_ident (s : State) (p : Nat) (x : ProtPart) : (State.setProt s p x).ident = s.ident := by
  unfold State.setProt
  rfl

@[simp] theorem State_setJob_ident (s : State) (p : Nat) (x : Job) : (State.setJob s p x).ident = s.ident := by
  unfold State.setJob
  rfl

@[simp] theorem State_setLnt_ident (s : State) (n : Nat) (e : Lantern) : (State.setLnt s n e).ident = s.ident := by
  unfold State.setLnt
  rfl

@[simp] theorem State_setStkCtl_ident (s : State) (k : Nat) (x : StackCtl) : (State.setStkCtl s k x).ident = s.ident := by
  unfold State.setStkCtl
  rfl

@[simp] theorem State_setUpdReg_ident (s : State) (k : Nat) (x : UpdRegs) : (State.setUpdReg s k x).ident = s.ident := by
  unfold State.setUpdReg
  rfl

@[simp] theorem State_setChk_ident (s : State) (u : Nat) (x : ChkUnit) : (State.setChk s u x).ident = s.ident := by
  unfold State.setChk
  rfl

@[simp] theorem State_setMq_ident (s : State) (n : Nat) (x : Queue) : (State.setMq s n x).ident = s.ident := by
  unfold State.setMq
  rfl

@[simp] theorem State_setPort_ident (s : State) (n : Nat) (x : HostPort) : (State.setPort s n x).ident = s.ident := by
  unfold State.setPort
  rfl

@[simp] theorem State_setTport_ident (s : State) (n : Nat) (x : Port) : (State.setTport s n x).ident = s.ident := by
  unfold State.setTport
  rfl

@[simp] theorem State_setPool_ident (s : State) (d : Nat) (m : Mem) : (State.setPool s d m).ident = s.ident := by
  unfold State.setPool
  rfl

@[simp] theorem State_setStk_ident (s : State) (m : StackMem) : (State.setStk s m).ident = s.ident := by
  unfold State.setStk
  rfl

@[simp] theorem State_hostWrite_ident (s : State) (port : Nat) (a : Nat) (bs : Bytes) : (State.hostWrite s port a bs).ident = s.ident := by
  unfold State.hostWrite
  rfl

@[simp] theorem report_ident (s : State) (line : Nat) (e : Evt) : (report s line e).ident = s.ident := by simp [report]

@[simp] theorem sendIrq_ident (s : State) (port : Nat) (vf : Nat) (vec : Nat) : (sendIrq s port vf vec).ident = s.ident := by
  unfold sendIrq
  split <;> rfl

@[simp] theorem ctxEvent_ident (s : State) (k : Nat) (b : Nat) : (ctxEvent s k b).ident = s.ident := by simp [ctxEvent]

@[simp] theorem setCtxState_ident (s : State) (k : Nat) (st : CtxState) : (setCtxState s k st).ident = s.ident := by simp [setCtxState]

@[simp] theorem drawFree_ident (s : State) : (drawFree s).2.ident = s.ident := by
  unfold drawFree
  rfl

/-! ### RegionOps -/

@[simp] theorem onCores_ident (s : State) (p : Nat) (f : Core → Core) : (onCores s p f).ident = s.ident := by
  unfold onCores
  rfl

@[simp] theorem dropPending_ident (s : State) (p : Nat) (pages : List Nat) : (dropPending s p pages).ident = s.ident := by
  unfold dropPending
  simp

/-! ### UseOps -/

@[simp] theorem setUse_ident (s : State) (k : Nat) (u : UseCtr) : (setUse s k u).ident = s.ident := by
  unfold setUse
  rfl

@[simp] theorem meter_ident (s : State) (k : Nat) (f : UseCtr → UseCtr) : (meter s k f).ident = s.ident := by simp [meter]

@[simp] theorem useStack_ident (s : State) (k : Nat) (n : Nat) : (useStack s k n).ident = s.ident := by simp [useStack]

@[simp] theorem useHost_ident (s : State) (k : Nat) (n : Nat) : (useHost s k n).ident = s.ident := by simp [useHost]

@[simp] theorem useTrellis_ident (s : State) (k : Nat) (n : Nat) : (useTrellis s k n).ident = s.ident := by simp [useTrellis]

@[simp] theorem useEnergy_ident (s : State) (k : Nat) (n : Nat) : (useEnergy s k n).ident = s.ident := by simp [useEnergy]

@[simp] theorem useEmit_ident (s : State) (k : Nat) (kind : Nat) (flags : Nat) (t1 : Nat) (t2 : Nat) (stepped : Bool) : (useEmit s k kind flags t1 t2 stepped).ident = s.ident := by
  unfold useEmit
  rfl

@[simp] theorem skipRecord_ident (s : State) (k : Nat) : (skipRecord s k).ident = s.ident := rfl

@[simp] theorem usageOpen_ident (s : State) (k : Nat) (tenant : Nat) : (usageOpen s k tenant).ident = s.ident := by
  unfold usageOpen
  simp only []
  (repeat' split) <;> simp

@[simp] theorem usageClose_ident (s : State) (k : Nat) (flags : Nat) : (usageClose s k flags).ident = s.ident := by simp [usageClose]

@[simp] theorem usageBoundary_ident (s : State) (k : Nat) (t : Nat) : (usageBoundary s k t).ident = s.ident := by
  unfold usageBoundary
  (repeat' split) <;> simp

@[simp] theorem usageStep_ident (s : State) (k : Nat) (old : Nat) (new : Nat) : (usageStep s k old new).ident = s.ident := by
  unfold usageStep
  (repeat' split) <;> simp

@[simp] theorem settleGrant_ident (s : State) (k : Nat) (id : Nat) : (settleGrant s k id).ident = s.ident := by
  unfold settleGrant
  simp only []
  (repeat' split) <;> simp

@[simp] theorem notEligible_ident (s : State) (x : Nat) : (notEligible s x).ident = s.ident := rfl

@[simp] theorem endEligible_ident (s : State) (k : Nat) (m : Cmd) : (endEligible s k m).ident = s.ident := by
  unfold endEligible
  (repeat' split) <;> simp

@[simp] theorem chargeEst_ident (s : State) (k : Nat) (m : Cmd) (b : Bool) : (chargeEst s k m b).ident = s.ident := by
  unfold chargeEst
  split <;> simp

/-! ### StackOps -/

@[simp] theorem stkRead_ident (s : State) (spa : Nat) (n : Nat) : (stkRead s spa n).2.ident = s.ident := by
  unfold stkRead
  rfl

@[simp] theorem checkCw_ident (s : State) (p : Nat) (cw : Nat) : (checkCw s p cw).ident = s.ident := by simp [checkCw]

@[simp] theorem checkRange_ident (s : State) (p : Nat) (spa : Nat) (n : Nat) : (checkRange s p spa n).2.ident = s.ident := by simp [checkRange]

@[simp] theorem cacheLook_ident (s : State) (p : Nat) (die : Nat) (g : Nat) (bad : Bool) : (cacheLook s p die g bad).ident = s.ident := by simp [cacheLook]

@[simp] theorem readStackAt_ident (s : State) (key die spa len : Nat) (fill : Bool) : (readStackAt s key die spa len fill).2.2.ident = s.ident := by simp [readStackAt]

@[simp] theorem entryRead_ident (s : State) (e : SortEnt) : (entryRead s e).ident = s.ident := by
  unfold entryRead
  (repeat' split) <;> simp

@[simp] theorem discardReads_ident (s : State) (key n : Nat) : (discardReads s key n).ident = s.ident := by
  unfold discardReads
  extract_lets c s1 s2 mine es s3 keep
  have h1 : s1.ident = s.ident := by simp [s1]
  have h2 : s2.ident = s1.ident := by
    simp only [s2]
    refine ident_foldl _ (fun s y => ?_) _ _
    split <;> simp
  have h3 : s3.ident = s2.ident := by simp [s3]
  show s3.ident = _
  rw [h3, h2, h1]

@[simp] theorem dropWalks_ident (s : State) (p : Nat) (cores : List Nat) : (dropWalks s p cores).ident = s.ident := by simp [dropWalks]

/-! ### CtxOps -/

@[simp] theorem updCmd_ident (s : State) (k : Nat) (id : Nat) (f : Cmd → Cmd) : (updCmd s k id f).ident = s.ident := by
  unfold updCmd
  rfl

@[simp] theorem complete_ident (s : State) (k : Nat) (id : Nat) (x : Compl) : (complete s k id x).ident = s.ident := by
  unfold complete
  simp only []
  (repeat' split) <;> simp

@[simp] theorem completeMgmt_ident (s : State) (n : Nat) (id : Nat) (x : Compl) : (completeMgmt s n id x).ident = s.ident := by
  unfold completeMgmt
  simp only []
  (repeat' split) <;> simp

@[simp] theorem refreshMasks_ident (s : State) (p : Nat) : (refreshMasks s p).ident = s.ident := by
  unfold refreshMasks
  rfl

@[simp] theorem dropWaiters_ident (s : State) (p : Nat) (cores : List Nat) : (dropWaiters s p cores).ident = s.ident := by
  unfold dropWaiters
  rfl

@[simp] theorem gatherFlags_ident (s : State) (k : Nat) (id : Nat) (c : Core) : (gatherFlags s k id c).ident = s.ident := by
  unfold gatherFlags
  rfl

@[simp] theorem quietRun_ident (s : State) (p : Nat) (status : Nat) : (quietRun s p status).ident = s.ident := by
  unfold quietRun
  (repeat' split) <;> simp

@[simp] theorem stopRun_ident (s : State) (p : Nat) (status : Nat) (result : Nat) : (stopRun s p status result).ident = s.ident := by
  unfold stopRun
  (repeat' split) <;> simp

@[simp] theorem freeLanterns_ident (s : State) (k : Nat) : (freeLanterns s k).ident = s.ident := by
  unfold freeLanterns
  rfl

@[simp] theorem dropSets_ident (s : State) (k : Nat) : (dropSets s k).ident = s.ident := by
  unfold dropSets
  rfl

@[simp] theorem unloadImage_ident (s : State) (k : Nat) : (unloadImage s k).ident = s.ident := by
  unfold unloadImage
  simp only []
  (repeat' split) <;> simp

@[simp] theorem stopEngine_ident (s : State) (p : Nat) : (stopEngine s p).ident = s.ident := by
  unfold stopEngine
  rfl

@[simp] theorem completeAll_ident (s : State) (k status : Nat) (core : Option (Nat × Compl)) : (completeAll s k status core).ident = s.ident := by
  unfold completeAll
  extract_lets cmds go eng s1 s2
  have hg : ∀ s m, (go s m).ident = s.ident := by
    intro s m
    simp only [go]
    split <;> simp
  simp [s2, s1, hg]

@[simp] theorem stopCtx_ident (s : State) (k status : Nat) : (stopCtx s k status).1.ident = s.ident := by
  unfold stopCtx
  extract_lets p
  split
  rename_i s1 core h
  have h1 : s1.ident = s.ident := by
    (repeat' split at h) <;> cases h <;> simp
  extract_lets s2
  show s2.ident = _
  simp only [s2]
  (repeat' split) <;> simp [h1]

@[simp] theorem teardown_ident (s : State) (k status cause core cmdId : Nat) (fault : Bool) :
    (teardown s k status cause core cmdId fault).ident = s.ident := by
  unfold teardown
  extract_lets c
  split
  · show (completeAll (stopCtx _ k status).1 k status (stopCtx _ k status).2).ident = s.ident
    rw [completeAll_ident, stopCtx_ident, report_ident, setCtxState_ident, State_setCtx_ident]
  · rfl

@[simp] theorem cutRest_ident (s : State) (k status : Nat) : (cutRest s k status).ident = s.ident := by
  unfold cutRest
  simp

@[simp] theorem cutBefore_ident (s : State) (k status no : Nat) : (cutBefore s k status no).ident = s.ident := by
  unfold cutBefore
  simp

@[simp] theorem dropCmds_ident (s : State) (k : Nat) : (dropCmds s k).ident = s.ident := by
  unfold dropCmds
  simp only []
  simp

@[simp] theorem endContext_ident (s : State) (k : Nat) (flags : Nat) : (endContext s k flags).ident = s.ident := by
  unfold endContext
  simp only []
  (repeat' split) <;> simp

@[simp] theorem resetContext_ident (s : State) (k : Nat) : (resetContext s k).ident = s.ident := by
  unfold resetContext
  simp only []
  (repeat' split) <;> simp

/-! ### Fabric -/

@[simp] theorem queueUnits_ident (s : State) (n : Nat) (o : Outgoing) : (queueUnits s n o).ident = s.ident := by
  unfold queueUnits
  rfl

@[simp] theorem jobAlert_ident (s : State) (p : Nat) : (jobAlert s p).ident = s.ident := by simp [jobAlert]

@[simp] theorem unroute_ident (s : State) (dir dst job : Nat) : (unroute s dir dst job).ident = s.ident := by
  unfold unroute
  simp only []
  (repeat' split) <;> simp

@[simp] theorem launchOut_ident (s : State) (o : Outgoing) : (launchOut s o).ident = s.ident := by
  unfold launchOut
  (repeat' split) <;> simp

@[simp] theorem launch_ident (s : State) (arrDir : Nat) (k : Packet) : (launch s arrDir k).ident = s.ident := by
  unfold launch
  simp

@[simp] theorem sendPkt_ident (s : State) (p : Nat) (rank : Nat) (k : Packet) : (sendPkt s p rank k).ident = s.ident := by
  unfold sendPkt
  simp only []
  (repeat' split) <;> simp

@[simp] theorem sendFor_ident (s : State) (p key rank : Nat) (k : Packet) : (sendFor s p key rank k).ident = s.ident := by
  unfold sendFor
  split <;> simp

@[simp] theorem sendPaid_ident (s : State) (p : Nat) (key : Option Nat) (rank : Nat) (k : Packet) : (sendPaid s p key rank k).ident = s.ident := by
  unfold sendPaid
  split <;> simp

@[simp] theorem acceptPkt_ident (s : State) (port : Nat) (k : Packet) : (acceptPkt s port k).2.ident = s.ident := by
  unfold acceptPkt
  simp only []
  (repeat' split) <;> simp

/-! ### LanternLib -/

@[simp] theorem flushCount_ident (s : State) (n : Nat) : (flushCount s n).ident = s.ident := by simp [flushCount]

@[simp] theorem grantTask_ident (s : State) (w : Waiter) : (grantTask s w).ident = s.ident := by
  unfold grantTask
  simp only []
  (repeat' split) <;> simp

@[simp] theorem noteWaits_ident (s : State) (n : Nat) : (noteWaits s n).ident = s.ident := by
  unfold noteWaits
  simp

@[simp] theorem settleHome_ident (s : State) (n : Nat) (e : Lantern) : (settleHome s n e).ident = s.ident := by
  unfold settleHome
  rcases grantLoop (e.queue ++ e.held) e.count with ⟨c, q, g⟩
  simp

@[simp] theorem cmdFlags_ident (s : State) (k id : Nat) (fl : FlagSet) : (cmdFlags s k id fl).ident = s.ident := by
  unfold cmdFlags
  simp

@[simp] theorem updFlags_ident (s : State) (p : Nat) (fl : FlagSet) : (updFlags s p fl).ident = s.ident := by
  unfold updFlags
  simp only []
  (repeat' split) <;> simp

@[simp] theorem normMark_ident (s : State) (p : Nat) : (normMark s p).ident = s.ident := by
  unfold normMark
  simp only []
  (repeat' split) <;> simp

@[simp] theorem normFactor_ident (s : State) (p : Nat) : (normFactor s p).ident = s.ident := by
  unfold normFactor
  simp only []
  (repeat' split) <;> simp

@[simp] theorem finishHalt_ident (s : State) (p : Nat) : (finishHalt s p).ident = s.ident := by simp [finishHalt]

@[simp] theorem uncache_ident (s : State) (p : Nat) (spa : Nat) (n : Nat) : (uncache s p spa n).ident = s.ident := by simp [uncache]

@[simp] theorem stkWrite_ident (s : State) (p : Nat) (spa : Nat) (bs : Bytes) : (stkWrite s p spa bs).ident = s.ident := by simp [stkWrite]

@[simp] theorem pageWrite_ident (s : State) (p : Nat) (va : Nat) (bs : Bytes) : (pageWrite s p va bs).ident = s.ident := by
  unfold pageWrite
  (repeat' split) <;> simp

@[simp] theorem writePages_ident (p f : Nat) : ∀ (s : State) (va : Nat) (bs : Bytes), (writePages p f s va bs).ident = s.ident := by
  induction f with
  | zero => intro s va bs; rfl
  | succ f ih =>
    intro s va bs
    unfold writePages
    simp only []
    split <;> simp [ih]

@[simp] theorem engWrite_ident (s : State) (p : Nat) (va : Nat) (bs : Bytes) : (engWrite s p va bs).ident = s.ident := writePages_ident _ _ _ _ _

@[simp] theorem clearMapAt_ident (s : State) (p step : Nat) : (clearMapAt s p step).ident = s.ident := by
  unfold clearMapAt
  split <;> simp

@[simp] theorem setMapAt_ident (s : State) (p step key : Nat) : (setMapAt s p step key).ident = s.ident := by
  unfold setMapAt
  dsimp only
  repeat' split
  all_goals simp

@[simp] theorem commitEvent_ident (s : State) (p : Nat) : (commitEvent s p).ident = s.ident := by
  unfold commitEvent
  simp only []
  (repeat' split) <;> simp

@[simp] theorem lntFault_ident (s : State) (cause : Nat) (part : Nat) (ctx : Nat) (n : Nat) (dropped : Bool) : (lntFault s cause part ctx n dropped).ident = s.ident := by simp [lntFault]

theorem lntOpAs_ident (s : State) (k cid lcore num : Nat) (op : State → Nat → State) (h : ∀ n, (op s n).ident = s.ident) :
    (lntOpAs s k cid lcore num op).ident = s.ident := by
  unfold lntOpAs
  simp only []
  (repeat' split) <;> simp [h]

@[simp] theorem rearmStep_ident (s : State) (p k : Nat) : (rearmStep s p k).ident = s.ident := by
  have h : ∀ (s : State) (n : Nat) (e : Lantern), (settleHome s n e).ident = s.ident := fun s n e => by simp
  unfold rearmStep
  simp only []
  split <;> rw [lntOpAs_ident _ _ _ _ _ _ fun n => h _ _ _, lntOpAs_ident _ _ _ _ _ _ fun n => h _ _ _]

@[simp] theorem targetEvent_ident (s : State) (n : Nat) : (targetEvent s n).ident = s.ident := by simp [targetEvent]

@[simp] theorem signalEntry_ident (s : State) (n : Nat) (v : Nat) : (signalEntry s n v).ident = s.ident := by simp [signalEntry]

@[simp] theorem armAt_ident (s : State) (n : Nat) (v : Nat) : (armAt s n v).ident = s.ident := by simp [armAt]

theorem lntOp_ident (s : State) (k id lcore num : Nat) (op : State → Nat → State) (h : ∀ n, (op s n).ident = s.ident) :
    (lntOp s k id lcore num op).ident = s.ident :=
  lntOpAs_ident _ _ _ _ _ _ h

@[simp] theorem lntSignal_ident (s : State) (k id lcore num v : Nat) : (lntSignal s k id lcore num v).ident = s.ident :=
  lntOp_ident _ _ _ _ _ _ fun n => by simp

@[simp] theorem hubSignal_ident (s : State) (k num v : Nat) : (hubSignal s k num v).ident = s.ident :=
  lntOpAs_ident _ _ _ _ _ _ fun n => by simp

theorem allocLantern_ident {s t : State} {k num : Nat} {d : LanternDecl} (h : allocLantern s k num d = some t) : t.ident = s.ident := by
  unfold allocLantern at h
  simp only [] at h
  repeat' split at h
  all_goals first | (cases h; rfl) | cases h

theorem allocTable_ident {k : Nat} (ds : List LanternDecl) : ∀ {s t : State} {num : Nat}, allocTable k s num ds = some t → t.ident = s.ident := by
  induction ds with
  | nil => intro s t num h; cases h; rfl
  | cons d ds ih =>
    intro s t num h
    unfold allocTable at h
    split at h
    · cases h
    · rename_i s' h'; rw [ih h, allocLantern_ident h']

/-! ### CoreSeq -/

@[simp] theorem regionFault_ident (s : State) (n : Nat) (m : CoreCmd) (reader : Nat) (writer : Nat) (t : Nat) (g : Nat) (word : Nat) : (regionFault s n m reader writer t g word).ident = s.ident := by simp [regionFault]

@[simp] theorem parityAbort_ident (s : State) (n : Nat) (m : CoreCmd) (source : Nat) (loc : Nat) (phys : Nat) : (parityAbort s n m source loc phys).ident = s.ident := by simp [parityAbort]

@[simp] theorem refuseFetch_ident (s : State) (n t : Nat) (m : CoreCmd) : (refuseFetch s n t m).ident = s.ident := by
  unfold refuseFetch
  simp only []
  split <;> simp

theorem withDispatch_ident (s : State) (n t : Nat) (op : Op) (f : CoreCmd → Core → Nat → State) (h : ∀ m c w, (f m c w).ident = s.ident) :
    (withDispatch s n t op f).ident = s.ident := by
  unfold withDispatch
  simp only []
  (repeat' split) <;> simp [h]

@[simp] theorem dispatchOp_ident (s : State) (n : Nat) (t : Nat) (op : Op) : (dispatchOp s n t op).ident = s.ident := by
  unfold dispatchOp
  refine withDispatch_ident _ _ _ _ _ ?_
  intros
  simp

theorem withHead_ident (s : State) (n : Nat) (op : Op) (f : CoreCmd → Core → QInstr → State) (h : ∀ m c q, (f m c q).ident = s.ident) :
    (withHead s n op f).ident = s.ident := by
  unfold withHead
  simp only []
  (repeat' split) <;> simp [h]

@[simp] theorem refusedAccess_ident (s : State) (n : Nat) (m : CoreCmd) (op : Op) (q : QInstr) (g : Nat) : (refusedAccess s n m op q g).ident = s.ident := by
  unfold refusedAccess
  simp

@[simp] theorem issueCompute_ident (s : State) (n : Nat) (op : Op) (f : CoreCmd → Core → QInstr → List (Nat × Nat × Bytes) × FlagSet) : (issueCompute s n op f).ident = s.ident := by
  unfold issueCompute
  refine withHead_ident _ _ _ _ ?_
  intros
  (repeat' split) <;> simp

end Sys2Proof.Machine
end

