-- ==== Sys2Proof/Laws/IdentCore.lean ====
section
/-! SUPPORT. Sys2Proof/Laws/IdentCore.lean: no command changes the queue of waiting commands or the identity of the module: cores, streams, lanterns and the sequencer.
For each function that answers a state, `_ident` says that it keeps them; for each command, `_keeps` says that it answers a next
state that keeps them. -/
namespace Sys2Proof.Machine

/-! ### Array -/

@[simp] theorem issuePass_ident (s : State) (n : Nat) (op : Op) : (issuePass s n op).ident = s.ident := by
  unfold issuePass
  refine withHead_ident _ _ _ _ ?_
  intros
  (repeat' split) <;> simp

@[simp] theorem issueDrain_ident (s : State) (n : Nat) : (issueDrain s n).ident = s.ident := by
  unfold issueDrain
  refine withHead_ident _ _ _ _ ?_
  intros
  (repeat' split) <;> simp

theorem execMxMm_keeps (core : Nat) (ev : EngEv) (s : State) : Keeps (execMxMm core ev s) s := by
  unfold execMxMm
  (repeat' split) <;> exact keeps_next (by simp)

theorem execMxCv_keeps (core : Nat) (ev : EngEv) (s : State) : Keeps (execMxCv core ev s) s := by
  unfold execMxCv
  (repeat' split) <;> exact keeps_next (by simp)

theorem execMxDr_keeps (core : Nat) (ev : EngEv) (s : State) : Keeps (execMxDr core ev s) s := by
  unfold execMxDr
  (repeat' split) <;> exact keeps_next (by simp)

theorem execMxFmt_keeps (core : Nat) (ev : EngEv) (s : State) : Keeps (execMxFmt core ev s) s := by
  unfold execMxFmt
  split
  · exact keeps_next (by simp)
  · exact keeps_next (withHead_ident _ _ _ _ fun _ _ _ => rfl)

theorem execTileLoad_keeps (core : Nat) (s : State) : Keeps (execTileLoad core s) s := by
  unfold execTileLoad
  simp only []
  (repeat' split) <;> exact keeps_next (by simp)

/-! ### Vector -/

@[simp] theorem vxStep_ident (s : State) (core : Nat) (ev : EngEv) (op : Op) (f : CoreCmd → Core → QInstr → List (Nat × Nat × Bytes) × FlagSet) : (vxStep s core ev op f).ident = s.ident := by
  unfold vxStep
  (repeat' split) <;> simp

theorem execVxB_keeps (core : Nat) (ev : EngEv) (s : State) : Keeps (execVxB core ev s) s := by
  unfold execVxB
  exact keeps_next (by simp)

theorem execVxT_keeps (core : Nat) (ev : EngEv) (s : State) : Keeps (execVxT core ev s) s := by
  unfold execVxT
  exact keeps_next (by simp)

theorem execVxUCvt_keeps (core : Nat) (ev : EngEv) (s : State) : Keeps (execVxUCvt core ev s) s := by
  unfold execVxUCvt
  exact keeps_next (by simp)

theorem execVxUCopy_keeps (core : Nat) (ev : EngEv) (s : State) : Keeps (execVxUCopy core ev s) s := by
  unfold execVxUCopy
  exact keeps_next (by simp)

theorem execVxUNeg_keeps (core : Nat) (ev : EngEv) (s : State) : Keeps (execVxUNeg core ev s) s := by
  unfold execVxUNeg
  exact keeps_next (by simp)

theorem execVxUAbs_keeps (core : Nat) (ev : EngEv) (s : State) : Keeps (execVxUAbs core ev s) s := by
  unfold execVxUAbs
  exact keeps_next (by simp)

theorem execVxUTrn_keeps (core : Nat) (ev : EngEv) (s : State) : Keeps (execVxUTrn core ev s) s := by
  unfold execVxUTrn
  exact keeps_next (by simp)

theorem execVxURsum_keeps (core : Nat) (ev : EngEv) (s : State) : Keeps (execVxURsum core ev s) s := by
  unfold execVxURsum
  exact keeps_next (by simp)

theorem execVxURmax_keeps (core : Nat) (ev : EngEv) (s : State) : Keeps (execVxURmax core ev s) s := by
  unfold execVxURmax
  exact keeps_next (by simp)

theorem execVxURsumsq_keeps (core : Nat) (ev : EngEv) (s : State) : Keeps (execVxURsumsq core ev s) s := by
  unfold execVxURsumsq
  exact keeps_next (by simp)

/-! ### FuncUnit -/

@[simp] theorem fxParity_ident (s : State) (n : Nat) (m : CoreCmd) (key : Nat) : (fxParity s n m key).ident = s.ident := by simp [fxParity]

@[simp] theorem fxStep_ident (s : State) (n : Nat) (ev : EngEv) (op : Op) : (fxStep s n ev op).ident = s.ident := by
  unfold fxStep
  simp only []
  (repeat' split) <;> simp

theorem execFxFwd_keeps (core : Nat) (ev : EngEv) (s : State) : Keeps (execFxFwd core ev s) s := by
  unfold execFxFwd
  exact keeps_next (by simp)

theorem execFxBwi_keeps (core : Nat) (ev : EngEv) (s : State) : Keeps (execFxBwi core ev s) s := by
  unfold execFxBwi
  exact keeps_next (by simp)

theorem execFxBwo_keeps (core : Nat) (ev : EngEv) (s : State) : Keeps (execFxBwo core ev s) s := by
  unfold execFxBwo
  exact keeps_next (by simp)

/-! ### Stack -/

theorem execMap_keeps (fn : Fn) (host : Bool) (s : State) : Keeps (execMap fn host s) s := by
  unfold execMap
  simp only []
  (repeat' split) <;> exact keeps_next (by simp)

theorem execUnmap_keeps (fn : Fn) (host : Bool) (s : State) : Keeps (execUnmap fn host s) s := by
  unfold execUnmap
  simp only []
  (repeat' split) <;> exact keeps_next (by simp)

theorem execUnmapComplete_keeps (p : Nat) (s : State) : Keeps (execUnmapComplete p s) s := by
  unfold execUnmapComplete
  simp only []
  (repeat' split) <;> exact keeps_next (by simp)

theorem execPatrolScrub_keeps (k : Nat) (s : State) : Keeps (execPatrolScrub k s) s := by
  unfold execPatrolScrub
  (repeat' split) <;> exact keeps_next (by simp)

/-! ### StreamLib -/

@[simp] theorem haltSlot_ident (s : State) (n : Nat) (i : Nat) (m : CoreCmd) (cause : Nat) (va : Nat) : (haltSlot s n i m cause va).ident = s.ident := by simp [haltSlot]

@[simp] theorem denyStream_ident (s : State) (m : CoreCmd) : (denyStream s m).ident = s.ident := by simp [denyStream]

@[simp] theorem poolFault_ident (s : State) (n : Nat) (i : Nat) (m : CoreCmd) (off : Nat) : (poolFault s n i m off).ident = s.ident := by simp [poolFault]

@[simp] theorem startWalk_ident (s : State) (p n i va : Nat) : (startWalk s p n i va).ident = s.ident := by
  unfold startWalk
  rfl

@[simp] theorem endWalk_ident (s : State) (p n i : Nat) : (endWalk s p n i).ident = s.ident := by
  unfold endWalk
  simp

@[simp] theorem refusedStream_ident (s : State) (n i : Nat) (m : CoreCmd) (pos : Nat) : (refusedStream s n i m pos).ident = s.ident := by
  unfold refusedStream
  simp

@[simp] theorem deliverAt_ident (s : State) (n i : Nat) (m : CoreCmd) (q : Nat) (bs : Bytes) : (deliverAt s n i m q bs).ident = s.ident := by
  unfold deliverAt
  simp

@[simp] theorem poolParity_ident (s : State) (n : Nat) (m : CoreCmd) (off : Nat) (phys : Nat) : (poolParity s n m off phys).ident = s.ident := by simp [poolParity]

@[simp] theorem poolWrite_ident (s : State) (die : Nat) (a : Nat) (bs : Bytes) : (poolWrite s die a bs).ident = s.ident := by
  unfold poolWrite
  rfl

@[simp] theorem drainPf_ident (n i : Nat) (m : CoreCmd) (k : Nat) : ∀ (q : Nat) (s : State), (drainPf n i m k q s).ident = s.ident := by
  induction k with
  | zero => intro q s; rfl
  | succ k ih =>
    intro q s
    unfold drainPf
    simp only []
    (repeat' split) <;> simp [ih]

@[simp] theorem pumpIn_ident (n i : Nat) (m : CoreCmd) (k : Nat) : ∀ s : State, (pumpIn n i m k s).ident = s.ident := by
  induction k with
  | zero => intro s; rfl
  | succ k ih =>
    intro s
    unfold pumpIn
    simp only []
    (repeat' split) <;> simp [ih]

@[simp] theorem sendChannel_ident (s : State) (p : Nat) (key : Nat) (chan : Nat) (q : Nat) (bs : Bytes) : (sendChannel s p key chan q bs).ident = s.ident := by simp [sendChannel]

@[simp] theorem pumpOut_ident (n i : Nat) (m : CoreCmd) (k : Nat) : ∀ s : State, (pumpOut n i m k s).ident = s.ident := by
  induction k with
  | zero => intro s; rfl
  | succ k ih =>
    intro s
    unfold pumpOut
    simp only []
    (repeat' split) <;> simp [ih]

@[simp] theorem ackTailed_ident (s : State) (n i : Nat) (m : CoreCmd) : (ackTailed s n i m).ident = s.ident := by
  unfold ackTailed
  simp only []
  split <;> simp

@[simp] theorem pumpSlot_ident (s : State) (n : Nat) (i : Nat) (m : CoreCmd) : (pumpSlot s n i m).ident = s.ident := by simp [pumpSlot]

@[simp] theorem streamIdle_ident (s : State) (n : Nat) (m : CoreCmd) : (streamIdle s n m).ident = s.ident := by
  unfold streamIdle
  simp only []
  (repeat' split) <;> simp

@[simp] theorem issueStream_ident (s : State) (n : Nat) (i : Nat) (op : Op) : (issueStream s n i op).ident = s.ident := by
  unfold issueStream
  refine withHead_ident _ _ _ _ ?_
  intros
  (repeat' split) <;> simp

@[simp] theorem stStep_ident (s : State) (n : Nat) (slot : Nat) (ev : EngEv) (op : Op) : (stStep s n slot ev op).ident = s.ident := by
  unfold stStep
  (repeat' split) <;> simp

/-! ### Streams -/

theorem execStIn_keeps (core : Nat) (ev : EngEv) (slot : Nat) (s : State) : Keeps (execStIn core ev slot s) s := by
  unfold execStIn
  exact keeps_next (by simp)

theorem execStOut_keeps (core : Nat) (ev : EngEv) (slot : Nat) (s : State) : Keeps (execStOut core ev slot s) s := by
  unfold execStOut
  exact keeps_next (by simp)

theorem execStWch_keeps (core : Nat) (ev : EngEv) (slot : Nat) (s : State) : Keeps (execStWch core ev slot s) s := by
  unfold execStWch
  exact keeps_next (by simp)

@[simp] theorem issueTil_ident (s : State) (n : Nat) : (issueTil s n).ident = s.ident := by
  unfold issueTil
  refine withHead_ident _ _ _ _ ?_
  intros
  (repeat' split) <;> simp

theorem execStTil_keeps (core : Nat) (ev : EngEv) (s : State) : Keeps (execStTil core ev s) s := by
  unfold execStTil
  (repeat' split) <;> exact keeps_next (by simp)

@[simp] theorem beginIn_ident (s : State) (n : Nat) (i : Nat) (m : CoreCmd) : (beginIn s n i m).ident = s.ident := by
  unfold beginIn
  simp only []
  (repeat' split) <;> simp

@[simp] theorem beginOut_ident (s : State) (n : Nat) (i : Nat) : (beginOut s n i).ident = s.ident := by simp [beginOut]

@[simp] theorem pumpCycle_ident (s : State) (n i : Nat) (m : CoreCmd) : (pumpCycle s n i m).ident = s.ident := by
  unfold pumpCycle
  simp only []
  split <;> simp

theorem execChunkBegin_keeps (core : Nat) (slot : Nat) (s : State) : Keeps (execChunkBegin core slot s) s := by
  unfold execChunkBegin
  simp only []
  (repeat' split) <;> exact keeps_next (by simp)

@[simp] theorem stackUnc_ident (s : State) (m : CoreCmd) (reader : Nat) (va : Nat) : (stackUnc s m reader va).ident = s.ident := by simp [stackUnc]

@[simp] theorem returnRun_ident (n : Nat) (i : Nat) (m : CoreCmd) (q0 : Nat) (data : Bytes) (s : State) (run : Nat × Nat × Nat) : (returnRun n i m q0 data s run).ident = s.ident := by
  unfold returnRun
  simp only []
  (repeat' split) <;> simp

@[simp] theorem endStream_ident (s : State) (n : Nat) (i : Nat) (m : CoreCmd) : (endStream s n i m).ident = s.ident := by simp [endStream]

theorem execChunkVisible_keeps (core : Nat) (slot : Nat) (s : State) : Keeps (execChunkVisible core slot s) s := by
  unfold execChunkVisible
  simp only []
  (repeat' split) <;> exact keeps_next (by simp)

theorem execTranslationWalkComplete_keeps (core : Nat) (slot : Nat) (s : State) : Keeps (execTranslationWalkComplete core slot s) s := by
  unfold execTranslationWalkComplete
  simp only []
  (repeat' split) <;> exact keeps_next (by simp)

theorem execGo_keeps (fn : Fn) (core : Nat) (slot : Nat) (s : State) : Keeps (execGo fn core slot s) s := by
  unfold execGo
  simp only []
  (repeat' split) <;> exact keeps_next (by simp)

theorem execDeny_keeps (fn : Fn) (core : Nat) (slot : Nat) (s : State) : Keeps (execDeny fn core slot s) s := by
  unfold execDeny
  simp only []
  (repeat' split) <;> exact keeps_next (by simp)

theorem execHaltedTimeLimit_keeps (p : Nat) (s : State) : Keeps (execHaltedTimeLimit p s) s := by
  unfold execHaltedTimeLimit
  (repeat' split) <;> exact keeps_next (by simp)

@[simp] theorem prefetchRun_ident (n : Nat) (i : Nat) (m : CoreCmd) (q0 : Nat) (data : Bytes) (s : State) (run : Nat × Nat × Nat) : (prefetchRun n i m q0 data s run).ident = s.ident := by
  unfold prefetchRun
  simp only []
  (repeat' split) <;> simp

theorem execPrefetchRead_keeps (core : Nat) (slot : Nat) (data : Bytes) (s : State) : Keeps (execPrefetchRead core slot data s) s := by
  unfold execPrefetchRead
  simp only []
  (repeat' split) <;> exact keeps_next (by simp)

/-! ### Gather -/

theorem sorterPut_ident {s t : State} {k p granule : Nat} {req : Nat × Nat × Nat} (h : sorterPut s k p granule req = some t) :
    t.ident = s.ident := by
  unfold sorterPut at h
  simp only [] at h
  repeat' split at h
  all_goals first | (cases h; rfl) | cases h

theorem execGatherSorterEntry_keeps (core slot : Nat) (s : State) : Keeps (execGatherSorterEntry core slot s) s := by
  unfold execGatherSorterEntry
  simp only []
  repeat' split
  all_goals first
    | exact keeps_next rfl
    | (refine keeps_next ?_; simp; done)
    | exact keeps_next (sorterPut_ident (by assumption))
    | (refine keeps_next (Eq.trans ?_ (sorterPut_ident (by assumption))); simp)

theorem execGatherSorterIssue_keeps (k : Nat) (s : State) : Keeps (execGatherSorterIssue k s) s := by
  unfold execGatherSorterIssue
  extract_lets c c' s'
  (repeat' split) <;> exact keeps_next rfl

theorem execGatherPromotion_keeps (k : Nat) (i : Nat) (s : State) : Keeps (execGatherPromotion k i s) s := by
  unfold execGatherPromotion
  simp only []
  (repeat' split) <;> exact keeps_next (by simp)

@[simp] theorem gatherTo_ident (s : State) (e : SortEnt) (r : Nat × Nat × Nat) : (gatherTo s e r).ident = s.ident := by
  unfold gatherTo
  simp only []
  (repeat' split) <;> simp

@[simp] theorem gatherReturn_ident (s : State) (n i off : Nat) : (gatherReturn s n i off).ident = s.ident := by
  unfold gatherReturn
  simp only []
  (repeat' split) <;> simp

theorem execStreamDataReturn_keeps (core : Nat) (slot : Nat) (q : Nat) (data : Bytes) (s : State) : Keeps (execStreamDataReturn core slot q data s) s := by
  unfold execStreamDataReturn
  simp only []
  (repeat' split) <;> exact keeps_next (by simp)

/-! ### WeightChain -/

@[simp] theorem wchRead_ident (s : State) (n i : Nat) (m : CoreCmd) : (wchRead s n i m).ident = s.ident := by
  unfold wchRead
  simp only []
  (repeat' split) <;> simp

theorem execWeightChainSourceRead_keeps (core : Nat) (slot : Nat) (s : State) : Keeps (execWeightChainSourceRead core slot s) s := by
  unfold execWeightChainSourceRead
  simp only []
  (repeat' split) <;> exact keeps_next (by simp)

@[simp] theorem tileSignals_ident (m : CoreCmd) (d : List Nat) (cores : List Nat) (s : State) : (tileSignals m d cores s).ident = s.ident := by simp [tileSignals]

theorem execWeightChainFlit_keeps (core : Nat) (slot : Nat) (s : State) : Keeps (execWeightChainFlit core slot s) s := by
  unfold execWeightChainFlit
  simp only []
  (repeat' split) <;> exact keeps_next (by simp)

/-! ### LanternOps -/

@[simp] theorem sendUp_ident (s : State) (p : Nat) (key : Option Nat) (k : Packet) : (sendUp s p key k).ident = s.ident := by
  unfold sendUp
  split <;> simp

@[simp] theorem armOut_ident (s : State) (n : Nat) (v : Nat) : (armOut s n v).ident = s.ident := by simp [armOut]

@[simp] theorem awaitHome_ident (s : State) (n : Nat) (op : Op) (q : QInstr) (e : Nat) : (awaitHome s n op q e).ident = s.ident := by
  unfold awaitHome
  simp

theorem issueLn_ident (s : State) (n : Nat) (op : Op) (f : State → Nat → Nat → State) (h : ∀ s a b, (f s a b).ident = s.ident) :
    (issueLn s n op f).ident = s.ident := by
  unfold issueLn
  refine withHead_ident _ _ _ _ fun m c q => ?_
  split
  · exact (lntOp_ident _ _ _ _ _ _ fun e => by simp [h]).trans (by simp)
  · rfl

@[simp] theorem homeApplied_ident (s : State) (n : Nat) (newer : Bool) : (homeApplied s n newer).ident = s.ident := by
  unfold homeApplied
  simp

theorem execLnArm_keeps (core : Nat) (ev : EngEv) (s : State) : Keeps (execLnArm core ev s) s := by
  unfold execLnArm
  split
  · exact keeps_next (by simp)
  · exact keeps_next (issueLn_ident _ _ _ _ fun s a b => by simp)

theorem execLnSig_keeps (core : Nat) (ev : EngEv) (s : State) : Keeps (execLnSig core ev s) s := by
  unfold execLnSig
  split
  · exact keeps_next (by simp)
  · exact keeps_next (issueLn_ident _ _ _ _ fun s a b => by simp)

theorem holdLn_ident (s : State) (n t : Nat) (op : Op) (hold : Nat → Nat → Hold) (arrive : CoreCmd → Nat → Nat → State → State)
    (h : ∀ m a b s, (arrive m a b s).ident = s.ident) : (holdLn s n t op hold arrive).ident = s.ident := by
  unfold holdLn
  refine withDispatch_ident _ _ _ _ _ fun m c w => ?_
  simp [h]

@[simp] theorem releaseTask_ident (s : State) (n : Nat) (t : Nat) : (releaseTask s n t).ident = s.ident := by
  unfold releaseTask
  rfl

theorem execLnWait_keeps (core task : Nat) (s : State) : Keeps (execLnWait core task s) s :=
  keeps_next (holdLn_ident _ _ _ _ _ _ fun m a b s => lntOp_ident _ _ _ _ _ _ fun e => by split <;> simp)

theorem execLnWtc_keeps (core task : Nat) (s : State) : Keeps (execLnWtc core task s) s :=
  keeps_next (holdLn_ident _ _ _ _ _ _ fun m a b s => lntOp_ident _ _ _ _ _ _ fun e => by
    simp only []
    split <;> simp)

theorem execLanternNotification_keeps (core : Nat) (s : State) : Keeps (execLanternNotification core s) s := by
  unfold execLanternNotification
  simp only []
  (repeat' split) <;> exact keeps_next (by simp)

theorem execLanternDeltaSend_keeps (n : Nat) (s : State) : Keeps (execLanternDeltaSend n s) s := by
  unfold execLanternDeltaSend
  simp only []
  (repeat' split) <;> exact keeps_next (by simp)

theorem withMsg_ident (s : State) (port : Nat) (k : Packet) (f : Nat → Nat → State → State) (h : ∀ a b s, (f a b s).ident = s.ident) :
    (withMsg s port k f).ident = s.ident := by
  have ha := acceptPkt_ident s port k
  unfold withMsg
  generalize acceptPkt s port k = r at ha ⊢
  rcases r with ⟨_ | p, u⟩
  · simpa using ha
  · simp only [] at ha ⊢
    (repeat' split) <;> simp [h, ha]

theorem execLanternDelta_keeps (port : Nat) (k : Packet) (s : State) : Keeps (execLanternDelta port k s) s := by
  unfold execLanternDelta
  refine keeps_next (withMsg_ident _ _ _ _ ?_)
  intros
  simp

theorem execLanternArm_keeps (port : Nat) (k : Packet) (s : State) : Keeps (execLanternArm port k s) s := by
  unfold execLanternArm
  refine keeps_next (withMsg_ident _ _ _ _ ?_)
  intros
  simp

theorem execLanternCount_keeps (port : Nat) (k : Packet) (s : State) : Keeps (execLanternCount port k s) s := by
  unfold execLanternCount
  refine keeps_next (withMsg_ident _ _ _ _ ?_)
  intros
  simp

theorem execLanternReject_keeps (port : Nat) (k : Packet) (s : State) : Keeps (execLanternReject port k s) s := by
  have ha := acceptPkt_ident s port k
  unfold execLanternReject
  generalize acceptPkt s port k = r at ha ⊢
  rcases r with ⟨_ | p, u⟩
  · exact keeps_next ha
  · exact keeps_next ((teardown_ident ..).trans ha)

theorem execLntHsig_keeps (fn : Fn) (n : Nat) (v : Nat) (s : State) : Keeps (execLntHsig fn n v s) s := by
  unfold execLntHsig
  (repeat' split) <;> exact keeps_next (by simp)

/-! ### Sequencer -/

@[simp] theorem seqOp_ident (s : State) (n : Nat) (t : Nat) (op : Op) (f : Core → Task → Nat → Core) : (seqOp s n t op f).ident = s.ident := by
  unfold seqOp
  refine withDispatch_ident _ _ _ _ _ ?_
  intros
  simp

theorem execSqNop_keeps (core : Nat) (task : Nat) (s : State) : Keeps (execSqNop core task s) s := by
  unfold execSqNop
  exact keeps_next (by simp)

theorem execSqLi_keeps (core : Nat) (task : Nat) (s : State) : Keeps (execSqLi core task s) s := by
  unfold execSqLi
  exact keeps_next (by simp)

theorem execSqAlu_keeps (core : Nat) (task : Nat) (s : State) : Keeps (execSqAlu core task s) s := by
  unfold execSqAlu
  exact keeps_next (by simp)

theorem execSqLoop_keeps (core : Nat) (task : Nat) (s : State) : Keeps (execSqLoop core task s) s := by
  unfold execSqLoop
  exact keeps_next (by simp)

theorem execSqBr_keeps (core : Nat) (task : Nat) (s : State) : Keeps (execSqBr core task s) s := by
  unfold execSqBr
  exact keeps_next (by simp)

theorem execSqLdw_keeps (core : Nat) (task : Nat) (s : State) : Keeps (execSqLdw core task s) s := by
  unfold execSqLdw
  refine keeps_next (withDispatch_ident _ _ _ _ _ ?_)
  intros
  simp

theorem execSqStw_keeps (core : Nat) (task : Nat) (s : State) : Keeps (execSqStw core task s) s := by
  unfold execSqStw
  refine keeps_next (withDispatch_ident _ _ _ _ _ ?_)
  intros
  simp

theorem execSqEnd_keeps (core : Nat) (task : Nat) (s : State) : Keeps (execSqEnd core task s) s := by
  unfold execSqEnd
  exact keeps_next (by simp)

theorem execCfReg_keeps (core : Nat) (task : Nat) (s : State) : Keeps (execCfReg core task s) s := by
  unfold execCfReg
  refine keeps_next (withDispatch_ident _ _ _ _ _ ?_)
  intros
  simp

theorem execCfWin_keeps (core : Nat) (task : Nat) (s : State) : Keeps (execCfWin core task s) s := by
  unfold execCfWin
  refine keeps_next (withDispatch_ident _ _ _ _ _ ?_)
  intros
  simp

theorem execCfTask_keeps (core : Nat) (task : Nat) (s : State) : Keeps (execCfTask core task s) s := by
  unfold execCfTask
  refine keeps_next (withDispatch_ident _ _ _ _ _ ?_)
  intros
  simp

theorem execCfRng_keeps (core : Nat) (task : Nat) (s : State) : Keeps (execCfRng core task s) s := by
  unfold execCfRng
  exact keeps_next (by simp)

end Sys2Proof.Machine
end

