-- ==== Sys2Proof/Laws/IdentUpdate.lean ====
section
/-! SUPPORT. Sys2Proof/Laws/IdentUpdate.lean: no command changes the queue of waiting commands or the identity of the module: commands, the update engine, Trellis ports and collectives.
For each function that answers a state, `_ident` says that it keeps them; for each command, `_keeps` says that it answers a next
state that keeps them. -/
namespace Sys2Proof.Machine

/-! ### CmdLib -/

@[simp] theorem setPhase_ident (s : State) (k : Nat) (id : Nat) (ph : CmdPhase) : (setPhase s k id ph).ident = s.ident := by
  unfold setPhase
  rfl

@[simp] theorem refuseCmd_ident (s : State) (k : Nat) (id : Nat) (status : Nat) (result : Nat) : (refuseCmd s k id status result).ident = s.ident := by simp [refuseCmd]

@[simp] theorem setCandPhase_ident (s : State) (c : Cand) (ph : CmdPhase) : (setCandPhase s c ph).ident = s.ident := by simp [setCandPhase]

@[simp] theorem startCore_ident (s : State) (k : Nat) (id : Nat) (n : Nat) (lc : Nat) (img : Image) (e : PlanEntry) (params : List Nat) : (startCore s k id n lc img e params).ident = s.ident := by
  unfold startCore
  rfl

@[simp] theorem choose_ident (s : State) (p : Nat) (c : Cand) : (choose s p c).ident = s.ident := by simp [choose]

@[simp] theorem startPlan_ident (s : State) (k : Nat) (id : Nat) (kind : RunKind) (plan : Nat) (params : List Nat) : (startPlan s k id kind plan params).ident = s.ident := by
  unfold startPlan
  (repeat' split) <;> simp

@[simp] theorem armArrivals_ident (s : State) (p : Nat) (t : StageTable) (step : Nat) : (armArrivals s p t step).ident = s.ident :=
  ident_foldl _ (fun s n => by split <;> simp) _ _

@[simp] theorem probeResult_ident (s : State) (k : Nat) (m : Cmd) : (probeResult s k m).2.ident = s.ident := by
  simp only [probeResult]
  (repeat' split) <;> first | rfl | simp

@[simp] theorem stageEnd_ident (s : State) (k : Nat) (m : Cmd) (t : StageTable) : (stageEnd s k m t).ident = s.ident := by simp [stageEnd]

@[simp] theorem passDone_ident (s : State) (k : Nat) (m : Cmd) : (passDone s k m).ident = s.ident := by
  unfold passDone
  simp only []
  (repeat' split) <;> simp

@[simp] theorem stageFail_ident (s : State) (k : Nat) (m : Cmd) (status : Nat) : (stageFail s k m status).ident = s.ident := by simp [stageFail]

@[simp] theorem runEnd_ident (s : State) (p : Nat) : (runEnd s p).ident = s.ident := by
  unfold runEnd
  simp only []
  (repeat' split) <;> simp

@[simp] theorem issueCand_ident (s : State) (p : Nat) (c : Cand) : (issueCand s p c).ident = s.ident := by simp [issueCand]

@[simp] theorem refuseCand_ident (s : State) (c : Cand) (st : Nat) : (refuseCand s c st).ident = s.ident := by
  unfold refuseCand
  (repeat' split) <;> simp

/-! ### Stage -/

@[simp] theorem schedCore_ident (s : State) (p : Nat) (pass : Bool) : (schedCore s p pass).ident = s.ident := by
  unfold schedCore
  simp only []
  (repeat' split) <;> simp

theorem execRun_keeps (p : Nat) (s : State) : Keeps (execRun p s) s := by
  unfold execRun
  exact keeps_next (by simp)

theorem execPassCommandIssue_keeps (p : Nat) (s : State) : Keeps (execPassCommandIssue p s) s := by
  unfold execPassCommandIssue
  exact keeps_next (by simp)

@[simp] theorem stageBegin_ident (s : State) (k : Nat) (m : Cmd) (probe : Bool) (expect : Option Bytes) : (stageBegin s k m probe expect).ident = s.ident := by
  unfold stageBegin
  rfl

theorem execStage_keeps (k : Nat) (s : State) : Keeps (execStage k s) s := by
  unfold execStage
  (repeat' split) <;> exact keeps_next (by simp)

theorem execProbe_keeps (k : Nat) (expected : Bytes) (s : State) : Keeps (execProbe k expected s) s := by
  unfold execProbe
  (repeat' split) <;> exact keeps_next (by simp)

theorem execCommandEndOnCore_keeps (core : Nat) (s : State) : Keeps (execCommandEndOnCore core s) s := by
  unfold execCommandEndOnCore
  simp only []
  (repeat' split) <;> exact keeps_next (by simp)

/-! ### Protect -/

@[simp] theorem pageRead_ident (s : State) (p va n : Nat) : (pageRead s p va n).2.2.ident = s.ident := by
  unfold pageRead
  split
  · rfl
  · rename_i a _
    show (stkRead (checkRange s p a n).2 a n).2.ident = s.ident
    simp

@[simp] theorem readPages_ident (p f : Nat) : ∀ (s : State) (va n : Nat), (readPages p f s va n).2.2.ident = s.ident := by
  induction f with
  | zero => intro s va n; rfl
  | succ f ih =>
    intro s va n
    have h := pageRead_ident s p va (pagePart va n)
    rw [readPages]
    rcases hp : pageRead s p va (pagePart va n) with ⟨b, bs, s1⟩
    rw [hp] at h
    simp only []
    split
    · exact h
    · exact (ih s1 _ _).trans h

@[simp] theorem engRead_ident (s : State) (p va n : Nat) : (engRead s p va n).2.2.ident = s.ident := readPages_ident _ _ _ _ _

@[simp] theorem engReads_ident (p : Nat) (l : List (Nat × Nat)) : ∀ s : State, (engReads s p l).2.2.ident = s.ident := by
  induction l with
  | nil => intro s; rfl
  | cons x l ih =>
    intro s
    show (engReads (engRead s p x.1 x.2).2.2 p l).2.2.ident = s.ident
    simp [ih]

@[simp] theorem engWrites_ident (s : State) (p : Nat) (l : List (Nat × Nat)) (bs : Bytes) : (engWrites s p l bs).ident = s.ident := by
  induction l generalizing s bs with
  | nil => rfl
  | cons x l ih => simp [engWrites, ih]

@[simp] theorem readUnit_ident (s : State) (p u : Nat) : (readUnit s p u).2.2.ident = s.ident := engReads_ident _ _ _

@[simp] theorem sendTx_ident (s : State) (p : Nat) (x : ProtTx) : (sendTx s p x).ident = s.ident := by simp [sendTx]

@[simp] theorem sendProt_ident (s : State) (p : Nat) (x : ProtTx) : (sendProt s p x).ident = s.ident := by simp [sendProt]

@[simp] theorem dropTx_ident (s : State) (p : Nat) (kind : Nat) (group : Nat) (idx : Nat) (rank : Nat) : (dropTx s p kind group idx rank).ident = s.ident := by
  unfold dropTx
  rfl

@[simp] theorem xorParity_ident (s : State) (p : Nat) (va : Nat) (n : Nat) (k : Nat) (q : Bool) (payload : Bytes) : (xorParity s p va n k q payload).ident = s.ident := by simp [xorParity]

/-! ### Tree -/

@[simp] theorem setWork_ident (s : State) (p : Nat) (chan : Nat) (b : Nat) (w : BlockWork) : (setWork s p chan b w).ident = s.ident := by
  unfold setWork
  rfl

@[simp] theorem sendReduce_ident (s : State) (p key chan : Nat) (e : List Nat) (b rank contrib step : Nat) (bs : Bytes) :
    (sendReduce s p key chan e b rank contrib step bs).ident = s.ident := by simp [sendReduce]

@[simp] theorem sliceAdds_ident (s : State) (p : Nat) (e : List Nat) : (sliceAdds s p e).ident = s.ident := by
  unfold sliceAdds
  split <;> rfl

@[simp] theorem ctxFlags_ident (s : State) (k : Nat) (fl : FlagSet) : (ctxFlags s k fl).ident = s.ident := by
  unfold ctxFlags
  simp

@[simp] theorem arrSignal_ident (s : State) (p : Nat) (e : List Nat) : (arrSignal s p e).ident = s.ident := by
  unfold arrSignal
  (repeat' split) <;> simp

@[simp] theorem gatherDown_ident (s : State) (p : Nat) (chan : Nat) (e : List Nat) (b : Nat) (bs : Bytes) : (gatherDown s p chan e b bs).ident = s.ident := by simp [gatherDown]

@[simp] theorem ackDown_ident (s : State) (p : Nat) (chan : Nat) (b : Nat) (ranks : List Nat) : (ackDown s p chan b ranks).ident = s.ident := by simp [ackDown]

@[simp] theorem mirrorBlock_ident (s : State) (p key cnt : Nat) (bs : Bytes) (step : Nat) : (mirrorBlock s p key cnt bs step).ident = s.ident := by
  unfold mirrorBlock
  (repeat' split) <;> simp

@[simp] theorem blockVisible_ident (s : State) (p chan b : Nat) (bs : Bytes) : (blockVisible s p chan b bs).ident = s.ident := by
  unfold blockVisible
  simp

/-! ### SweepLib -/

@[simp] theorem setUpdEng_ident (s : State) (p : Nat) (k : Nat) (e : UpdEng) : (setUpdEng s p k e).ident = s.ident := by
  unfold setUpdEng
  rfl

@[simp] theorem addSquare_ident (s : State) (p k a : Nat) : (addSquare s p k a).ident = s.ident := by
  unfold addSquare
  (repeat' split) <;> simp

@[simp] theorem addSquares_ident (s : State) (p d r0 cnt : Nat) (bs : Bytes) : (addSquares s p d r0 cnt bs).1.ident = s.ident :=
  ident_foldl_fst _ (fun s i => by simp) _ _

@[simp] theorem engMeter_ident (s : State) (p : Nat) (n : Nat) : (engMeter s p n).ident = s.ident := by
  unfold engMeter
  (repeat' split) <;> simp

@[simp] theorem landFlags_ident (s : State) (p : Nat) (next : Bool) (f : FlagSet) : (landFlags s p next f).ident = s.ident := by
  unfold landFlags
  (repeat' split) <;> simp

@[simp] theorem landWrite_ident (s : State) (p d lb cnt : Nat) (bs : Bytes) (next : Bool) (src : Option (Nat × Nat)) : (landWrite s p d lb cnt bs next src).ident = s.ident := by
  unfold landWrite
  extract_lets segs
  split
  · rfl
  · rename_i seg b _
    extract_lets g part s1 s2 u s3
    have h3 : s3.ident = s.ident := by simp [s3, s2, s1]
    have ha := addSquares_ident s3 p d (512 * b) cnt part
    rcases hs : addSquares s3 p d (512 * b) cnt part with ⟨s4, f⟩
    rw [hs] at ha
    simp only []
    (repeat' split) <;> simp [ha, h3]

@[simp] theorem blockRead_ident (s : State) (p : Nat) (d : Nat) (lb : Nat) : (blockRead s p d lb).ident = s.ident := by simp [blockRead]

@[simp] theorem updRead_ident (s : State) (p k va n : Nat) : (updRead s p k va n).2.2.ident = s.ident := by
  have h := engRead_ident s p va n
  unfold updRead
  rcases he : engRead s p va n with ⟨b, bs, s1⟩
  rw [he] at h
  simp only []
  split <;> simp [h]

@[simp] theorem updReads_ident (p k : Nat) (l : List (Nat × Nat)) : ∀ s : State, (updReads p k s l).2.2.ident = s.ident := by
  induction l with
  | nil => intro s; rfl
  | cons x l ih =>
    intro s
    have h := updRead_ident s p k x.1 x.2
    rw [updReads]
    rcases hr : updRead s p k x.1 x.2 with ⟨b, bs, s1⟩
    rw [hr] at h
    exact (ih s1).trans h

@[simp] theorem readGrads_ident (s : State) (p d seg : Nat) : (readGrads s p d seg).2.ident = s.ident := by simp [readGrads]

@[simp] theorem statRoots_ident (s : State) (p k va n : Nat) : (statRoots s p k va n).2.ident = s.ident := by
  unfold statRoots
  exact (updRead_ident _ p k _ _).trans (updRead_ident s p k va n)

@[simp] theorem storeStats_ident (s : State) (p va e0 : Nat) (vs : List FV) : (storeStats s p va e0 vs).ident = s.ident := by
  unfold storeStats
  simp

@[simp] theorem prePass_ident (s : State) (p d seg : Nat) : (prePass s p d seg).ident = s.ident := by
  unfold prePass
  extract_lets g h r c
  have hg := readGrads_ident s p d seg
  rcases h1 : readGrads s p d seg with ⟨gc, s1⟩
  rw [h1] at hg
  simp only []
  have hr := statRoots_ident s1 p (recEngine s1.var d 0) (gS g) r
  rcases h2 : statRoots s1 p (recEngine s1.var d 0) (gS g) r with ⟨rho0, s2⟩
  rw [h2] at hr
  simp only []
  have hc := statRoots_ident s2 p (recEngine s2.var d 0) (gS g + momBytes r) c
  rcases h3 : statRoots s2 p (recEngine s2.var d 0) (gS g + momBytes r) c with ⟨kap0, s3⟩
  rw [h3] at hc
  simp [hc, hr, hg]

@[simp] theorem prePasses_ident (s : State) (p : Nat) : (prePasses s p).ident = s.ident := by simp [prePasses]

@[simp] theorem weightOf_ident (s : State) (p k : Nat) (g : List Nat) (e : Nat) : (weightOf s p k g e).2.ident = s.ident := by
  unfold weightOf
  have h := updRead_ident s p k (gW g + 2 * e) 2
  rcases h1 : updRead s p k (gW g + 2 * e) 2 with ⟨b, hi, s1⟩
  rw [h1] at h
  simp only []
  split
  · exact h
  · exact (updRead_ident s1 p k _ _).trans h

@[simp] theorem putElem_ident (s : State) (p : Nat) (va : Nat) (w : Nat) (idx : Nat) (v : Nat) : (putElem s p va w idx v).ident = s.ident := by simp [putElem]

@[simp] theorem weightsOf_ident (p k : Nat) (g es : List Nat) : ∀ s : State, (weightsOf p k g s es).2.ident = s.ident := by
  induction es with
  | nil => intro s; rfl
  | cons e es ih =>
    intro s
    have h := weightOf_ident s p k g e
    rw [weightsOf]
    rcases hw : weightOf s p k g e with ⟨w, s1⟩
    rw [hw] at h
    exact (ih s1).trans h

@[simp] theorem putGroup_ident (s : State) (p va fmt sat k c : Nat) (vals : List Nat) : (putGroup s p va fmt sat k c vals).1.ident = s.ident := by
  unfold putGroup
  simp

@[simp] theorem derive_ident (s : State) (p k d seg r : Nat) (back : Bool) : (derive s p k d seg r back).ident = s.ident := by simp [derive]

@[simp] theorem loseRec_ident (s : State) (p : Nat) (k : Nat) (seg : Nat) (r : Nat) (poison : Bool) : (loseRec s p k seg r poison).ident = s.ident := by simp [loseRec]

@[simp] theorem sendDelta_ident (s : State) (p k unit rank group σ slot : Nat) (payload : Bytes) : (sendDelta s p k unit rank group σ slot payload).ident = s.ident := by simp [sendDelta]

@[simp] theorem unitDone_ident (s : State) (p : Nat) (k : Nat) (unit : Nat) (payload : Bytes) : (unitDone s p k unit payload).ident = s.ident := by
  unfold unitDone
  (repeat' split) <;> simp

@[simp] theorem unitStep_ident (s : State) (p : Nat) (k : Nat) (d : Nat) (seg : Nat) (r : Nat) (xored : Option Bytes) : (unitStep s p k d seg r xored).ident = s.ident := by simp [unitStep]

@[simp] theorem advance_ident (s : State) (p : Nat) (k : Nat) (seg : Nat) (r : Nat) (ok : Bool) : (advance s p k seg r ok).ident = s.ident := by simp [advance]

@[simp] theorem sweepRec_ident (s : State) (p k seg r : Nat) : (sweepRec s p k seg r).ident = s.ident := by simp [sweepRec]

@[simp] theorem stepSignal_ident (s : State) (p : Nat) (num : Nat) : (stepSignal s p num).ident = s.ident := by
  unfold stepSignal
  simp only []
  (repeat' split) <;> simp

@[simp] theorem engSignal_ident (s : State) (p : Nat) (k : Nat) : (engSignal s p k).ident = s.ident := by simp [engSignal]

@[simp] theorem endUpd_ident (s : State) (p : Nat) (x : Compl) : (endUpd s p x).ident = s.ident := by
  unfold endUpd
  simp only []
  (repeat' split) <;> simp

@[simp] theorem settleUpd_ident (s : State) (p : Nat) : (settleUpd s p).ident = s.ident := by
  unfold settleUpd
  simp only []
  (repeat' split) <;> simp

@[simp] theorem armEngines_ident (s : State) (p : Nat) : (armEngines s p).ident = s.ident := by simp [armEngines]

@[simp] theorem engStep_ident (s : State) (p : Nat) (k : Nat) : (engStep s p k).ident = s.ident := by
  unfold engStep
  (repeat' split) <;> simp

@[simp] theorem runSweep_ident (n p : Nat) : ∀ s : State, (runSweep n p s).ident = s.ident := by
  induction n with
  | zero => intro s; simp [runSweep]
  | succ n ih => intro s; simp [runSweep, ih]

/-! ### Update -/

@[simp] theorem setScalarWork_ident (s : State) (p chan : Nat) (w : ScalarWork) : (setScalarWork s p chan w).ident = s.ident := by
  unfold setScalarWork
  simp

@[simp] theorem normSignal_ident (s : State) (p : Nat) : (normSignal s p).ident = s.ident := by simp [normSignal]

@[simp] theorem scalarResult_ident (s : State) (p : Nat) (chan : Nat) (v : Nat) : (scalarResult s p chan v).ident = s.ident := by simp [scalarResult]

@[simp] theorem scalarTry_ident (s : State) (p : Nat) (chan : Nat) : (scalarTry s p chan).ident = s.ident := by
  unfold scalarTry
  simp only []
  (repeat' split) <;> simp

@[simp] theorem otherScalars_ident (s : State) (p own : Nat) : (otherScalars s p own).ident = s.ident := by
  unfold otherScalars
  (repeat' split) <;> simp

@[simp] theorem landCheck_ident (s : State) (p : Nat) : (landCheck s p).ident = s.ident := by
  unfold landCheck
  simp only []
  (repeat' split) <;> simp

@[simp] theorem clearUp_ident (s : State) (p : Nat) : (clearUp s p).ident = s.ident := by
  unfold clearUp
  exact (ident_foldl _ (fun s e => by simp) _ _).trans rfl

@[simp] theorem walkTime_ident (s : State) (n : Nat) : (walkTime s n).ident = s.ident := by
  unfold walkTime
  refine ident_foldl _ (fun s k => ?_) _ _
  rfl

@[simp] theorem beginUpd_ident (s : State) (k : Nat) (m : Cmd) (bs : Bytes) (resume : Bool) : (beginUpd s k m bs resume).ident = s.ident := by
  unfold beginUpd
  simp only []
  (repeat' split) <;> simp

theorem execUpdate_keeps (k : Nat) (block : Bytes) (s : State) : Keeps (execUpdate k block s) s := by
  unfold execUpdate
  (repeat' split) <;> exact keeps_next (by simp)

theorem execUpdateResume_keeps (k : Nat) (block : Bytes) (s : State) : Keeps (execUpdateResume k block s) s := by
  unfold execUpdateResume
  (repeat' split) <;> exact keeps_next (by simp)

@[simp] theorem landBlock_ident (s : State) (p d lb cnt : Nat) (bs : Bytes) (src : Option (Nat × Nat)) : (landBlock s p d lb cnt bs src).ident = s.ident := by simp [landBlock]

theorem execLandingBlock_keeps (p : Nat) (d : Nat) (lb : Nat) (count : Nat) (data : Bytes) (s : State) : Keeps (execLandingBlock p d lb count data s) s := by
  unfold execLandingBlock
  exact keeps_next (by simp)

theorem execLandTimeout_keeps (p : Nat) (s : State) : Keeps (execLandTimeout p s) s := by
  unfold execLandTimeout
  simp only []
  (repeat' split) <;> exact keeps_next (by simp)

theorem execSweepStart_keeps (p : Nat) (s : State) : Keeps (execSweepStart p s) s := by
  unfold execSweepStart
  simp only []
  (repeat' split) <;> exact keeps_next (by simp)

@[simp] theorem engBusy_ident (s : State) (k : Nat) : (engBusy s k).ident = s.ident := rfl

theorem execSweepRecord_keeps (p : Nat) (k : Nat) (s : State) : Keeps (execSweepRecord p k s) s := by
  unfold execSweepRecord
  simp only []
  (repeat' split) <;> exact keeps_next (by simp)

theorem execRngCheck_keeps (k : Nat) (recs : List RngRec) (s : State) : Keeps (execRngCheck k recs s) s := by
  unfold execRngCheck
  simp only []
  (repeat' split) <;> exact keeps_next (by simp)

/-! ### Ports -/

@[simp] theorem linkDrop_ident (s : State) (n packets : Nat) (jobs : List Nat) : (linkDrop s n packets jobs).ident = s.ident := by
  unfold linkDrop
  split
  · rfl
  · refine (ident_foldl _ (fun s t => ?_) _ _).trans (by simp)
    split <;> simp

@[simp] theorem portDown_ident (s : State) (n : Nat) (jobs : List Nat) : (portDown s n jobs).ident = s.ident := by simp [portDown]

@[simp] theorem trainPort_ident (s : State) (n : Nat) (good : Nat) (peer : Nat) : (trainPort s n good peer).ident = s.ident := by simp [trainPort]

@[simp] theorem retrainUp_ident (s : State) (n good peer : Nat) (jobs : List Nat) : (retrainUp s n good peer jobs).ident = s.ident := by
  unfold retrainUp
  dsimp only
  (repeat' split) <;> simp

theorem execPortTrain_keeps (n : Nat) (lanes : Nat) (peer : Nat) (s : State) : Keeps (execPortTrain n lanes peer s) s := by
  unfold execPortTrain
  (repeat' split) <;> exact keeps_next (by simp)

theorem execRetrain_keeps (fn : Fn) (n : Nat) (lanes : Nat) (peer : Nat) (jobs : List Nat) (s : State) : Keeps (execRetrain fn n lanes peer jobs s) s := by
  unfold execRetrain
  (repeat' split) <;> exact keeps_next (by simp)

theorem execDisable_keeps (fn : Fn) (n : Nat) (value : Bool) (jobs : List Nat) (s : State) : Keeps (execDisable fn n value jobs s) s := by
  unfold execDisable
  simp only []
  (repeat' split) <;> exact keeps_next (by simp)

theorem execPortDown_keeps (n : Nat) (cause : Nat) (jobs : List Nat) (s : State) : Keeps (execPortDown n cause jobs s) s := by
  unfold execPortDown
  simp only []
  (repeat' split) <;> exact keeps_next (by simp)

theorem execWireUnit_keeps (n : Nat) (u : WireUnit) (s : State) : Keeps (execWireUnit n u s) s := by
  unfold execWireUnit
  simp only []
  (repeat' split) <;> exact keeps_next (by simp)

theorem execPacketForward_keeps (n : Nat) (k : Packet) (s : State) : Keeps (execPacketForward n k s) s := by
  unfold execPacketForward
  simp only []
  (repeat' split) <;> exact keeps_next (by simp)

theorem execPacketStallTimeout_keeps (n : Nat) (job : Nat) (s : State) : Keeps (execPacketStallTimeout n job s) s := by
  unfold execPacketStallTimeout
  (repeat' split) <;> exact keeps_next (by simp)

/-! ### Collect -/

@[simp] theorem landReduced_ident (s : State) (p chan : Nat) (e : List Nat) (b contrib : Nat) (bs : Bytes) : (landReduced s p chan e b contrib bs).ident = s.ident := by
  unfold landReduced
  simp only []
  (repeat' split) <;> simp

@[simp] theorem sendPartial_ident (s : State) (p : Nat) (chan : Nat) (e : List Nat) (b : Nat) (kids : List Nat) (contrib : Nat) (vals : List Nat) : (sendPartial s p chan e b kids contrib vals).ident = s.ident := by
  unfold sendPartial
  (repeat' split) <;> simp

@[simp] theorem blockTry_ident (s : State) (p : Nat) (chan : Nat) (b : Nat) : (blockTry s p chan b).ident = s.ident := by simp [blockTry]

@[simp] theorem dupDrop_ident (s : State) (p : Nat) : (dupDrop s p).ident = s.ident := by
  unfold dupDrop
  simp

@[simp] theorem addLocal_ident (s : State) (p : Nat) (key id step chan : Nat) (e : List Nat) (who : Nat × Nat × Nat) (b off : Nat) (bs : Bytes) (last : Bool) : (addLocal s p key id step chan e who b off bs last).ident = s.ident := by simp [addLocal]

@[simp] theorem stageData_ident (s : State) (p : Nat) (e : List Nat) (k : Packet) : (stageData s p e k).ident = s.ident := by
  unfold stageData
  (repeat' split) <;> simp

@[simp] theorem takeLocal_ident (s : State) (p : Nat) (m : CoreCmd) (who : Nat × Nat × Nat) (chan : Nat) (e : List Nat) (q : Nat) (bs : Bytes) (fin : Bool) : (takeLocal s p m who chan e q bs fin).ident = s.ident := by
  unfold takeLocal
  (repeat' split) <;> simp

theorem execLocalContribution_keeps (core : Nat) (slot : Nat) (s : State) : Keeps (execLocalContribution core slot s) s := by
  unfold execLocalContribution
  simp only []
  (repeat' split) <;> exact keeps_next (by simp)

theorem withPacket_ident (s : State) (n ty : Nat) (k : Packet) (f : State → Nat → Nat → State) (h : ∀ s a b, (f s a b).ident = s.ident) :
    (withPacket s n ty k f).ident = s.ident := by
  have ha := acceptPkt_ident s n k
  unfold withPacket
  split
  · rfl
  · generalize acceptPkt s n k = r at ha ⊢
    rcases r with ⟨_ | p, u⟩
    · exact ha
    · simp only [] at ha ⊢
      split <;> simp [h, ha]

@[simp] theorem gatherData_ident (s : State) (p : Nat) (e : List Nat) (k : Packet) : (gatherData s p e k).ident = s.ident := by simp [gatherData]

@[simp] theorem channelData_ident (s : State) (p : Nat) (k : Packet) : (channelData s p k).ident = s.ident := by
  unfold channelData
  simp only []
  (repeat' split) <;> simp

@[simp] theorem channelAck_ident (s : State) (p : Nat) (k : Packet) : (channelAck s p k).ident = s.ident := by
  unfold channelAck
  split <;> simp

theorem execDataPacket_keeps (n : Nat) (k : Packet) (s : State) : Keeps (execDataPacket n k s) s := by
  unfold execDataPacket
  refine keeps_next (withPacket_ident _ _ _ _ _ ?_)
  intros
  simp only []
  (repeat' split) <;> simp

theorem execReducePacket_keeps (n : Nat) (k : Packet) (s : State) : Keeps (execReducePacket n k s) s := by
  unfold execReducePacket
  refine keeps_next (withPacket_ident _ _ _ _ _ ?_)
  intros
  simp

theorem execAckPacket_keeps (n : Nat) (k : Packet) (s : State) : Keeps (execAckPacket n k s) s := by
  unfold execAckPacket
  refine keeps_next (withPacket_ident _ _ _ _ _ ?_)
  intros
  simp

theorem execScalarPacket_keeps (n : Nat) (k : Packet) (s : State) : Keeps (execScalarPacket n k s) s := by
  unfold execScalarPacket
  refine keeps_next (withPacket_ident _ _ _ _ _ ?_)
  intros
  simp

theorem execCreditPacket_keeps (n : Nat) (k : Packet) (s : State) : Keeps (execCreditPacket n k s) s := by
  unfold execCreditPacket
  refine keeps_next (withPacket_ident _ _ _ _ _ ?_)
  intros
  simp

end Sys2Proof.Machine
end

