-- ==== Sys2Proof/Laws/IdentJobs.lean ====
section
/-! SUPPORT. Sys2Proof/Laws/IdentJobs.lean: no command changes the queue of waiting commands or the identity of the module: jobs, recovery, the decode gatherer and contexts.
For each function that answers a state, `_ident` says that it keeps them; for each command, `_keeps` says that it answers a next
state that keeps them. -/
namespace Sys2Proof.Machine

/-! ### GateLib -/

@[simp] theorem setTdi_ident (s : State) (port : Nat) (vf : Nat) (t : Tdisp) : (setTdi s port vf t).ident = s.ident := by simp [setTdi]

@[simp] theorem tdiError_ident (s : State) (port : Nat) (vf : Nat) : (tdiError s port vf).ident = s.ident := by simp [tdiError]

@[simp] theorem dgForget_ident (s : State) (k : Nat) (id : Nat) : (dgForget s k id).ident = s.ident := by simp [dgForget]

@[simp] theorem loseStack_ident (s : State) (p : Nat) : (loseStack s p).ident = s.ident := by simp [loseStack]

@[simp] theorem keySlot_ident (s : State) (p : Nat) : (keySlot s p).ident = s.ident := by simp [keySlot]

@[simp] theorem zeroShare_ident (s : State) (p : Nat) : (zeroShare s p).ident = s.ident := by simp [zeroShare]

@[simp] theorem clearPads_ident (s : State) (p : Nat) : (clearPads s p).ident = s.ident := by simp [clearPads]

@[simp] theorem clearMaps_ident (s : State) (p : Nat) : (clearMaps s p).ident = s.ident := by simp [clearMaps]

@[simp] theorem dropJob_ident (s : State) (p : Nat) : (dropJob s p).ident = s.ident := by simp [dropJob]

@[simp] theorem dropKeys_ident (s : State) (p : Nat) : (dropKeys s p).ident = s.ident := by simp [dropKeys]

@[simp] theorem resetPartUnits_ident (s : State) (p : Nat) : (resetPartUnits s p).ident = s.ident := by simp [resetPartUnits]

@[simp] theorem cryptoErase_ident (s : State) (p : Nat) : (cryptoErase s p).ident = s.ident := by simp [cryptoErase]

@[simp] theorem endCore_ident (s : State) (p : Nat) (status : Nat) : (endCore s p status).ident = s.ident := by simp [endCore]

@[simp] theorem endEngine_ident (s : State) (p : Nat) (status : Nat) : (endEngine s p status).ident = s.ident := by
  unfold endEngine
  (repeat' split) <;> simp

@[simp] theorem endCmds_ident (s : State) (k : Nat) (status : Nat) (which : Cmd → Bool) : (endCmds s k status which).ident = s.ident := by simp [endCmds]

@[simp] theorem dropAskers_ident (s : State) (p : Nat) : (dropAskers s p).ident = s.ident := by simp [dropAskers]

@[simp] theorem withdrawBed_ident (s : State) (b : Nat) : (withdrawBed s b).ident = s.ident := by
  unfold withdrawBed
  dsimp only
  (repeat' split) <;> simp

@[simp] theorem mgmtAccept_ident (s : State) (b : Bytes) : (mgmtAccept s b).ident = s.ident := by simp [mgmtAccept]

@[simp] theorem evict_ident (s : State) (p : Nat) : (evict s p).ident = s.ident := by simp [evict]

theorem execJobEvict_keeps (n : Nat) (block : Bytes) (sigOk : Bool) (devOk : Bool) (s : State) : Keeps (execJobEvict n block sigOk devOk s) s := by
  unfold execJobEvict
  (repeat' split) <;> exact keeps_next (by simp)

theorem execBedWithdraw_keeps (n : Nat) (block : Bytes) (sigOk : Bool) (devOk : Bool) (s : State) : Keeps (execBedWithdraw n block sigOk devOk s) s := by
  unfold execBedWithdraw
  (repeat' split) <;> exact keeps_next (by simp)

/-! ### Jobs -/

@[simp] theorem feedCheck_ident (s : State) (p : Nat) : (feedCheck s p).ident = s.ident := by
  unfold feedCheck
  (repeat' split) <;> simp

@[simp] theorem setJobLanterns_ident (s : State) (p : Nat) (atAdmit : Bool) (role : Lantern → StepRole) : (setJobLanterns s p atAdmit role).ident = s.ident := by
  unfold setJobLanterns
  rfl

@[simp] theorem admitJob_ident (s : State) (k : Nat) (b : AdmitBlock) : (admitJob s k b).ident = s.ident := by simp [admitJob]

theorem execJobAdmit_keeps (k : Nat) (b : AdmitBlock) (s : State) : Keeps (execJobAdmit k b s) s := by
  unfold execJobAdmit
  (repeat' split) <;> exact keeps_next (by simp)

@[simp] theorem adoptBlock_ident (old : State) (p : Nat) (s : State) (key : Nat) : (adoptBlock old p s key).ident = s.ident := by
  unfold adoptBlock
  simp only []
  (repeat' split) <;> simp

@[simp] theorem install_ident (s : State) (p : Nat) (rec : Membership) : (install s p rec).ident = s.ident := by simp [install]

theorem execInstall_keeps (k : Nat) (rec : Membership) (sigOk : Bool) (s : State) : Keeps (execInstall k rec sigOk s) s := by
  unfold execInstall
  split
  · exact keeps_next rfl
  · extract_lets p j
    (repeat' split) <;> exact keeps_next (by simp)

theorem execSwitch_keeps (k : Nat) (s : State) : Keeps (execSwitch k s) s := by
  unfold execSwitch
  simp only []
  (repeat' split) <;> exact keeps_next (by simp)

theorem execGraceEnd_keeps (k : Nat) (s : State) : Keeps (execGraceEnd k s) s := by
  unfold execGraceEnd
  simp only []
  (repeat' split) <;> exact keeps_next (by simp)

@[simp] theorem resendChanged_ident (s : State) (p : Nat) : (resendChanged s p).ident = s.ident := by simp [resendChanged]

theorem execJobHalt_keeps (k : Nat) (s : State) : Keeps (execJobHalt k s) s := by
  unfold execJobHalt
  split
  · exact keeps_next rfl
  · extract_lets p s1 s2 s3 s4 u
    have h1 : s1.ident = s.ident := by simp [s1]
    have h2 : s2.ident = s1.ident := by simp only [s2]; (repeat' split) <;> simp
    have h3 : s3.ident = s2.ident := by simp only [s3]; (repeat' split) <;> simp
    have h4 : s4.ident = s3.ident := by
      simp only [s4]
      refine ident_foldl _ (fun s k' => ?_) _ _
      split <;> simp
    split <;> exact keeps_next (by simp [h4, h3, h2, h1])

@[simp] theorem rollBegin_ident (s : State) (p : Nat) (cmd : Nat × Nat) (blk : StepBlock) (sSum : Nat) : (rollBegin s p cmd blk sSum).ident = s.ident := by
  unfold rollBegin
  (repeat' split) <;> simp

@[simp] theorem rollEnd_ident (s : State) (p : Nat) : (rollEnd s p).ident = s.ident := by
  unfold rollEnd
  simp

@[simp] theorem rollSweep_ident (s : State) (p : Nat) (cmd : Nat × Nat) (blk : StepBlock) (sSum : Nat) : (rollSweep s p cmd blk sSum).ident = s.ident := by simp [rollSweep]

@[simp] theorem resumeState_ident (s : State) (p n : Nat) (blk : StepBlock) : (resumeState s p n blk).ident = s.ident := by
  unfold resumeState
  simp only []
  (repeat' split) <;> simp

theorem execJobResume_keeps (k : Nat) (block : Bytes) (s : State) : Keeps (execJobResume k block s) s := by
  unfold execJobResume
  simp only []
  (repeat' split) <;> exact keeps_next (by simp)

/-! ### Recover -/

theorem withProt_ident (s : State) (n kind : Nat) (k : Packet) (f : State → Nat → Nat → Bytes → State)
    (h : ∀ s a b c, (f s a b c).ident = s.ident) : (withProt s n kind k f).ident = s.ident := by
  unfold withProt
  refine withPacket_ident _ _ _ _ _ fun s a b => ?_
  split <;> simp [h]

@[simp] theorem applyDelta_ident (s : State) (p : Nat) (r : Nat) (i : Nat) (x : Shard) (q : Bool) (b : Bytes) : (applyDelta s p r i x q b).ident = s.ident := by simp [applyDelta]

theorem execProtectionDelta_keeps (n : Nat) (k : Packet) (s : State) : Keeps (execProtectionDelta n k s) s := by
  unfold execProtectionDelta
  refine keeps_next (withProt_ident _ _ _ _ _ ?_)
  intros
  (repeat' split) <;> simp

theorem execDack_keeps (n : Nat) (k : Packet) (s : State) : Keeps (execDack n k s) s := by
  unfold execDack
  refine keeps_next (withProt_ident _ _ _ _ _ ?_)
  intros
  simp

theorem execMirror_keeps (n : Nat) (k : Packet) (s : State) : Keeps (execMirror n k s) s := by
  unfold execMirror
  refine keeps_next (withProt_ident _ _ _ _ _ ?_)
  intros
  (repeat' split) <;> simp

theorem execMack_keeps (n : Nat) (k : Packet) (s : State) : Keeps (execMack n k s) s := by
  unfold execMack
  refine keeps_next (withProt_ident _ _ _ _ _ ?_)
  intros
  simp

theorem execSag_keeps (n : Nat) (k : Packet) (s : State) : Keeps (execSag n k s) s := by
  unfold execSag
  refine keeps_next (withProt_ident _ _ _ _ _ ?_)
  intros
  simp

theorem execRbReq_keeps (n : Nat) (k : Packet) (units : StripeRead) (s : State) : Keeps (execRbReq n k units s) s := by
  unfold execRbReq
  refine keeps_next (withProt_ident _ _ _ _ _ ?_)
  intros
  (repeat' split) <;> simp

@[simp] theorem askUnit_ident (s : State) (p : Nat) (pt : ProtTable) (nc : Nat) (t : RbUnit) : (askUnit s p pt nc t).ident = s.ident := by simp [askUnit]

@[simp] theorem endRebuild_ident (s : State) (p : Nat) (status : Nat) (beyond : List Nat) : (endRebuild s p status beyond).ident = s.ident := by
  unfold endRebuild
  simp only []
  (repeat' split) <;> simp

@[simp] theorem segChecks_ident (s : State) (p : Nat) (g : List Nat) : (segChecks s p g).ident = s.ident := by
  unfold segChecks
  simp only [engMeter_ident, engWrite_ident]
  exact ident_foldl_snd _ (fun _ _ => by simp) _ _

@[simp] theorem formChecks_ident (s : State) (p : Nat) : (formChecks s p).ident = s.ident :=
  ident_foldl _ (fun _ _ => ident_foldl _ (fun _ _ => by simp) _ _) _ _

@[simp] theorem rbWrite_ident (s : State) (p va : Nat) (bs : Bytes) : (rbWrite s p va bs).ident = s.ident := by
  unfold rbWrite
  dsimp only
  split
  · simp
  · exact (ident_foldl _ (fun _ _ => by simp) _ _).trans (by simp)

@[simp] theorem rbWrites_ident (s : State) (p : Nat) (l : List (Nat × Nat)) (bs : Bytes) : (rbWrites s p l bs).ident = s.ident := by
  induction l generalizing s bs with
  | nil => rfl
  | cons x l ih => simp [rbWrites, ih]

@[simp] theorem takeMirror_ident (s : State) (p : Nat) (x : Nat × Nat × Bytes) : (takeMirror s p x).ident = s.ident := by
  unfold takeMirror
  simp only []
  (repeat' split) <;> simp

@[simp] theorem rollForward_ident (s : State) (p : Nat) (r : Rebuild) : (rollForward s p r).ident = s.ident := by simp [rollForward]

@[simp] theorem rebuildTry_ident (s : State) (p : Nat) : (rebuildTry s p).ident = s.ident := by
  unfold rebuildTry
  (repeat' split) <;> simp

@[simp] theorem beginRebuild_ident (s : State) (k : Nat) (m : Cmd) (mode : Nat) (roll : Bool) (block : Bytes) (recs : List (Nat × Nat × Nat)) : (beginRebuild s k m mode roll block recs).ident = s.ident := by
  unfold beginRebuild
  simp only []
  (repeat' split) <;> simp

@[simp] theorem rebuildStep_ident (s : State) (k : Nat) (mode : Nat) (roll : Bool) (block : Bytes) (recs : List (Nat × Nat × Nat)) : (rebuildStep s k mode roll block recs).ident = s.ident := by
  unfold rebuildStep
  simp only []
  (repeat' split) <;> simp

theorem execRebuildMember_keeps (k : Nat) (block : Bytes) (committed : PeerRead) (s : State) : Keeps (execRebuildMember k block committed s) s := by
  unfold execRebuildMember
  (repeat' split) <;> exact keeps_next (by simp)

theorem execRebuildRecords_keeps (k : Nat) (block : Bytes) (list : Bytes) (s : State) : Keeps (execRebuildRecords k block list s) s := by
  unfold execRebuildRecords
  simp only []
  (repeat' split) <;> exact keeps_next (by simp)

theorem execRebuildParity_keeps (k : Nat) (block : Bytes) (s : State) : Keeps (execRebuildParity k block s) s := by
  unfold execRebuildParity
  exact keeps_next (by simp)

@[simp] theorem storeUnit_ident (s : State) (p : Nat) (r : Rebuild) (x : Shard) (t : RbUnit) (bs : Bytes) : (storeUnit s p r x t bs).ident = s.ident := by simp [storeUnit]

theorem execRbData_keeps (n : Nat) (k : Packet) (checksOk : Bool) (s : State) : Keeps (execRbData n k checksOk s) s := by
  unfold execRbData
  refine keeps_next (withProt_ident _ _ _ _ _ ?_)
  intros
  simp only []
  (repeat' split) <;> simp

theorem execProtectionResend_keeps (p : Nat) (i : Nat) (s : State) : Keeps (execProtectionResend p i s) s := by
  unfold execProtectionResend
  (repeat' split) <;> exact keeps_next (by simp)

/-! ### Decoder -/

@[simp] theorem setDset_ident (s : State) (d : Nat) (x : DSet) : (setDset s d x).ident = s.ident := by
  unfold setDset
  rfl

@[simp] theorem hostPut_ident (s : State) (p va : Nat) (bs : Bytes) : (hostPut s p va bs).ident = s.ident :=
  ident_foldl _ (fun s i => by split <;> simp) _ _

@[simp] theorem stepBoundary_ident (s : State) (d : Nat) : (stepBoundary s d).ident = s.ident := by simp [stepBoundary]

@[simp] theorem boundaryTry_ident (s : State) (d : Nat) : (boundaryTry s d).ident = s.ident := by simp [boundaryTry]

@[simp] theorem dispatchTile_ident (s : State) (d : Nat) : (dispatchTile s d).ident = s.ident := by simp [dispatchTile]

theorem execDecodeRowArrival_keeps (d : Nat) (slot : Nat) (core : Nat) (row : Bytes) (s : State) : Keeps (execDecodeRowArrival d slot core row s) s := by
  unfold execDecodeRowArrival
  simp only []
  (repeat' split) <;> exact keeps_next (by simp)

theorem execDeadlineExpiry_keeps (d : Nat) (s : State) : Keeps (execDeadlineExpiry d s) s := by
  unfold execDeadlineExpiry
  exact keeps_next (by simp)

@[simp] theorem putRows_ident (x : DSet) (bs : Bytes) (s : State) (n : Nat) : (putRows x bs s n).ident = s.ident := by
  unfold putRows
  simp only []
  (repeat' split) <;> simp

theorem execGatheredTileDelivery_keeps (d : Nat) (s : State) : Keeps (execGatheredTileDelivery d s) s := by
  unfold execGatheredTileDelivery
  simp only []
  (repeat' split) <;> exact keeps_next (by simp)

theorem withGatherer_ident (s : State) (k op : Nat) (f : Cmd → State) (h : ∀ m, (f m).ident = s.ident) :
    (withGatherer s k op f).ident = s.ident := by
  unfold withGatherer
  (repeat' split) <;> simp [h]

theorem withSet_ident (s : State) (k op : Nat) (f : Cmd → Nat → DSet → State) (h : ∀ m d x, (f m d x).ident = s.ident) :
    (withSet s k op f).ident = s.ident := by
  unfold withSet
  refine withGatherer_ident _ _ _ _ fun m => ?_
  simp only []
  (repeat' split) <;> simp [h]

theorem execDgSet_keeps (k : Nat) (block : Bytes) (s : State) : Keeps (execDgSet k block s) s := by
  unfold execDgSet
  refine keeps_next (withGatherer_ident _ _ _ _ ?_)
  intros
  (repeat' split) <;> simp

theorem execDgJoin_keeps (k : Nat) (s : State) : Keeps (execDgJoin k s) s := by
  unfold execDgJoin
  refine keeps_next (withSet_ident _ _ _ _ ?_)
  intros
  simp

theorem execDgLeave_keeps (k : Nat) (s : State) : Keeps (execDgLeave k s) s := by
  unfold execDgLeave
  refine keeps_next (withSet_ident _ _ _ _ ?_)
  intros
  simp only []
  (repeat' split) <;> simp

theorem execDgStep_keeps (k : Nat) (s : State) : Keeps (execDgStep k s) s := by
  unfold execDgStep
  refine keeps_next (withSet_ident _ _ _ _ ?_)
  intros
  simp

/-! ### Contexts -/

theorem execOpen_keeps (fn : Fn) (k : Nat) (s : State) : Keeps (execOpen fn k s) s := by
  unfold execOpen
  simp only []
  (repeat' split) <;> exact keeps_next (by simp)

theorem execResume_keeps (fn : Fn) (k : Nat) (s : State) : Keeps (execResume fn k s) s := by
  unfold execResume
  (repeat' split) <;> exact keeps_next (by simp)

theorem execFlush_keeps (fn : Fn) (k : Nat) (s : State) : Keeps (execFlush fn k s) s := by
  unfold execFlush
  (repeat' split) <;> exact keeps_next (by simp)

theorem execTeardown_keeps (fn : Fn) (k : Nat) (s : State) : Keeps (execTeardown fn k s) s := by
  unfold execTeardown
  simp only []
  (repeat' split) <;> exact keeps_next (by simp)

@[simp] theorem leaveCtx_ident (s : State) (k : Nat) (st : CtxState) (flags : Nat) : (leaveCtx s k st flags).ident = s.ident := by simp [leaveCtx]

theorem execClose_keeps (fn : Fn) (k : Nat) (s : State) : Keeps (execClose fn k s) s := by
  unfold execClose
  simp only []
  (repeat' split) <;> exact keeps_next (by simp)

theorem execTeardownEnd_keeps (k : Nat) (s : State) : Keeps (execTeardownEnd k s) s := by
  unfold execTeardownEnd
  simp only []
  (repeat' split) <;> exact keeps_next (by simp)

@[simp] theorem setHostQueue_ident (s : State) (q : QRef) (x : Queue) : (setHostQueue s q x).ident = s.ident := by
  unfold setHostQueue
  (repeat' split) <;> rfl

@[simp] theorem nextRing_ident (s : State) (q : QRef) : (nextRing s q).2.ident = s.ident := by
  unfold nextRing
  (repeat' split) <;> rfl

theorem execSqDoorbell_keeps (fn : Fn) (q : QRef) (value : Nat) (s : State) : Keeps (execSqDoorbell fn q value s) s := by
  unfold execSqDoorbell
  simp only []
  (repeat' split) <;> exact keeps_next (by simp)

theorem execCqHeadWrite_keeps (fn : Fn) (q : QRef) (value : Nat) (s : State) : Keeps (execCqHeadWrite fn q value s) s := by
  unfold execCqHeadWrite
  simp only []
  (repeat' split) <;> exact keeps_next (by simp)

@[simp] theorem fetchCtx_ident (s : State) (k : Nat) (data : Option Bytes) (next : Option Nat) : (fetchCtx s k data next).ident = s.ident := by
  unfold fetchCtx
  simp only []
  (repeat' split) <;> simp

@[simp] theorem fetchMgmt_ident (s : State) (n : Nat) (data : Option Bytes) (next : Option Nat) : (fetchMgmt s n data next).ident = s.ident := by
  unfold fetchMgmt
  simp only []
  (repeat' split) <;> simp

theorem execDescriptorFetch_keeps (q : QRef) (data : Option Bytes) (next : Option Nat) (s : State) : Keeps (execDescriptorFetch q data next s) s := by
  unfold execDescriptorFetch
  (repeat' split) <;> exact keeps_next (by simp)

theorem execEvmaskWrite_keeps (fn : Fn) (k : Nat) (value : Nat) (s : State) : Keeps (execEvmaskWrite fn k value s) s := by
  unfold execEvmaskWrite
  simp only []
  (repeat' split) <;> exact keeps_next (by simp)

theorem execWatchdogExpired_keeps (p : Nat) (s : State) : Keeps (execWatchdogExpired p s) s := by
  unfold execWatchdogExpired
  (repeat' split) <;> exact keeps_next (by simp)

theorem execFunctionLevelReset_keeps (port : Nat) (vf : Nat) (s : State) : Keeps (execFunctionLevelReset port vf s) s := by
  unfold execFunctionLevelReset
  exact keeps_next (by simp)

theorem execVfConfigChange_keeps (port : Nat) (vf : Nat) (s : State) : Keeps (execVfConfigChange port vf s) s := by
  unfold execVfConfigChange
  exact keeps_next (by simp)

@[simp] theorem answer_ident (s : State) (req : Nat) (result : Nat) (blocks : List (Nat × Bytes)) (signed : Bool) : (answer s req result blocks signed).ident = s.ident := by
  unfold answer
  rfl

theorem execTdispRequest_keeps (port : Nat) (vf : Nat) (msg : TdispMsg) (session : Nat) (s : State) : Keeps (execTdispRequest port vf msg session s) s := by
  unfold execTdispRequest
  simp only []
  (repeat' split) <;> exact keeps_next (by simp)

@[simp] theorem dropSlot_ident (s : State) (p : Nat) : (dropSlot s p).ident = s.ident := by
  unfold dropSlot
  extract_lets ks s1 s2
  have h1 : s1.ident = s.ident := by simp [s1]
  have h2 : s2.ident = s1.ident := ident_foldl _ (fun s k => by split <;> simp) _ _
  simp [h1, h2]

@[simp] theorem restartCounts_ident (s : State) : (restartCounts s).ident = s.ident := by
  unfold restartCounts
  simp

@[simp] theorem applyLayout_ident (s : State) (new : Layout) (changed : List Nat) : (applyLayout s new changed).ident = s.ident := by simp [applyLayout]

@[simp] theorem finishSwitch_ident (s : State) : (finishSwitch s).ident = s.ident := by
  unfold finishSwitch
  split
  · rfl
  · rename_i w _
    have h := applyLayout_ident s w.layout w.changed
    simp only []
    generalize applyLayout s w.layout w.changed = t at h ⊢
    exact h

theorem execLayoutSwitch_keeps (n : Nat) (block : Bytes) (sigOk : Bool) (devOk : Bool) (s : State) : Keeps (execLayoutSwitch n block sigOk devOk s) s := by
  unfold execLayoutSwitch
  simp only []
  (repeat' split) <;> exact keeps_next (by simp)

end Sys2Proof.Machine
end

