-- ==== Sys2Proof/Laws/IdentSystem.lean ====
section
/-! SUPPORT. Sys2Proof/Laws/IdentSystem.lean: no command changes the queue of waiting commands or the identity of the module: the host link, the watch, the gatehouse, energy, start and pins.
For each function that answers a state, `_ident` says that it keeps them; for each command, `_keeps` says that it answers a next
state that keeps them. -/
namespace Sys2Proof.Machine

/-! ### Load -/

@[simp] theorem resetUpd_ident (s : State) (p : Nat) : (resetUpd s p).ident = s.ident := by
  unfold resetUpd
  rfl

@[simp] theorem resetProt_ident (s : State) (p : Nat) : (resetProt s p).ident = s.ident := by simp [resetProt]

@[simp] theorem putImage_ident (s : State) (k : Nat) (img : Image) : (putImage s k img).ident = s.ident := by simp [putImage]

theorem execLoad_keeps (k : Nat) (img : Option Image) (s : State) : Keeps (execLoad k img s) s := by
  unfold execLoad
  split
  · exact keeps_next rfl
  · simp only []
    repeat' split
    all_goals first
      | exact keeps_next rfl
      | (refine keeps_next ?_; simp; done)
      | (refine keeps_next (Eq.trans ?_ (allocTable_ident _ (by assumption))); simp)

theorem execUnload_keeps (k : Nat) (s : State) : Keeps (execUnload k s) s := by
  unfold execUnload
  (repeat' split) <;> exact keeps_next (by simp)

/-! ### Belvedere -/

theorem linkDown_ident (stop : State → Nat → State) (h : ∀ s k, (stop s k).ident = s.ident) (s : State) (n : Nat) :
    (linkDown stop s n).ident = s.ident := by
  unfold linkDown
  simp [h]

theorem linksDown_ident (stop : State → Nat → State) (h : ∀ s k, (stop s k).ident = s.ident) (s : State) :
    (linksDown stop s).ident = s.ident :=
  ident_foldl _ (linkDown_ident stop h) _ _

@[simp] theorem linkUp_ident (s : State) (n : Nat) : (linkUp s n).ident = s.ident := by simp [linkUp]

@[simp] theorem linksUp_ident (s : State) : (linksUp s).ident = s.ident := by simp [linksUp]

@[simp] theorem stopJobs_ident (s : State) : (stopJobs s).ident = s.ident := by
  unfold stopJobs
  rfl

@[simp] theorem eventIrqs_ident (s : State) (sev : Nat) : (eventIrqs s sev).ident = s.ident := by simp [eventIrqs]

@[simp] theorem fatalStop_ident (s : State) : (fatalStop s).ident = s.ident := by
  unfold fatalStop
  simp only []
  split <;> simp [linksDown_ident]

@[simp] theorem noteEvent_ident (s : State) (line : Nat) (e : Evt) : (noteEvent s line e).ident = s.ident := by simp [noteEvent]

@[simp] theorem takeEvent_ident (s : State) (line : Nat) (e : Evt) : (takeEvent s line e).ident = s.ident := by simp [takeEvent]

theorem execBelvedereEvent_keeps (line : Nat) (s : State) : Keeps (execBelvedereEvent line s) s := by
  unfold execBelvedereEvent
  (repeat' split) <;> exact keeps_next (by simp)

theorem execHeartbeatLost_keeps (missing : Nat) (s : State) : Keeps (execHeartbeatLost missing s) s := by
  unfold execHeartbeatLost
  simp only []
  (repeat' split) <;> exact keeps_next (by simp)

theorem execAliveToggle_keeps (s : State) : Keeps (execAliveToggle s) s := by
  unfold execAliveToggle
  (repeat' split) <;> exact keeps_next rfl

theorem execHistoryWord0Read_keeps (fn : Fn) (entry : Nat) (s : State) : Keeps (execHistoryWord0Read fn entry s) s := by
  unfold execHistoryWord0Read
  (repeat' split) <;> exact keeps_next rfl

/-! ### CheckUnits -/

@[simp] theorem unitIrq_ident (s : State) (c : ChkUnit) : (unitIrq s c).ident = s.ident := by simp [unitIrq]

@[simp] theorem setErr_ident (s : State) (u : Nat) (b : Nat) : (setErr s u b).ident = s.ident := by simp [setErr]

theorem withUnit_keeps (s : State) (fn : Fn) (u fed : Nat) (f : State → ChkUnit → State) (h : ∀ s c, (f s c).ident = s.ident) :
    Keeps (withUnit s fn u fed f) s := by
  unfold withUnit
  split <;> refine keeps_next ?_ <;> simp [h]

theorem feedWrite_keeps (s : State) (fn : Fn) (u value fed n : Nat) : Keeps (feedWrite s fn u value fed n) s :=
  withUnit_keeps _ _ _ _ _ fun s c => by (repeat' split) <;> simp

theorem execChkD8_keeps (fn : Fn) (u value fed : Nat) (s : State) : Keeps (execChkD8 fn u value fed s) s := feedWrite_keeps ..

theorem execChkD16_keeps (fn : Fn) (u value fed : Nat) (s : State) : Keeps (execChkD16 fn u value fed s) s := feedWrite_keeps ..

theorem execChkD32_keeps (fn : Fn) (u value fed : Nat) (s : State) : Keeps (execChkD32 fn u value fed s) s := feedWrite_keeps ..

theorem execChkStart_keeps (fn : Fn) (u alive fed : Nat) (s : State) : Keeps (execChkStart fn u alive fed s) s :=
  withUnit_keeps _ _ _ _ _ fun s c => by (repeat' split) <;> simp <;> (repeat' split) <;> simp

theorem execChkEnd_keeps (fn : Fn) (u fed : Nat) (s : State) : Keeps (execChkEnd fn u fed s) s :=
  withUnit_keeps _ _ _ _ _ fun s c => by (repeat' split) <;> simp <;> (repeat' split) <;> simp

theorem execChkReset_keeps (fn : Fn) (u : Nat) (s : State) : Keeps (execChkReset fn u s) s :=
  withUnit_keeps _ _ _ _ _ fun s c => by simp

theorem execChkAssign_keeps (fn : Fn) (u : Nat) (value : Nat) (s : State) : Keeps (execChkAssign fn u value s) s := by
  unfold execChkAssign
  (repeat' split) <;> exact keeps_next rfl

/-! ### Gatehouse -/

@[simp] theorem setSpdm_ident (s : State) (e : Endpoint) (x : Spdm) : (setSpdm s e x).ident = s.ident := by
  unfold setSpdm
  rfl

@[simp] theorem spdmError_ident (s : State) (req : Nat) (code : Nat) : (spdmError s req code).ident = s.ident := by
  unfold spdmError
  rfl

theorem execGetVersion_keeps (e : Endpoint) (s : State) : Keeps (execGetVersion e s) s := by
  unfold execGetVersion
  (repeat' split) <;> exact keeps_next rfl

theorem execGetCapabilities_keeps (e : Endpoint) (s : State) : Keeps (execGetCapabilities e s) s := by
  unfold execGetCapabilities
  simp only []
  (repeat' split) <;> exact keeps_next (by simp)

theorem execNegotiateAlgorithms_keeps (e : Endpoint) (s : State) : Keeps (execNegotiateAlgorithms e s) s := by
  unfold execNegotiateAlgorithms
  simp only []
  (repeat' split) <;> exact keeps_next (by simp)

theorem execGetDigests_keeps (e : Endpoint) (s : State) : Keeps (execGetDigests e s) s := by
  unfold execGetDigests
  (repeat' split) <;> exact keeps_next rfl

theorem execGetCertificate_keeps (e : Endpoint) (slot : Nat) (s : State) : Keeps (execGetCertificate e slot s) s := by
  unfold execGetCertificate
  (repeat' split) <;> exact keeps_next rfl

theorem execChallenge_keeps (e : Endpoint) (slot : Nat) (s : State) : Keeps (execChallenge e slot s) s := by
  unfold execChallenge
  (repeat' split) <;> exact keeps_next rfl

theorem execGetMeasurements_keeps (e : Endpoint) (index : Nat) (s : State) : Keeps (execGetMeasurements e index s) s := by
  unfold execGetMeasurements
  simp only []
  (repeat' split) <;> exact keeps_next (by simp)

theorem execKeyExchange_keeps (e : Endpoint) (s : State) : Keeps (execKeyExchange e s) s := by
  unfold execKeyExchange
  simp only []
  (repeat' split) <;> exact keeps_next (by simp)

@[simp] theorem updSession_ident (s : State) (e : Endpoint) (id : Nat) (f : Session → Session) : (updSession s e id f).ident = s.ident := by
  unfold updSession
  rfl

@[simp] theorem dropSession_ident (s : State) (e : Endpoint) (id : Nat) : (dropSession s e id).ident = s.ident := by
  unfold dropSession
  rfl

theorem execFinish_keeps (e : Endpoint) (id : Nat) (ok : Bool) (s : State) : Keeps (execFinish e id ok s) s := by
  unfold execFinish
  (repeat' split) <;> exact keeps_next rfl

theorem execHeartbeat_keeps (e : Endpoint) (id : Nat) (s : State) : Keeps (execHeartbeat e id s) s := by
  unfold execHeartbeat
  (repeat' split) <;> exact keeps_next rfl

theorem execKeyUpdate_keeps (e : Endpoint) (id : Nat) (s : State) : Keeps (execKeyUpdate e id s) s := by
  unfold execKeyUpdate
  (repeat' split) <;> exact keeps_next rfl

theorem execEndSession_keeps (e : Endpoint) (id : Nat) (s : State) : Keeps (execEndSession e id s) s := by
  unfold execEndSession
  (repeat' split) <;> exact keeps_next rfl

theorem execKeyProg_keeps (port : Nat) (session : Nat) (stream : Nat) (kset : Nat) (vf : Nat) (key : Nat) (s : State) : Keeps (execKeyProg port session stream kset vf key s) s := by
  unfold execKeyProg
  (repeat' split) <;> exact keeps_next rfl

theorem execKSetGo_keeps (port : Nat) (session : Nat) (stream : Nat) (kset : Nat) (s : State) : Keeps (execKSetGo port session stream kset s) s := by
  unfold execKSetGo
  (repeat' split) <;> exact keeps_next rfl

theorem execKSetStop_keeps (port : Nat) (session : Nat) (stream : Nat) (kset : Nat) (s : State) : Keeps (execKSetStop port session stream kset s) s := by
  unfold execKSetStop
  (repeat' split) <;> exact keeps_next rfl

theorem execQuery_keeps (port : Nat) (session : Nat) (s : State) : Keeps (execQuery port session s) s := by
  unfold execQuery
  (repeat' split) <;> exact keeps_next rfl

theorem execTenantSetup_keeps (port : Nat) (vf : Nat) (session : Nat) (payload : Bytes) (s : State) : Keeps (execTenantSetup port vf session payload s) s := by
  unfold execTenantSetup
  simp only []
  (repeat' split) <;> exact keeps_next (by simp)

theorem execBindContext_keeps (port : Nat) (vf : Nat) (session : Nat) (payload : Bytes) (s : State) : Keeps (execBindContext port vf session payload s) s := by
  unfold execBindContext
  simp only []
  (repeat' split) <;> exact keeps_next (by simp)

theorem execGetUsageHead_keeps (port : Nat) (vf : Nat) (session : Nat) (payload : Bytes) (s : State) : Keeps (execGetUsageHead port vf session payload s) s := by
  unfold execGetUsageHead
  simp only []
  (repeat' split) <;> exact keeps_next (by simp)

theorem execPartitionErase_keeps (fn : Fn) (session : Nat) (p : Nat) (s : State) : Keeps (execPartitionErase fn session p s) s := by
  unfold execPartitionErase
  (repeat' split) <;> exact keeps_next (by simp)

@[simp] theorem stepClock_ident (s : State) (new : Nat) : (stepClock s new).ident = s.ident := by simp [stepClock]

theorem execTimeSet_keeps (n : Nat) (block : Bytes) (sigOk : Bool) (devOk : Bool) (s : State) : Keeps (execTimeSet n block sigOk devOk s) s := by
  unfold execTimeSet
  (repeat' split) <;> exact keeps_next (by simp)

@[simp] theorem stopSenders_ident (s : State) : (stopSenders s).ident = s.ident := by simp [stopSenders]

@[simp] theorem tamperResponse_ident (s : State) : (tamperResponse s).ident = s.ident := by
  unfold tamperResponse
  simp only []
  split <;> simp [linksDown_ident]

@[simp] theorem lockModule_ident (s : State) : (lockModule s).ident = s.ident := by
  unfold lockModule
  rfl

theorem execTamperEvent_keeps (sensors : Nat) (s : State) : Keeps (execTamperEvent sensors s) s := by
  unfold execTamperEvent
  simp only []
  (repeat' split) <;> exact keeps_next (by simp)

theorem execBackupCellExhausted_keeps (s : State) : Keeps (execBackupCellExhausted s) s := by
  unfold execBackupCellExhausted
  (repeat' split) <;> exact keeps_next rfl

theorem execUsageBoundary_keeps (s : State) : Keeps (execUsageBoundary s) s := by
  unfold execUsageBoundary
  simp only []
  (repeat' split) <;> exact keeps_next (by simp)

theorem execUsageRingWrite_keeps (n : Nat) (s : State) : Keeps (execUsageRingWrite n s) s := by
  unfold execUsageRingWrite
  simp only []
  (repeat' split) <;> exact keeps_next (by simp)

/-! ### Cold -/

@[simp] theorem coldState_ident (s : State) : (coldState s).ident = s.ident := by
  unfold coldState
  rfl

@[simp] theorem hotModel_ident (s : State) : (hotModel s).ident = s.ident := by
  unfold hotModel
  rfl

/-! ### Almanac -/

@[simp] theorem addShare_ident (s : State) (p k id : Nat) (eng : Bool) : (addShare s p k id eng).ident = s.ident := by
  unfold addShare
  simp

@[simp] theorem runTime_ident (s : State) (p : Nat) : (runTime s p).ident = s.ident := by
  unfold runTime
  (repeat' split) <;> simp

@[simp] theorem engTime_ident (s : State) (p : Nat) : (engTime s p).ident = s.ident := by
  unfold engTime
  split <;> simp

@[simp] theorem seqTime_ident (s : State) (n : Nat) : (seqTime s n).ident = s.ident := by simp [seqTime]

@[simp] theorem seqTimes_ident (s : State) (p : Nat) : (seqTimes s p).ident = s.ident := by
  unfold seqTimes
  split <;> simp

@[simp] theorem reportMarks_ident (s : State) : (reportMarks s).ident = s.ident := by
  unfold reportMarks
  simp

@[simp] theorem stageIdle_ident (s : State) (k : Nat) : (stageIdle s k).ident = s.ident := by simp [stageIdle]

@[simp] theorem holdTime_ident (s : State) (p : Nat) : (holdTime s p).ident = s.ident := by simp [holdTime]

@[simp] theorem upTime_ident (s : State) (p : Nat) : (upTime s p).ident = s.ident := by
  unfold upTime
  refine ident_foldl _ (fun s k => ?_) _ _
  split <;> rfl

@[simp] theorem landHoldTime_ident (s : State) : (landHoldTime s).ident = s.ident := by
  unfold landHoldTime
  simp

@[simp] theorem trTime_ident (s : State) : (trTime s).ident = s.ident := by
  unfold trTime
  extract_lets add s1
  have ha : ∀ s t c, (add s t c).ident = s.ident := fun _ _ _ => rfl
  simp [s1, ha]

@[simp] theorem landTime_ident (s : State) (p : Nat) : (landTime s p).ident = s.ident := by simp [landTime]

@[simp] theorem passTime_ident (s : State) : (passTime s).ident = s.ident := by simp [passTime]

@[simp] theorem clockTime_ident (s : State) : (clockTime s).ident = s.ident := by
  unfold clockTime
  exact ident_mk ..

theorem execInputSample_keeps (vin iin pd : Nat) (s : State) : Keeps (execInputSample vin iin pd s) s := by
  unfold execInputSample
  extract_lets s1 s2 a b
  have h2 : s2.ident = s.ident := (ident_mk ..).trans (clockTime_ident s)
  clear_value s2
  split
  · refine keeps_next ?_
    split
    · exact (ident_mk ..).trans h2
    · exact h2
  · exact keeps_next ((passTime_ident _).trans ((ident_mk ..).trans h2))

@[simp] theorem ownSag_ident (s : State) (p : Nat) : (ownSag s p).ident = s.ident := by simp [ownSag]

theorem execSagEvent_keeps (s : State) : Keeps (execSagEvent s) s := by
  unfold execSagEvent
  extract_lets a s1
  split
  · exact keeps_next rfl
  · exact keeps_next ((ident_foldl _ (fun s p => by simp) _ _).trans rfl)

theorem execSagEventEnd_keeps (s : State) : Keeps (execSagEventEnd s) s := by
  unfold execSagEventEnd
  (repeat' split) <;> exact keeps_next rfl

theorem execPowerFailSequence_keeps (s : State) : Keeps (execPowerFailSequence s) s := by
  unfold execPowerFailSequence
  split
  · exact keeps_next rfl
  · exact keeps_next (by simp [linksDown_ident])

@[simp] theorem loseFrame_ident (s : State) (since : Nat) : (loseFrame s since).ident = s.ident := by simp [loseFrame]

theorem execFrameEdge_keeps (ival : Nat) (s : State) : Keeps (execFrameEdge ival s) s := by
  unfold execFrameEdge
  simp only []
  (repeat' split) <;> exact keeps_next (by simp)

theorem execFrameTimeout_keeps (s : State) : Keeps (execFrameTimeout s) s := by
  unfold execFrameTimeout
  simp only []
  (repeat' split) <;> exact keeps_next (by simp)

theorem execInternalFrameEdge_keeps (s : State) : Keeps (execInternalFrameEdge s) s := by
  unfold execInternalFrameEdge
  simp only []
  (repeat' split) <;> exact keeps_next (by simp)

theorem execHomeSlotStart_keeps (s : State) : Keeps (execHomeSlotStart s) s := by
  unfold execHomeSlotStart
  simp only []
  (repeat' split) <;> exact keeps_next (by simp)

@[simp] theorem doGrant_ident (s : State) (r : Request) : (doGrant s r).ident = s.ident := by
  unfold doGrant
  (repeat' split) <;> simp

@[simp] theorem bypass_ident (s : State) (p : Nat) (r : Request) : (bypass s p r).ident = s.ident := by
  unfold bypass
  simp only []
  (repeat' split) <;> simp

@[simp] theorem tryRequest_ident (s : State) (r : Request) : (tryRequest s r).ident = s.ident := by
  unfold tryRequest
  (repeat' split) <;> simp

@[simp] theorem grantDue_ident (l : List Request) : ∀ s : State, (grantDue l s).ident = s.ident := by
  induction l with
  | nil => intro s; rfl
  | cons r l ih =>
    intro s
    unfold grantDue
    split <;> simp [ih]

@[simp] theorem grantAll_ident (s : State) : (grantAll s).ident = s.ident := by simp [grantAll]

@[simp] theorem waitTick_ident (s : State) : (waitTick s).ident = s.ident := by simp [waitTick]

theorem execCommandDue_keeps (k : Nat) (id : Nat) (s : State) : Keeps (execCommandDue k id s) s := by
  unfold execCommandDue
  (repeat' split) <;> exact keeps_next rfl

@[simp] theorem modelTick_ident (s : State) (i : TickIn) : (modelTick s i).ident = s.ident := by simp [modelTick]

@[simp] theorem meterCmd_ident (s : State) (k id n : Nat) : (meterCmd s k id n).ident = s.ident := by
  unfold meterCmd
  simp only []
  (repeat' split) <;> simp

@[simp] theorem meterTick_ident (s : State) (i : TickIn) (p : Nat) : (meterTick s i p).ident = s.ident := by
  unfold meterTick
  extract_lets e s1 all ran
  refine (ident_foldl _ (fun s x => ?_) _ _).trans (ident_mk ..)
  simp only []
  (repeat' split) <;> simp

theorem execAlmanacTick_keeps (i : TickIn) (s : State) : Keeps (execAlmanacTick i s) s := by
  unfold execAlmanacTick
  split
  · exact keeps_next rfl
  · extract_lets s1 a s2 s3
    have h1 : s1.ident = s.ident := by
      refine (ident_foldl _ (fun s p => ?_) _ _).trans (modelTick_ident s i)
      split
      · exact meterTick_ident s i p
      · rfl
    clear_value s1
    have h2 : s2.ident = s.ident := (ident_mk ..).trans h1
    clear_value s2
    have h3 : (grantAll (waitTick s2)).ident = s.ident := by rw [grantAll_ident, waitTick_ident, h2]
    change s3.ident = _ at h3
    clear_value s3
    exact keeps_next ((ident_mk ..).trans h3)

/-! ### Image -/

@[simp] theorem markSection_ident (s : State) (ty : Nat) (absent : Bool) : (markSection s ty absent).ident = s.ident := by simp [markSection]

theorem withSection_ident (s : State) (ty : Nat) (ok : Bytes → Bool) (use : State → Bytes → State) (miss : State → State)
    (hu : ∀ s b, (use s b).ident = s.ident) (hm : ∀ s, (miss s).ident = s.ident) : (withSection s ty ok use miss).ident = s.ident := by
  unfold withSection
  (repeat' split) <;> simp [hu, hm]

@[simp] theorem storeLayouts_ident (s : State) (b : Bytes) : (storeLayouts s b).ident = s.ident := by simp [storeLayouts]

@[simp] theorem storeTables_ident (s : State) (b : Bytes) : (storeTables s b).ident = s.ident := by simp [storeTables]

@[simp] theorem portsIdle_ident (s : State) : (portsIdle s).ident = s.ident := by simp [portsIdle]

@[simp] theorem storeTopo_ident (s : State) (b : Bytes) : (storeTopo s b).ident = s.ident := by simp [storeTopo]

@[simp] theorem overlayPass_ident (s : State) (b : Bytes) : (overlayPass s b).ident = s.ident :=
  ident_foldl _ (fun s i => by simp only []; (repeat' split) <;> simp) _ _

@[simp] theorem applyOverlays_ident (s : State) (b : Bytes) : (applyOverlays s b).ident = s.ident := by simp [applyOverlays]

/-! ### Daybreak -/

@[simp] theorem bootStep2_ident (s : State) : (bootStep2 s).ident = s.ident := by
  unfold bootStep2
  extract_lets s1
  split
  extract_lets serial s2
  have h2 : s2.ident = s.ident := (ident_mk ..).trans (ident_mk ..)
  clear_value s2
  split
  · exact h2
  · refine (withSection_ident _ _ _ _ _ ?_ ?_).trans ?_
    · intro _ _; simp
    · intro _; simp
    refine (withSection_ident _ _ _ _ _ ?_ ?_).trans ?_
    · intro _ _; rfl
    · intro _; rfl
    refine (ident_mk ..).trans ?_
    refine (withSection_ident _ _ _ _ _ ?_ ?_).trans ?_
    · intro _ _; rfl
    · intro _; simp
    refine (withSection_ident _ _ _ _ _ ?_ ?_).trans ?_
    · intro _ _; rfl
    · intro _; rfl
    exact (ident_mk ..).trans h2

@[simp] theorem failCore_ident (s : State) (n : Nat) : (failCore s n).ident = s.ident := by simp [failCore]

@[simp] theorem bootStep4_ident (s : State) (b : BootIn) : (bootStep4 s b).ident = s.ident := by
  unfold bootStep4
  refine (withSection_ident _ _ _ _ _ ?_ ?_).trans ?_
  · intro _ _; simp
  · intro _; rfl
  refine (ident_foldl _ (fun s n => by simp) _ _).trans ?_
  refine (ident_foldl _ (fun s n => by simp) _ _).trans ?_
  refine (withSection_ident _ _ _ _ _ ?_ ?_).trans ?_
  · intro _ _; simp
  · intro _; rfl
  exact ident_foldl _ (fun s n => by simp) _ _

@[simp] theorem bootLayout_ident (s : State) : (bootLayout s).ident = s.ident := by simp [bootLayout]

@[simp] theorem bootStep5_ident (s : State) : (bootStep5 s).ident = s.ident := by
  unfold bootStep5
  extract_lets s1
  have h1 : s1.ident = s.ident := withSection_ident _ _ _ _ _ (fun _ _ => by simp) (fun _ => rfl)
  simp [h1]

@[simp] theorem bootStep6_ident (s : State) (b : BootIn) : (bootStep6 s b).ident = s.ident := by simp [bootStep6]

@[simp] theorem bootStep7_ident (s : State) : (bootStep7 s).ident = s.ident := by simp [bootStep7]

@[simp] theorem bootOne_ident (b : BootIn) (s : State) (n : Nat) : (bootOne b s n).ident = s.ident := by
  unfold bootOne
  simp only []
  (repeat' split) <;> simp

@[simp] theorem bootOn_ident (b : BootIn) (s : State) : (bootOn b s).ident = s.ident := by simp [bootOn]

@[simp] theorem railsUp_ident (s : State) : (railsUp s).ident = s.ident := by simp [railsUp]

theorem execInputQualifies_keeps (b : BootIn) (s : State) : Keeps (execInputQualifies b s) s := by
  unfold execInputQualifies
  (repeat' split) <;> exact keeps_next (by simp)

theorem execResetNAssert_keeps (s : State) : Keeps (execResetNAssert s) s := by
  unfold execResetNAssert
  (repeat' split) <;> exact keeps_next rfl

theorem execResetNRelease_keeps (b : BootIn) (s : State) : Keeps (execResetNRelease b s) s := by
  unfold execResetNRelease
  simp only []
  (repeat' split) <;> exact keeps_next (by simp)

@[simp] theorem warmCut_ident (s : State) (k : Nat) : (warmCut s k).ident = s.ident := by simp [warmCut]

@[simp] theorem warmStop_ident (s : State) : (warmStop s).ident = s.ident := by
  unfold warmStop
  simp

@[simp] theorem warmBoot_ident (s : State) (b : BootIn) : (warmBoot s b).ident = s.ident := by
  unfold warmBoot
  simp [linksDown_ident]

theorem execWarmRestart_keeps (b : BootIn) (s : State) : Keeps (execWarmRestart b s) s := by
  unfold execWarmRestart
  (repeat' split) <;> exact keeps_next (by simp)

@[simp] theorem flashIssue_ident (s : State) (kind : Nat) (a : Nat) : (flashIssue s kind a).ident = s.ident := by simp [flashIssue]

theorem execSectorErase_keeps (fn : Fn) (s : State) : Keeps (execSectorErase fn s) s := by
  unfold execSectorErase
  (repeat' split) <;> exact keeps_next (by simp)

theorem execPageProgram_keeps (fn : Fn) (s : State) : Keeps (execPageProgram fn s) s := by
  unfold execPageProgram
  (repeat' split) <;> exact keeps_next (by simp)

theorem execCfgFlData_keeps (fn : Fn) (value : Nat) (s : State) : Keeps (execCfgFlData fn value s) s := by
  unfold execCfgFlData
  (repeat' split) <;> exact keeps_next rfl

@[simp] theorem flashPut_ident (s : State) (a : Nat) (bs : Bytes) : (flashPut s a bs).ident = s.ident := by simp [flashPut]

theorem execFlashOperationComplete_keeps (ok : Bool) (s : State) : Keeps (execFlashOperationComplete ok s) s := by
  unfold execFlashOperationComplete
  split
  · exact keeps_next rfl
  · simp only []
    (repeat' split) <;> exact keeps_next (by simp)

/-! ### RegRead -/

@[simp] theorem readEffect_ident (x : Place) (s : State) : (readEffect x s).ident = s.ident := by
  unfold readEffect
  (repeat' split) <;> rfl

@[simp] theorem readAt_ident (fn : Fn) (a : Nat) (s : State) : (readAt fn a s).ident = s.ident := by
  unfold readAt
  dsimp only
  (repeat' split) <;> first | rfl | exact readEffect_ident ..

theorem execCounterLowHalfRead_keeps (fn : Fn) (a : Access) (s : State) : Keeps (execCounterLowHalfRead fn a s) s := by
  unfold execCounterLowHalfRead
  split
  · exact keeps_next rfl
  · split
    · exact keeps_next (readAt_ident ..)
    · extract_lets lo hi
      have h : hi.ident = s.ident := (readAt_ident ..).trans (readAt_ident ..)
      clear_value hi
      exact keeps_next ((ident_mk ..).trans h)

/-! ### RegWrite -/

@[simp] theorem nextOr_ident {s : State} {r : Res} (h : Keeps r s) : (nextOr s r).ident = s.ident := by
  obtain ⟨t, rfl, h⟩ := h; exact h

@[simp] theorem writeFlash_ident (s : State) (fn : Fn) (o : Nat) (v : Nat) : (writeFlash s fn o v).ident = s.ident := by simp [writeFlash, execCfgFlData_keeps, execSectorErase_keeps, execPageProgram_keeps]

@[simp] theorem setRing_ident (s : State) (n : Nat) (r : UseRing) : (setRing s n r).ident = s.ident := by
  unfold setRing
  rfl

@[simp] theorem writeGth_ident (s : State) (n : Nat) (o : Nat) (v : Nat) : (writeGth s n o v).ident = s.ident := by simp [writeGth]

@[simp] theorem writeAlm_ident (s : State) (o : Nat) (v : Nat) : (writeAlm s o v).ident = s.ident := by simp [writeAlm]

@[simp] theorem writeBlv_ident (s : State) (n : Nat) (o : Nat) (v : Nat) : (writeBlv s n o v).ident = s.ident := by simp [writeBlv]

@[simp] theorem writeChkCtl_ident (s : State) (fn : Fn) (u : Nat) (v : Nat) : (writeChkCtl s fn u v).ident = s.ident := by simp [writeChkCtl, execChkStart_keeps, execChkEnd_keeps, execChkReset_keeps]

@[simp] theorem writeChk_ident (s : State) (fn : Fn) (u : Nat) (o : Nat) (v : Nat) : (writeChk s fn u o v).ident = s.ident := by simp [writeChk, execChkD8_keeps, execChkD16_keeps, execChkD32_keeps]

@[simp] theorem writeHq_ident (s : State) (fn : Fn) (k : Nat) (o : Nat) (v : Nat) : (writeHq s fn k o v).ident = s.ident := by simp [writeHq, execSqDoorbell_keeps, execCqHeadWrite_keeps]

@[simp] theorem writeMq_ident (s : State) (fn : Fn) (n : Nat) (o : Nat) (v : Nat) : (writeMq s fn n o v).ident = s.ident := by simp [writeMq, execSqDoorbell_keeps, execCqHeadWrite_keeps]

@[simp] theorem writeCtl_ident (s : State) (fn : Fn) (k : Nat) (op : Nat) : (writeCtl s fn k op).ident = s.ident := by simp [writeCtl, execOpen_keeps, execResume_keeps, execFlush_keeps, execTeardown_keeps, execClose_keeps]

@[simp] theorem writeCtx_ident (s : State) (fn : Fn) (k : Nat) (o : Nat) (v : Nat) : (writeCtx s fn k o v).ident = s.ident := by simp [writeCtx, execEvmaskWrite_keeps]

@[simp] theorem writeTrl_ident (s : State) (o : Nat) (v : Nat) : (writeTrl s o v).ident = s.ident := by simp [writeTrl]

@[simp] theorem writeJob_ident (s : State) (p : Nat) (o : Nat) (v : Nat) : (writeJob s p o v).ident = s.ident := by simp [writeJob]

@[simp] theorem writeLntMod_ident (s : State) (o : Nat) (v : Nat) : (writeLntMod s o v).ident = s.ident := by simp [writeLntMod]

@[simp] theorem writeStm_ident (s : State) (k : Nat) (o : Nat) (v : Nat) : (writeStm s k o v).ident = s.ident := by simp [writeStm]

@[simp] theorem writeMapCmd_ident (s : State) (fn : Fn) (v : Nat) : (writeMapCmd s fn v).ident = s.ident := by simp [writeMapCmd, execMap_keeps, execUnmap_keeps]

@[simp] theorem writePt_ident (s : State) (fn : Fn) (p : Nat) (o : Nat) (v : Nat) : (writePt s fn p o v).ident = s.ident := by simp [writePt]

@[simp] theorem writeCore_ident (s : State) (fn : Fn) (n : Nat) (o : Nat) (v : Nat) : (writeCore s fn n o v).ident = s.ident := by simp [writeCore, execDeny_keeps, execGo_keeps]

@[simp] theorem writeTport_ident (s : State) (fn : Fn) (t o v : Nat) : (writeTport s fn t o v).ident = s.ident := by
  unfold writeTport
  simp only []
  (repeat' split) <;> simp [execDisable_keeps, execRetrain_keeps]

@[simp] theorem writePlace_ident (s : State) (fn : Fn) (v : Nat) (x : Place) : (writePlace s fn v x).ident = s.ident := by
  cases x <;> simp only [writePlace] <;>
    first | rfl | (simp [execChkAssign_keeps, execLntHsig_keeps]; done) | (split <;> simp [execLntHsig_keeps])

@[simp] theorem writeAt_ident (fn : Fn) (a v : Nat) (s : State) : (writeAt fn a v s).ident = s.ident := by
  unfold writeAt
  split <;> simp

theorem execRegisterWrite_keeps (fn : Fn) (a : Access) (value : Nat) (s : State) : Keeps (execRegisterWrite fn a value s) s := by
  unfold execRegisterWrite
  (repeat' split) <;> exact keeps_next (by simp)

/-! ### Pins -/

theorem execPerstNAssert_keeps (n : Nat) (s : State) : Keeps (execPerstNAssert n s) s := by
  unfold execPerstNAssert
  split
  · exact keeps_next rfl
  · refine keeps_next ?_
    split
    · exact (linkDown_ident _ (fun _ _ => by simp) _ _).trans (ident_mk ..)
    · exact ident_mk ..

theorem execPerstNRelease_keeps (n : Nat) (s : State) : Keeps (execPerstNRelease n s) s := by
  unfold execPerstNRelease
  (repeat' split) <;> exact keeps_next (by simp)

theorem execCableSeated_keeps (c : Nat) (s : State) : Keeps (execCableSeated c s) s := by
  unfold execCableSeated
  (repeat' split) <;> exact keeps_next rfl

@[simp] theorem cablePort_ident (jobs : List Nat) (s : State) (n : Nat) : (cablePort jobs s n).ident = s.ident := by simp [cablePort]

theorem execCableRemoved_keeps (c : Nat) (jobs : List Nat) (s : State) : Keeps (execCableRemoved c jobs s) s := by
  unfold execCableRemoved
  split
  · exact keeps_next rfl
  · exact keeps_next ((ident_foldl _ (fun s n => by simp) _ _).trans (ident_mk ..))

@[simp] theorem selectIr_ident (s : State) (ir : Nat) : (selectIr s ir).ident = s.ident := by
  unfold selectIr
  rfl

@[simp] theorem preload_ident (s : State) (cells : Nat) : (preload s cells).ident = s.ident := by
  unfold preload
  rfl

theorem execExtest_keeps (c : Scan) (s : State) : Keeps (execExtest c s) s := by
  unfold execExtest
  (repeat' split) <;> exact keeps_next rfl

theorem execSamplePreload_keeps (c : Scan) (s : State) : Keeps (execSamplePreload c s) s := by
  unfold execSamplePreload
  (repeat' split) <;> exact keeps_next rfl

theorem execIdcode_keeps (s : State) : Keeps (execIdcode s) s := by
  unfold execIdcode
  (repeat' split) <;> exact keeps_next rfl

theorem execBypass_keeps (s : State) : Keeps (execBypass s) s := by
  unfold execBypass
  split
  · exact keeps_next rfl
  · exact keeps_next ((ident_mk ..).trans ((selectIr_ident ..).trans (drawFree_ident s)))

theorem execTestLogicReset_keeps (s : State) : Keeps (execTestLogicReset s) s := by
  unfold execTestLogicReset
  (repeat' split) <;> exact keeps_next rfl

end Sys2Proof.Machine
end

