-- ==== Sys2Proof/Laws/MxArith.lean ====
section
/-! SUPPORT. Sys2Proof/Laws/MxArith.lean: the truncation error of a chunk (R64). -/
namespace Sys2Proof.Machine

/-- R64: the error of a chunk's truncation, in units of 2^q, is never positive and at most 2^(E - 30) in magnitude. -/
theorem truncSum_error (s : Int) (k : Nat) :
    truncSum s k * (2 ^ k : Nat) - s ≤ 0 ∧ -((2 ^ k : Nat) : Int) < truncSum s k * (2 ^ k : Nat) - s := by
  have h : (0 : Int) < (2 ^ k : Nat) := by positivity
  have h1 := Int.emod_nonneg s (ne_of_gt h)
  have h2 := Int.emod_lt_of_pos s h
  have h3 := Int.mul_ediv_add_emod s (2 ^ k : Nat)
  unfold truncSum
  constructor <;> nlinarith

/-- R64: a chunk that fits exactly has no error. -/
theorem truncSum_exact (s : Int) (k : Nat) (h : ((2 ^ k : Nat) : Int) ∣ s) : truncSum s k * (2 ^ k : Nat) = s :=
  Int.ediv_mul_cancel h

/-- R64: an error of at most 2^-30 in each of n chunks of E = 0 adds to at most n times that, as in the table's worst case. -/
theorem truncSum_errors (k : Nat) (xs : List Int) :
    xs.foldr (fun s t => truncSum s k * (2 ^ k : Nat) - s + t) 0 ≤ 0 ∧
      -((xs.length * 2 ^ k : Nat) : Int) ≤ xs.foldr (fun s t => truncSum s k * (2 ^ k : Nat) - s + t) 0 := by
  induction xs with
  | nil => simp
  | cons s xs ih =>
    have h := truncSum_error s k
    simp only [List.foldr_cons, List.length_cons]
    push_cast at *
    constructor <;> nlinarith [ih.1, ih.2, h.1, h.2]

end Sys2Proof.Machine
end

