-- ==== Sys2Proof/Tests/Slice0.lean ====
section
/-! SUPPORT. Sys2Proof/Tests/Slice0.lean: the well-formedness checks refuse an ill-formed term each, values the spec prints, and for each
statement with conditions a state and operands that meet them. -/
namespace Sys2Proof.Tests
open Sys2Proof Sys2Proof.Machine

/-! ### Well-formedness: one ill-formed term for each check -/

theorem test_wf_core : wellFormed (.sqNop 256 0) = false := by decide
theorem test_wf_task : wellFormed (.sqNop 255 4) = false := by decide
theorem test_wf_event : wellFormed (.vxB 0 (.dispatch 4)) = false := by decide
theorem test_wf_slot : wellFormed (.chunkBegin 0 8) = false := by decide
theorem test_wf_host : wellFormed (.usageRingWrite 4) = false := by decide
theorem test_wf_vf : wellFormed (.functionLevelReset 0 65) = false := by decide
theorem test_wf_vf_zero : wellFormed (.functionLevelReset 0 0) = false := by decide
theorem test_wf_function : wellFormed (.map (.mgmt 4) true) = false := by decide
theorem test_wf_endpoint : wellFormed (.getVersion (.fn (.vf 0 65))) = false := by decide
theorem test_wf_partition : wellFormed (.run 16) = false := by decide
theorem test_wf_context : wellFormed (.unload 1024) = false := by decide
theorem test_wf_queue : wellFormed (.descriptorFetch (.ctx 0 64) none none) = false := by decide
theorem test_wf_trellis : wellFormed (.disable (.mgmt 0) 16 true []) = false := by decide
theorem test_wf_position : wellFormed (.portTrain 0 255 1024) = false := by decide
theorem test_wf_packet : wellFormed (.dataPacket 0 { src := 1024 }) = false := by decide
theorem test_wf_engine : wellFormed (.patrolScrub 12) = false := by decide
theorem test_wf_die : wellFormed (.landingBlock 0 4 0 1 []) = false := by decide
theorem test_wf_lantern : wellFormed (.lanternDeltaSend 16384) = false := by decide
theorem test_wf_unit : wellFormed (.chkReset (.mgmt 0) 32) = false := by decide
theorem test_wf_word : wellFormed (.chkD8 (.mgmt 0) 0 4294967296 0) = false := by decide
theorem test_wf_width : wellFormed (.registerWrite (.mgmt 0) { off := 0, width := 3 } 0) = false := by decide
theorem test_wf_value : wellFormed (.registerWrite (.mgmt 0) { off := 0, width := 2 } 65536) = false := by decide
theorem test_wf_offset_end : wellFormed (.registerWrite (.mgmt 0) { off := 0x2000000 } 0) = false := by decide
theorem test_wf_line : wellFormed (.belvedereEvent 64) = false := by decide
theorem test_wf_history : wellFormed (.historyWord0Read (.mgmt 0) 16) = false := by decide
theorem test_wf_lanes : wellFormed (.portTrain 0 256 0) = false := by decide
theorem test_wf_cause : wellFormed (.portDown 0 3 []) = false := by decide
theorem test_wf_count : wellFormed (.landingBlock 0 0 0 65536 []) = false := by decide
theorem test_wf_alive : wellFormed (.chkStart (.mgmt 0) 0 256 0) = false := by decide
theorem test_wf_sensors : wellFormed (.tamperEvent 32) = false := by decide
theorem test_wf_dies : wellFormed (.heartbeatLost 8) = false := by decide
theorem test_wf_cable : wellFormed (.cableSeated 4) = false := by decide
theorem test_wf_cells : wellFormed (.extest { cells := 2 ^ 37 }) = false := by decide
theorem test_wf_levels : wellFormed (.samplePreload { cells := 0, levels := 2 ^ 37 }) = false := by decide
theorem test_wf_boot : wellFormed (.inputQualifies { upTo := 8 }) = false := by decide
theorem test_wf_smbus : wellFormed (.getVersion (.smbus 128)) = false := by decide
theorem test_wf_key_function : wellFormed (.keyProg 0 0 0 0 65 0) = false := by decide
theorem test_wf_good : wellFormed (.registerWrite (.vf 3 64) { off := 0x1FFFFFC } 0xFFFFFFFF) = true := by decide

/-! ### Helpers: small states -/

/-- A module of the largest variant, revision 0, with one partition of four beds, everything else as after reset. -/
def base : State :=
  { cfg := { variant := .kt960, rev := 0 }
    lay := { active := { entries :=
      [{ used := true, maxCtxM1 := 63, beds := 15, vfCount := 4, frameCount := 1000, tsQuota := 16 }] } } }

/-- An instruction word: class, operation, and the fields below bit 56. -/
def iw (cls op fields : Nat) : Nat := cls * 2 ^ 60 + op * 2 ^ 56 + fields

/-- The command that the cores of these tests run. -/
def cmd0 : CoreCmd := { key := 0, cmd := 0, lcore := 0, lbed := 0, params := [], flush := false }

/-- A region of 4 KiB at the second 4 KiB of the window, full of zero bytes. -/
def full : Region := { valid := true, prod := 1, cons := 1, sizeM1 := 0, base := 1, occ := 256 }
/-- The same, empty, at the third 4 KiB. -/
def empty : Region := { valid := true, prod := 1, cons := 1, sizeM1 := 0, base := 2 }
/-- A scalar region at the fourth 4 KiB. -/
def scalarRg : Region := { valid := true, base := 3 }
/-- Task 0 with the registers given, the three regions as 0, 1 and 2. -/
def task0 (regs : Tbl Nat) : Task := { run := true, regs := regs, regions := [(0, full), (1, empty), (2, scalarRg)] }
/-- A core that runs task 0 in a window of 16 KiB, with a word at its program counter 0. -/
def seqCore (w : Nat) (regs : Tbl Nat) : Core :=
  { cmd := some cmd0, tasks := [(0, task0 regs)], wins := [(0, { valid := true, base := 0, sizeM1 := 3 })]
    scratch := Mem.wrN [] 0 (natLe 8 w) }
/-- Core 0 about to dispatch a word. -/
def at0 (w : Nat) (regs : Tbl Nat) : State := base.setCore 0 (seqCore w regs)
/-- A queued instruction of task 0. -/
def queued (w f : Nat) : QInstr := { seq := 0, task := 0, word := w, fmt := f, s1 := 0, s2 := 0, base := 0, rng := {} }
/-- Core 0 with an instruction at the head of the queue of an engine. -/
def hd (e : Eng) (w f : Nat) : State := base.setCore 0 (setQueue (seqCore 0 []) e [queued w f])

/-! ### Conditions met: the sequencer -/

theorem test_met_ScalarInstructions :
    dispatchable (at0 (iw 6 0 0) []) 0 0 .sqNop = true ∧ dispatchable (at0 (iw 6 1 (2 ^ 47 + 7)) []) 0 0 .sqLi = true ∧
    dispatchable (at0 (iw 6 2 (2 ^ 47 + 2 ^ 41 + 7)) []) 0 0 .sqAlu = true ∧
    dispatchable (at0 (iw 7 4 (5 * 2 ^ 30)) []) 0 0 .cfRng = true := by decide

theorem test_met_AluValues : (0xFFFFFFFF : Nat) < 2 ^ 32 := by decide

/-- SQ.LOOP: a body of 1 with count 2, and with count 0; SQ.BR: always, and on inequality of s0 with itself. -/
theorem test_met_FlowInstructions :
    let loop (c : Nat) : Nat := iw 6 3 (2 ^ 16 + c)
    let br (c : Nat) : Nat := iw 6 4 (c * 2 ^ 52 + 4)
    dispatchable (at0 (loop 2) []) 0 0 .sqLoop = true ∧ loopN (task0 []) (loop 2) ≠ 0 ∧
    dispatchable (at0 (loop 0) []) 0 0 .sqLoop = true ∧ loopN (task0 []) (loop 0) = 0 ∧
    dispatchable (at0 (br 0) []) 0 0 .sqBr = true ∧ brTaken (sqFunct (br 0)) 0 0 = true ∧
    dispatchable (at0 (br 2) []) 0 0 .sqBr = true ∧ brTaken (sqFunct (br 2)) 0 0 = false := by decide

theorem test_met_LoopIterates :
    (0 : Nat) + 1 < 2 ∧ (2 : Nat) ≤ 1 + 1 ∧ (3 : Nat) ≠ 4 + 1 := by decide

/-- The last word of the scalar region of 4 KiB is at offset 4,092. -/
theorem test_met_ScalarMemory :
    let ld : Nat := iw 6 5 (2 ^ 47 + 2 * 2 ^ 43 + 4092)
    let st : Nat := iw 6 6 (2 ^ 47 + 2 * 2 ^ 43 + 4092)
    dispatchable (at0 ld []) 0 0 .sqLdw = true ∧ scalarOk ((at0 ld []).core 0) 0 (sqReg ld) (imm32 ld) = true ∧
    ((at0 ld []).core 0).badPar.any (fun q => q / 4 == scalarAddr ((at0 ld []).core 0) 0 (sqReg ld) (imm32 ld) / 16) = false ∧
    dispatchable (at0 st []) 0 0 .sqStw = true ∧ scalarOk ((at0 st []).core 0) 0 (sqReg st) (imm32 st) = true ∧
    dispatchable (at0 (iw 6 7 0) []) 0 0 .sqEnd = true := by decide

/-- A load of a word with bad parity, and a load and a store one word past the end of the region. -/
theorem test_met_ScalarMemory_stops :
    let ld (o : Nat) : Nat := iw 6 5 (2 ^ 47 + 2 * 2 ^ 43 + o)
    let st : Nat := iw 6 6 (2 ^ 47 + 2 * 2 ^ 43 + 4096)
    let s : State := base.setCore 0 { seqCore (ld 0) [] with badPar := [scalarAddr (seqCore (ld 0) []) 0 (sqReg (ld 0)) 0 / 4] }
    dispatchable s 0 0 .sqLdw = true ∧ scalarOk (s.core 0) 0 (sqReg (ld 0)) (imm32 (ld 0)) = true ∧
    (s.core 0).badPar.any (fun q => q / 4 == scalarAddr (s.core 0) 0 (sqReg (ld 0)) (imm32 (ld 0)) / 16) = true ∧
    dispatchable (at0 (ld 4096) []) 0 0 .sqLdw = true ∧ dispatchable (at0 st []) 0 0 .sqStw = true ∧
    scalarOk ((at0 st []).core 0) 0 (sqReg st) (imm32 st) = false := by decide

/-- CF.REG of a streaming region and of a scalar region of 4 KiB; CF.WIN and CF.TASK of task 1, which does not run. -/
theorem test_met_ConfigInstructions :
    let rg : Nat := iw 7 1 (3 * 2 ^ 52 + 2 ^ 42 + 2 ^ 27 + 2 ^ 22)
    let sc : Nat := iw 7 1 (3 * 2 ^ 52 + 3 * 2 ^ 42)
    let wn : Nat := iw 7 2 (2 ^ 54 + 4 * 2 ^ 44)
    let tk : Nat := iw 7 3 (2 ^ 54)
    dispatchable (at0 rg []) 0 0 .cfReg = true ∧ cfProd rg ≠ 0 ∧
    dispatchable (at0 sc []) 0 0 .cfReg = true ∧ cfProd sc = 0 ∧ cfCons sc = 0 ∧
    regionInWin (((at0 sc []).core 0).setRegion 0 (cfG sc) (cfRegion sc)) 0 (cfRegion sc) = true ∧
    dispatchable (at0 wn []) 0 0 .cfWin = true ∧ dispatchable (at0 tk []) 0 0 .cfTask = true ∧
    (let far : Nat := iw 7 1 (3 * 2 ^ 52 + 8 * 2 ^ 32)
     dispatchable (at0 far []) 0 0 .cfReg = true ∧ cfProd far = 0 ∧ cfCons far = 0 ∧
     regionInWin (((at0 far []).core 0).setRegion 0 (cfG far) (cfRegion far)) 0 (cfRegion far) = false) := by decide

/-- CF.REG of a region that a queued VX.U COPY reads, and CF.WIN and CF.TASK of the running task 0. -/
theorem test_met_ConfigHolds :
    let rg : Nat := iw 7 1 (2 ^ 42 + 2 ^ 27 + 2 ^ 22)
    let s : State := base.setCore 0 (setQueue (seqCore rg []) .vx [queued (iw 2 3 (2 ^ 50 + 2 ^ 15)) 0])
    let held (w : Nat) (op : Op) : Bool := nextIs (at0 w []) 0 0 op && fetchIn ((at0 w []).core 0) 0 &&
      taskRuns (((at0 w []).core 0).task (cfW (wordAt (at0 w []) 0 0)))
    nextIs s 0 0 .cfReg = true ∧ fetchIn (s.core 0) 0 = true ∧ namesRegion (s.core 0) 0 (cfG (wordAt s 0 0)) = true ∧
    held (iw 7 2 0) .cfWin = true ∧ held (iw 7 3 0) .cfTask = true := by decide

/-! ### Conditions met: engine instructions -/

/-- One word of each engine operation dispatches into its empty queue. -/
theorem test_met_EngineDispatch :
    ([(iw 1 1 0, Op.mxMm), (iw 1 2 0, .mxCv), (iw 1 3 0, .mxDr), (iw 1 4 0, .mxFmt), (iw 2 1 0, .vxB), (iw 2 2 0, .vxT),
      (iw 2 3 0, .vxCvt), (iw 2 3 (1 * 2 ^ 50), .vxCopy), (iw 2 3 (2 * 2 ^ 50), .vxNeg), (iw 2 3 (3 * 2 ^ 50), .vxAbs),
      (iw 2 3 (4 * 2 ^ 50), .vxTrn), (iw 2 3 (16 * 2 ^ 50), .vxRsum), (iw 2 3 (17 * 2 ^ 50), .vxRmax),
      (iw 2 3 (18 * 2 ^ 50), .vxRsumsq), (iw 3 1 0, .fxFwd), (iw 3 2 0, .fxBwi), (iw 3 3 0, .fxBwo), (iw 4 1 0, .stIn),
      (iw 4 2 0, .stOut), (iw 4 3 0, .stWch), (iw 4 4 0, .stTil), (iw 5 1 0, .lnArm), (iw 5 2 0, .lnSig)]).all
      (fun x => dispatchable (at0 x.1 []) 0 0 x.2) = true := by decide

/-- Of 64 binary32 elements: a binary operation of region 0 with s0 into region 1, a ternary one with s0 twice, each unary one. -/
theorem test_met_VectorIssues :
    let u (f : Nat) : Nat := iw 2 3 (f * 2 ^ 50 + 2 ^ 15)
    ([(iw 2 1 (3 * 2 ^ 7 + 2 ^ 3), Op.vxB), (iw 2 2 (2 ^ 17 + 3 * 2 ^ 15 + 3 * 2 ^ 13), .vxT), (u 0, .vxCvt), (u 1, .vxCopy), (u 2, .vxNeg),
      (u 3, .vxAbs), (u 4, .vxTrn), (u 16, .vxRsum), (u 17, .vxRmax), (u 18, .vxRsumsq)]).all
      (fun x => canIssue (hd .vx x.1 0) 0 x.2) = true := by decide

/-- Function units with both tables of function 1 valid. -/
def fxState (w fwd drv : Nat) : State :=
  base.setCore 0 { (hd .fx w 0).core 0 with fx := { fwd := fwd, drv := drv } }

theorem test_met_FunctionIssues :
    ([(iw 3 1 (2 ^ 50 + 2 ^ 5), Op.fxFwd), (iw 3 2 (2 ^ 50 + 2 ^ 5), .fxBwi), (iw 3 3 (2 ^ 50 + 2 ^ 5), .fxBwo)]).all (fun x =>
      canIssue (fxState x.1 2 2) 0 x.2 && decide (fxMode ((fxState x.1 2 2).core 0).fx x.2 1 ≠ .notIssued) &&
      ((fxReads 1 (fxMode ((fxState x.1 2 2).core 0).fx x.2 1)).find? (fun k => ((fxState x.1 2 2).core 0).fx.bad.contains k)).isNone)
      = true := by decide

theorem test_met_FunctionUnavailable :
    ([(iw 3 1 (2 ^ 50 + 2 ^ 5), Op.fxFwd), (iw 3 2 (2 ^ 50 + 2 ^ 5), .fxBwi)]).all (fun x =>
      atHead (fxState x.1 0 0) 0 x.2 && decide (fxMode ((fxState x.1 0 0).core 0).fx x.2 1 = .notIssued)) = true := by decide

/-- An array instruction with its tile in the shadow registers. -/
def mxState (w f : Nat) : State :=
  base.setCore 0 { (hd .mx w f).core 0 with
    shadow := some { seq := 0, tile := [], scales := [] }, wbuf := { validS := 3 } }
/-- The same before its tile load. -/
def mxLoad (w f : Nat) : State := base.setCore 0 { (hd .mx w f).core 0 with wbuf := { validS := 3 } }

theorem test_met_ArrayIssues :
    canIssue (mxState (iw 1 1 (2 ^ 6)) (2 ^ 52 + 2 ^ 48)) 0 .mxMm = true ∧ shadowReady (mxState (iw 1 1 (2 ^ 6)) (2 ^ 52 + 2 ^ 48)) 0 .mxMm = true ∧
    canIssue (mxState (iw 1 2 (2 ^ 6)) (2 ^ 52 + 2 ^ 48)) 0 .mxCv = true ∧ shadowReady (mxState (iw 1 2 (2 ^ 6)) (2 ^ 52 + 2 ^ 48)) 0 .mxCv = true ∧
    canIssue (hd .mx (iw 1 3 1) 0) 0 .mxDr = true ∧ atHead (hd .mx (iw 1 4 0) 0) 0 .mxFmt = true := by decide

theorem test_met_ArrayIssues_tile :
    let w : Nat := iw 1 1 (2 ^ 6)
    let f : Nat := 2 ^ 52 + 2 ^ 48
    let c := (mxLoad w f).core 0
    c.cmd.isSome = true ∧ c.q.mx = [queued w f] ∧ opOf w = some .mxMm ∧ c.shadow = none ∧ tileValid c w f = true ∧ writePending c (queued w f) = false ∧
    (tileSlots w f).find? (fun i => c.wbuf.bad.contains (2 * i + b2n (mxOrder w))) = none := by decide

/-- The pass of one token and one column writes entry 0 and leaves every other. -/
theorem test_met_PassEntries :
    (0 : Nat) < mxM 0 ∧ 0 < mxN 0 ∧ (∀ t j, t < mxM 0 → j < mxN 0 → (5 : Nat) ≠ 128 * t + j) := by
  refine ⟨by decide, by decide, fun t j h1 h2 => ?_⟩
  have a : mxM 0 = 1 := by decide
  have b : mxN 0 = 1 := by decide
  omega

/-- A binary operation on an empty region waits for operands; one whose result region is full waits for room. -/
theorem test_met_WaitsCount :
    let s : State := hd .vx (iw 2 1 (2 ^ 29 + 3 * 2 ^ 7)) 0
    let t : State := hd .vx (iw 2 1 (3 * 2 ^ 7)) 0
    let q (s : State) := headOf s 0 .vxB
    atHead s 0 .vxB = true ∧ badRegion (s.core 0) .vxB (q s) = none ∧ operandsReady (s.core 0) .vxB (q s) = false ∧
    atHead t 0 .vxB = true ∧ badRegion (t.core 0) .vxB (q t) = none ∧ operandsReady (t.core 0) .vxB (q t) = true ∧
    resultsFree (t.core 0) .vxB (q t) = false := by decide

/-- A binary operation that names an undefined region, and one whose operands have bad parity. -/
theorem test_met_WaitsCount_stops :
    let s : State := hd .vx (iw 2 1 (7 * 2 ^ 29)) 0
    let c := (hd .vx (iw 2 1 (3 * 2 ^ 7 + 2 ^ 3)) 0).core 0
    let t : State := base.setCore 0 { c with badPar := [1024] }
    atHead s 0 .vxB = true ∧ (badRegion (s.core 0) .vxB (headOf s 0 .vxB)).isSome = true ∧
    atHead t 0 .vxB = true ∧ badRegion (t.core 0) .vxB (headOf t 0 .vxB) = none ∧
    operandsReady (t.core 0) .vxB (headOf t 0 .vxB) = true ∧ resultsFree (t.core 0) .vxB (headOf t 0 .vxB) = true ∧
    operandBad (t.core 0) .vxB (headOf t 0 .vxB) = some 256 := by decide

/-- A matrix pass with no tile in the shadow registers, one that drains into a full region, and one whose operand has bad parity; a drain
into a full region. -/
theorem test_met_WaitsCount_array :
    let f : Nat := 2 ^ 52 + 2 ^ 48
    let s : State := hd .mx (iw 1 1 (2 ^ 6)) f
    let t : State := mxState (iw 1 1 (2 ^ 6 + 2 ^ 5)) f
    let u : State := base.setCore 0 { (mxState (iw 1 1 (2 ^ 6)) f).core 0 with badPar := [1024] }
    let d : State := hd .mx (iw 1 3 (2 ^ 6)) 0
    atHead s 0 .mxMm = true ∧ badRegion (s.core 0) .mxMm (headOf s 0 .mxMm) = none ∧ shadowReady s 0 .mxMm = false ∧
    atHead t 0 .mxMm = true ∧ badRegion (t.core 0) .mxMm (headOf t 0 .mxMm) = none ∧
    operandsReady (t.core 0) .mxMm (headOf t 0 .mxMm) = true ∧ shadowReady t 0 .mxMm = true ∧
    resultsFree (t.core 0) .mxMm (headOf t 0 .mxMm) = false ∧
    atHead u 0 .mxMm = true ∧ badRegion (u.core 0) .mxMm (headOf u 0 .mxMm) = none ∧ shadowReady u 0 .mxMm = true ∧
    operandsReady (u.core 0) .mxMm (headOf u 0 .mxMm) = true ∧ resultsFree (u.core 0) .mxMm (headOf u 0 .mxMm) = true ∧
    operandBad (u.core 0) .mxMm (headOf u 0 .mxMm) = some 256 ∧
    atHead d 0 .mxDr = true ∧ badRegion (d.core 0) .mxDr (headOf d 0 .mxDr) = none ∧
    resultsFree (d.core 0) .mxDr (headOf d 0 .mxDr) = false := by decide

/-! ### Conditions met: streams -/

/-- A stream slot 0 of core 0: operation, instruction word, kind and length of its descriptor, and what else it holds. -/
def stream (op : Op) (w kind len : Nat) (f : Slot → Slot) : State :=
  let d := [kind * 2 ^ 60, 0, (len - 1) * 2 ^ 32, 0, 0, 0, 0, 0]
  base.setCore 0 ((seqCore 0 []).setSlot 0 (f { active := true, op := op, word := w, desc := d }))

theorem test_met_StreamIssues :
    ([(iw 4 1 (2 ^ 40), Op.stIn), (iw 4 2 0, .stOut), (iw 4 3 0, .stWch)]).all (fun x =>
      atHead (hd .st x.1 0) 0 x.2 && (badRegion ((hd .st x.1 0).core 0) x.2 (headOf (hd .st x.1 0) 0 x.2)).isNone &&
      !(((hd .st x.1 0).core 0).slot 7).active) = true := by decide

/-- ST.TIL of a 16 KiB tile from a full region of 16 KiB. -/
def tilState : State :=
  base.setCore 0 { (hd .st (iw 4 4 0) 0).core 0 with
    wins := [(0, { valid := true, sizeM1 := 7 })]
    tasks := [(0, { run := true, regions := [(0, { full with sizeM1 := 3, occ := 1024 })] })] }

theorem test_met_StreamIssues_tile :
    canIssue tilState 0 .stTil = true ∧ tileWanted (tilState.core 0) (headOf tilState 0 .stTil).seq (tilSlots (headOf tilState 0 .stTil).word) = false ∧
    tilWide (headOf tilState 0 .stTil).word = false := by decide

/-- All eight slots active. -/
theorem test_met_StreamIssues_full :
    let c := (hd .st (iw 4 1 (2 ^ 40)) 0).core 0
    let s : State := base.setCore 0 { c with slots := [0, 1, 2, 3, 4, 5, 6, 7].map (fun k => (k, ({ active := true } : Slot))) }
    atHead s 0 .stIn = true ∧ badRegion (s.core 0) .stIn (headOf s 0 .stIn) = none ∧
    (List.range 8).all (fun k => ((s.core 0).slot k).active) = true := by decide

/-- An ST.OUT of kind 2 whose region covers its chunk, and an ST.IN of kind 2 whose region has room. -/
theorem test_met_ChunksBegin :
    let s := stream .stOut (iw 4 2 0) 2 4096 id
    let t := stream .stIn (iw 4 1 (2 ^ 40)) 2 4096 id
    let x := (s.core 0).slot 0
    let y := (t.core 0).slot 0
    (s.core 0).cmd.isSome = true ∧ x.active = true ∧ x.begun < slotLen x ∧ x.op = .stOut ∧ openOut x < 4 ∧
    outCovered x ((s.core 0).region x.task (stReg x.word)) (nextChunk x) = true ∧
    (t.core 0).cmd.isSome = true ∧ y.active = true ∧ y.begun < slotLen y ∧ y.op = .stIn ∧ openIn y < 4 ∧
    canReserve ((t.core 0).region y.task (stReg y.word)) y.seq (wordsOf (nextChunk y)) = true ∧ slotKind y ≠ 5 := by decide

/-- The receiver of a channel, whose region has room. -/
theorem test_met_ChunksBegin_channel :
    let c := (stream .stIn (iw 4 1 (2 ^ 40)) 5 4096 id).core 0
    let y := c.slot 0
    c.cmd.isSome = true ∧ y.active = true ∧ y.begun < slotLen y ∧ y.op = .stIn ∧ openIn y < 4 ∧
    canReserve (c.region y.task (stReg y.word)) y.seq (wordsOf (nextChunk y)) = true ∧ slotKind y = 5 := by decide

/-- An ST.IN of a kind, its region defined in its window. -/
def inflow (kind : Nat) : State := stream .stIn (iw 4 1 (2 ^ 40)) kind 4096 (fun x => { x with fly := [(64, 1024)] })

theorem test_met_ReturnedData :
    let x (k : Nat) : Slot := ((inflow k).core 0).slot 0
    (base.core 0).cmd = none ∧ slotKind (x 4) = 4 ∧ ((inflow 2).core 0).cmd.isSome = true ∧ (x 2).active = true ∧ (x 2).op = .stIn ∧
    streamIn ((inflow 2).core 0) (x 2) = true ∧ slotKind (x 1) = 1 ∧ slotKind (x 2) = 2 ∧ slotKind (x 3) = 3 ∧
    poolBadAt (inflow 3) 0 1024 16 = false ∧
    poolBadAt { inflow 3 with mems := { (inflow 3).mems with poolBad := [(0, [259])] } } 0 1024 16 = true := by decide

/-- 16 bytes of the stack whose codeword is poisoned, and 16 whose codeword is not. -/
theorem test_met_ReturnedData_stack :
    let s := inflow 1
    let b : State := { s with mems := { s.mems with stk := { s.mems.stk with poisoned := [16] } } }
    (readStackAt b 0 0 1024 16 true).1 = true ∧ (readStackAt s 0 0 1024 16 true).1 = false ∧
    (readStackAt s 0 0 1024 16 true).2.2.core 0 = s.core 0 := by
  refine ⟨by decide, by decide, rfl⟩

/-- The first chunk of two, and the only chunk of one. -/
theorem test_met_ChunkVisibility :
    let f (x : Slot) : Slot := { x with begun := 4096, run := 4096 }
    ([8192, 4096]).all (fun len =>
      let c := (stream .stIn (iw 4 1 (2 ^ 40)) 2 len f).core 0
      let x := c.slot 0
      let e := min (x.vis + slotChunk x) (slotLen x)
      c.cmd.isSome && x.active && decide (x.op = .stIn) && decide (e ≤ x.begun) && decide (x.vis < slotLen x) &&
      decide (e ≤ movedBytes c x) && !dChunkEn x.desc && !dDoneEn x.desc && decide ((e ≠ slotLen x) = (len = 8192))) = true := by decide

/-- A module whose partition maps one writable 64 KiB host page, or a read-only one, at address 0; the walker runs the walk of slot 0. -/
def mapped (w : Nat) (s : State) : State := s.setXlate 0 { host := [(0, 2 ^ 63 + w * 2 ^ 62)], walks := [(0, 0)] }

theorem test_met_PageFaults :
    let x (op : Op) : State := stream op 0 2 4096 (fun x => { x with walking := true })
    let h : State := stream .stIn 0 2 4096 (fun x => { x with halted := true })
    let y := ((x .stIn).core 0).slot 0
    y.walking = true ∧ y.walkVa = 0 ∧ slotHost y = true ∧ cmdPart (cmdOf (x .stIn) 0) = 0 ∧
    walkRuns (mapped 0 (x .stIn)) 0 0 0 = true ∧ (walkPage (mapped 0 (x .stIn)) 0 true 0).isSome = true ∧
    walkRuns ((x .stIn).setXlate 0 { walks := [(0, 0)] }) 0 0 0 = true ∧ walkPage (x .stIn) 0 true 0 = none ∧
    (walkPage (mapped 0 (x .stOut)) 0 true 0).map TEntry.w = some false ∧
    (walkPage (mapped 1 (x .stOut)) 0 true 0).map TEntry.w = some true ∧
    seesCore h (.vf 0 1) 0 = true ∧ ((h.core 0).slot 0).halted = true := by decide

/-- Context 0 of partition 0 open with one command. -/
def withCmd (m : Cmd) (s : State) : State := s.setCtx 0 { state := .open, vf := 1, q := { cmds := [m] } }

theorem test_met_HaltedLimit :
    let s := (withCmd { haltNs := 1000000000 } base).setSched 0 { run := some { key := 0, cmd := 0, kind := .run, plan := 0, all := [], cores := [] } }
    (s.sched 0).run = some { key := 0, cmd := 0, kind := .run, plan := 0, all := [], cores := [] } ∧
    (s.ctx 0).q.cmds.find? (fun m => m.id == 0) = some { haltNs := 1000000000 } ∧
    1000000000 ≤ ({ haltNs := 1000000000 } : Cmd).haltNs := by decide

/-- A slot with PF_DEPTH 1 KiB and one piece left of its sequence, its page held in the translation cache. -/
def fetchAhead : State :=
  let s := stream .stIn (iw 4 1 (2 ^ 40)) 2 16 (fun x => { x with desc := [2 * 2 ^ 60 + 2 ^ 52, 0, 15 * 2 ^ 32, 0, 0, 0, 0, 0] })
  s.setCore 0 { s.core 0 with tcache := [{ host := true, va := 0, size := 65536, tgt := 0, w := false }] }

theorem test_met_Prefetching :
    let x := (fetchAhead.core 0).slot 0
    (fetchAhead.core 0).cmd.isSome = true ∧ x.active = true ∧ x.op = .stIn ∧ x.halted = false ∧ slotKind x = 2 ∧
    prefetchPieces fetchAhead (cmdPart (cmdOf fetchAhead 0)) 0 x (max x.pfAt x.begun) 4 = [(0, 0)] := by decide

/-- Stack and pool pieces: a slot of each kind, and stack bytes that are not poisoned. -/
theorem test_met_Prefetching_stack :
    slotKind (((inflow 1).core 0).slot 0) = 1 ∧ slotKind (((inflow 3).core 0).slot 0) = 3 ∧
    (readStackAt (inflow 1) 0 0 1024 16 true).1 = false ∧ (readStackAt (inflow 1) 0 0 1024 16 true).2.2.core 0 = (inflow 1).core 0 := by
  refine ⟨by decide, by decide, by decide, rfl⟩

/-- A delivery of one 16 KiB tile to the core that heads its sub-chain; 512 bytes wait in the landing buffer. -/
def delivery (f : Slot → Slot) (c : Core → Core) : State :=
  let s := stream .stWch (iw 4 3 0) 7 16384 f
  s.setCore 0 (c (s.core 0))

set_option maxRecDepth 4000 in
theorem test_met_WeightChain_flit :
    let s := delivery (fun x => { x with chain := List.replicate 512 1 }) id
    let x := (s.core 0).slot 0
    (s.core 0).cmd.isSome = true ∧ x.active = true ∧ x.op = .stWch ∧
    chainHeld s 0 x.seq (keepers s 0 x.desc (x.run / wchRecBytes x.desc)) [flitSlot x.desc (x.run / wchRecBytes x.desc) (x.run % wchRecBytes x.desc)] = false ∧
    512 ≤ x.chain.length := by decide

/-- The keeping core has an array instruction queued for the slot, whose tile stands there; no page keeps the head waiting. -/
theorem test_met_WeightChain_held :
    let s := delivery id (fun c => { c with q := { mx := [queued (iw 1 1 0) (3 * 2 ^ 52 + 3 * 2 ^ 48)] }, wbuf := { validS := 1 } })
    let x := (s.core 0).slot 0
    chainHeld s 0 x.seq (keepers s 0 x.desc (x.run / wchRecBytes x.desc)) [flitSlot x.desc (x.run / wchRecBytes x.desc) (x.run % wchRecBytes x.desc)] = true ∧
    x.halted = false ∧ x.walking = false ∧ pendingPage s (cmdPart (cmdOf s 0)) (slotAddr x x.issued) = false := by decide

/-- The last 16 bytes of the delivery are still to be read, from a page that the translation cache holds, from one that it does not, and
with the landing buffer's share full. -/
theorem test_met_WeightChain_read :
    let f (x : Slot) : Slot := { x with issued := 16368 }
    let s := delivery f (fun c => { c with tcache := [{ host := false, va := 0, size := 2097152, tgt := 0, w := false }] })
    let x := (s.core 0).slot 0
    x.halted = false ∧ x.walking = false ∧ slotLen x = x.issued + 16 ∧ reqLen x x.issued (slotLen x) = 16 ∧
    landUsed (s.core 0) + 16 ≤ landShare s 0 ∧
    target s (cmdPart (cmdOf s 0)) 0 7 (slotAddr x x.issued) 16 false = .ok 16368 ∧ (readStackAt s 0 0 16368 16 true).1 = false ∧
    target (delivery f id) 0 0 7 (slotAddr x x.issued) 16 false = .walk 16368 := by decide

/-- Poisoned bytes: of a prefetch, and of the weight chain's last read. -/
theorem test_met_poisoned_reads :
    let bad (s : State) (cw : Nat) : State := { s with mems := { s.mems with stk := { s.mems.stk with poisoned := [cw] } } }
    let s := delivery (fun x => { x with issued := 16368 }) (fun c => { c with
      tcache := [{ host := false, va := 0, size := 2097152, tgt := 0, w := false }] })
    let x := (s.core 0).slot 0
    (readStackAt (bad (inflow 1) 16) 0 0 1024 16 true).1 = true ∧
    (readStackAt (bad (inflow 1) 16) 0 0 1024 16 true).2.2.core 0 = (bad (inflow 1) 16).core 0 ∧
    target (bad s 255) (cmdPart (cmdOf s 0)) 0 7 (slotAddr x x.issued) 16 false = .ok 16368 ∧
    (readStackAt (bad s 255) 0 0 16368 16 true).1 = true := by
  refine ⟨by decide, rfl, by decide, by decide⟩

/-- What the landing buffer holds is the chain's length, whatever the chain. -/
theorem test_met_WeightChain_full (l : Bytes) :
    landUsed ((delivery (fun x => { x with chain := l }) id).core 0) = l.length ∧
      landShare (delivery (fun x => { x with chain := l }) id) 0 = landShare base 0 := by
  exact ⟨Nat.zero_add _, rfl⟩

/-! ### Conditions met: lanterns, translation, stack memory -/

/-- Lantern 0 of context 0 at physical entry 5. -/
def lan (f : Lantern → Lantern) (s : State) : State := s.setLnt 5 (f { alloc := true, target := 2 })

theorem test_met_LanternOperations :
    let e := (lan id base).lnt 5
    let m := (lan (fun e => { e with scope := 4 }) base).lnt 5
    (2 ^ 32 : Nat) % 2 ^ 32 = 0 ∧ (1 : Nat) % 2 ^ 32 ≠ 0 ∧ atHome e = true ∧ e.queue = [] ∧ e.held = [] ∧ e.scope ≠ 4 ∧ atHome m = false := by decide

/-- LN.ARM and LN.SIG of lantern 0 at the head of the queue; LN.WAIT; LN.WTC of 1 at count 1. -/
theorem test_met_LanternInstructions :
    let a := lan id (hd .ln (iw 5 1 1) 0)
    let g := lan id (hd .ln (iw 5 2 1) 0)
    let w := lan id (at0 (iw 5 3 1) [])
    let c := lan (fun e => { e with count := 1 }) (at0 (iw 5 4 1) [])
    atHead a 0 .lnArm = true ∧ findLnt a 0 (lnLnt (iw 5 1 1)) = some 5 ∧ (a.lnt 5).ctx = 0 ∧ priorDone (a.core 0) 0 0 = true ∧
    atHead g 0 .lnSig = true ∧ findLnt g 0 (lnLnt (iw 5 2 1)) = some 5 ∧ priorDone (g.core 0) 0 0 = true ∧
    dispatchable w 0 0 .lnWait = true ∧ findLnt w (cmdPart (cmdOf w 0)) (lnLnt (wordAt w 0 0)) = some 5 ∧
    dispatchable c 0 0 .lnWtc = true ∧ findLnt c (cmdPart (cmdOf c 0)) (lnLnt (wordAt c 0 0)) = some 5 ∧
    (c.lnt 5).scope ≠ 4 ∧ (c.lnt 5).queue = [] ∧ (c.lnt 5).held = [] ∧ lnValue (wordAt c 0 0) 0 = 1 ∧ reachedBy (c.lnt 5) 1 = true := by decide

theorem test_met_LanternNotifications : ((at0 0 []).core 0).cmd.isSome = true := by decide

/-- A job of two ranks at positions 0 and 1, of which this module is rank `r`; port 0 is up. -/
def inJob (r : Nat) (s : State) : State :=
  (s.setJob 0 { valid := true, rank := r, mem := { ranks := [0x8000, 0x8001] } }).setTport 0 { state := 4 }
/-- A packet from position 1. -/
def pk (ty chan : Nat) (body : Bytes) : Packet := { ty := ty, src := 1, chan := chan, body := body }

/-- A mirror with signals to send, a root, a mirror that a message reaches, a free number, and an entry that is not of job scope. -/
theorem test_met_JobLanterns :
    let m := lan (fun e => { e with scope := 4, unsent := 3 }) (inJob 1 base)
    let r := lan (fun e => { e with scope := 4, root := true }) (inJob 0 base)
    let o := lan id (inJob 0 base)
    let u (s : State) : State := (acceptPkt s 0 (pk 4 0 [])).2
    let here (s : State) : Bool := (acceptPkt s 0 (pk 4 0 [])).1 == some 0 && findLnt (u s) 0 0 == some 5 && decide (((u s).lnt 5).ctx = ((u s).job 0).ctx)
    (m.lnt 5).alloc = true ∧ (m.lnt 5).scope = 4 ∧ (m.lnt 5).root = false ∧ (m.lnt 5).unsent ≠ 0 ∧
    jobParent (m.job (m.lnt 5).part) = some 0 ∧ (r.lnt 5).alloc = true ∧ (r.lnt 5).scope = 4 ∧ (r.lnt 5).root = true ∧
    here r = true ∧ ((u r).lnt 5).scope = 4 ∧ ((u r).lnt 5).root = true ∧ newerGen ((u r).lnt 5).armGen 0 = false ∧
    newerGen ((u r).lnt 5).armGen 255 = true ∧
    here m = true ∧ ((u m).lnt 5).scope = 4 ∧ ((u m).lnt 5).root = false ∧ newerGen 1 ((u m).lnt 5).armGen = true ∧
    (2147483647 + 2 ^ 32 - ((u m).lnt 5).count) % 2 ^ 32 < 2 ^ 31 ∧ (256 : Nat) % 256 = ((u m).lnt 5).armGen ∧
    findLnt (u m) 0 9 = none ∧ here o = true ∧ ((u o).lnt 5).scope ≠ 4 := by decide

theorem test_met_HostSignals :
    let h := lan (fun e => { e with hostSig := true }) base
    partOfVf base 0 4 = some 0 ∧ findLnt h 0 0 = some 5 ∧ (h.lnt 5).hostSig = true ∧ ((lan id base).lnt 5).hostSig = false ∧
    findLnt base 0 0 = none ∧ bit (hostMask base.var) 3 = true ∧ lntPresent base.var 16383 = true := by decide

/-- Map registers of partition 0: an address, an entry, and what is mapped. -/
def maps (va ent : Nat) (h t : Tbl Nat) : State := base.setXlate 0 { mapVa := va, mapEnt := ent, host := h, stack := t }

/-- A good host page, a good stack page in the last frame, an entry without V, pages to unmap, and none to unmap. -/
theorem test_met_MapRegisters :
    let r (s : State) (h : Bool) : Nat := mapResult (s.xlate 0) h (s.entry 0).frameCount (s.entry 0).tsQuota
    partOfFn base (.vf 0 1) = some 0 ∧ ({ busy := true } : Xlate).busy = true ∧ ((maps 0 0 [] []).xlate 0).busy = false ∧
    r (maps 0 (2 ^ 63) [] []) true = 0 ∧
    r (maps 0 (2 ^ 63 + 999) [] []) false = 0 ∧ r (maps 0 (2 ^ 63 + 1000) [] []) false ≠ 0 ∧ r (maps 0 0 [] []) true ≠ 0 ∧
    Tbl.find ((maps 0 0 [(0, 2 ^ 63)] []).xlate 0).host 0 = some (2 ^ 63) ∧ Tbl.find ((maps 0 0 [] [(0, 2 ^ 63)]).xlate 0).stack 0 = some (2 ^ 63) ∧
    Tbl.find (pageTab ((maps 0 0 [] []).xlate 0) true) 0 = none := by decide

/-- A removed host page with nothing in flight through it, and one that an ST.OUT of host kind writes through. -/
theorem test_met_MapRegisters_unmap :
    let un (s : State) : State := s.setXlate 0 { busy := true, unmap := some (true, 0, 65536) }
    let f (s : State) : Bool := (logicalCores s 0).any (fun c => (s.core c).slots.any (fun y => slotFlies (s.core c) y.2 true 0 65536))
    ((un base).xlate 0).unmap = some (true, 0, 65536) ∧ f (un base) = false ∧
    f (un (stream .stOut (iw 4 2 0) 2 4096 (fun x => { x with begun := 4096, issued := 64 }))) = true := by decide

/-- Stack 0 clean, and with a damaged codeword. -/
theorem test_met_PatrolScrubs :
    let d : State := base.setStk { damaged := [0] }
    bit (stackMask base.var) 0 = true ∧ bit (stackMask base.var) 11 = true ∧
    (base.mems.stk.damaged ++ base.mems.stk.soft).filter (fun cw => ctlOfSpa base.var (64 * cw) == 0) = [] ∧
    ctlOfSpa d.var (64 * 0) = 0 ∧ 0 ∈ d.mems.stk.damaged := by decide

/-- A gather of one row of 64 bytes whose index has been read, and the translation cache given. -/
def gathering (tc : List TEntry) : State :=
  let d := [4 * 2 ^ 60 + 2 ^ 57, 0, 63 * 2 ^ 32, 4, 0, 0, 0, 0]
  let s := stream .stIn (iw 4 1 (2 ^ 40)) 4 64 (fun x => { x with desc := d, begun := 64, rows := [(0, 0)] })
  s.setCore 0 { s.core 0 with tcache := tc }
/-- The stack page at 0, held. -/
def page0 : TEntry := { host := false, va := 0, size := 2097152, tgt := 0, w := false }
/-- A sorter entry of granule 0. -/
def ent (out : Bool) (reqs : List (Nat × Nat × Nat)) : SortEnt := { part := 0, granule := 0, reqs := reqs, promoted := false, out := out }

/-- The page held, not held, and pending. -/
theorem test_met_GatherSorter :
    let g := gathering [page0]
    let x := (g.core 0).slot 0
    (g.core 0).cmd.isSome = true ∧ nextGather x = some { off := 0, va := 0, len := 64 } ∧ x.active = true ∧ x.halted = false ∧
    x.walking = false ∧ slotKind x = 4 ∧ idxAsked g 0 (reqTag x 0) 0 = false ∧
    target g (cmdPart (cmdOf g 0)) 0 4 0 64 false = .ok 0 ∧ target (gathering []) 0 0 4 0 64 false = .walk 0 ∧
    target (g.setUpd 0 { pend := [0] }) 0 0 4 0 64 false = .hold ∧
    (sorterPut g (ctlOfSpa g.var 0) 0 0 (0, reqTag x 0, 0)).isSome = true := by decide

/-- A waiting entry of the granule; room in the sorter, and none for a partition with no bed. -/
theorem test_met_GatherSorter_entry :
    let c : StackCtl := { sorter := [ent false []] }
    c.sorter.any (fun e => e.part == 0 && e.granule == 0 && !e.out) = true ∧
    ((base.stkCtl 0).sorter.any (fun e => e.part == 0 && e.granule == 0 && !e.out)) = false ∧ (base.stkCtl 0).sorter.length < 4096 ∧
    ((base.stkCtl 0).sorter.filter (fun e => e.part == 0)).length < 256 * bedCount base 0 ∧
    256 * bedCount base 1 ≤ ((base.stkCtl 0).sorter.filter (fun e => e.part == 1)).length ∧
    sorterPut base 0 1 0 (0, 0, 0) = none := by
  refine ⟨by decide, by decide, by decide, by decide, by decide, by rfl⟩

/-- One waiting entry, whatever bank the silicon gives its granule, and the bank pointer there; none waiting. -/
theorem test_met_GatherSorter_issue :
    let e := ent false []
    let b := Config.bankOf 0 % 1024
    let c : StackCtl := { sorter := [e], bankPtr := b }
    (c.sorter.filter (fun e => e.out)).length < 1024 ∧ bankReady c b = true ∧
    ((upto 1024).map (fun i => (c.bankPtr + i) % 1024)).find? (bankReady c) = some b ∧ bankPick c b = some e ∧
    ((upto 1024).map (fun i => (0 + i) % 1024)).find? (bankReady {}) = none ∧
    c.sorter[0]? = some e ∧ e.out = false ∧ e.promoted = false := by
  have hb : bankReady { sorter := [ent false []], bankPtr := Config.bankOf 0 % 1024 } (Config.bankOf 0 % 1024) = true := by
    simp [bankReady, bankHot, bankOut, bankOfEnt, ent]
  have h : upto 1024 = 0 :: (upto 1024).tail := by decide +kernel
  refine ⟨by decide, hb, ?_, by simp [bankPick, bankOfEnt, ent, Tbl.find], ?_, rfl, rfl, rfl⟩
  · rw [h]
    simp [hb]
  · simp [bankReady]

/-- An issued entry with the request that its data return for. -/
theorem test_met_GatherSorter_return :
    let s := base.setStkCtl 0 { sorter := [ent true [(0, 0, 64)]] }
    let mine (e : SortEnt) : Bool := e.out && e.reqs.any (fun r => r.1 == 0 && r.2.1 % 8 == 0 && r.2.2 == 64)
    (s.units.stkCtl.find? (fun c => c.2.sorter.any mine)).map Prod.fst = some 0 ∧ (s.stkCtl 0).sorter.find? mine = some (ent true [(0, 0, 64)]) ∧
    (base.units.stkCtl.find? (fun c => c.2.sorter.any mine)) = none := by decide

/-! ### Conditions met: contexts, queues and commands -/

/-- Context 0 of partition 0. -/
def cx (c : Ctx) : State := base.setCtx 0 c
/-- Both queues configured: QF1 of 64 slots, 16 completion records. -/
def q1 : Queue := { sqFmt := 1, sqLog2 := 6, cqLog2 := 4 }
/-- An open context of VF 1. -/
def opened (f : Ctx → Ctx) : State := cx (f { state := .open, vf := 1, q := q1 })
/-- The same with one command and perhaps an image. -/
def ready (m : Cmd) (i : Option Image) (s : State) : State :=
  s.setCtx 0 { state := .open, vf := 1, q := { q1 with cmds := [m] }, image := i }

theorem test_met_ContextStates :
    let o := opened id
    let st := opened (fun c => { c with state := .stopped })
    let td := opened (fun c => { c with state := .tearingDown, td := some { status := 0x0A, fault := false } })
    ctxExists base 63 = true ∧ ctxExists base 64 = false ∧ vfOfPart base (.vf 0 1) 0 = true ∧ (cx { q := q1 }).ctx 0 = { q := q1 } ∧
    sqOk q1 = true ∧ cqOk q1 = true ∧ owns st (.vf 0 1) 0 = true ∧ (st.ctx 0).state = .stopped ∧
    owns o (.vf 0 1) 0 = true ∧ (o.ctx 0).state = .open ∧ mgmtOfPart o (.mgmt 0) 0 = true ∧ (o.ctx 0).q.cmds = [] ∧
    unfetched (o.ctx 0).q = 0 ∧ (td.ctx 0).td = some { status := 0x0A, fault := false } ∧ (td.ctx 0).state = .tearingDown ∧
    ((td.upd (keyPart 0)).cmd.map Prod.fst == some 0) = false ∧ slotSwitching base (keyPart 0) = false ∧ storeFull base = false ∧
    base.gth.store.length < 4096 := by decide

/-- Slots that a layout switch under way changes. -/
def switching (l : List Nat) (s : State) : State :=
  { s with lay := { s.lay with switch := some { port := 0, cmd := some 0, layout := {}, counter := 1, changed := l } } }

theorem test_met_ContextStates_switch :
    let td := opened (fun c => { c with state := .tearingDown, td := some { status := 0x0A, fault := false, reset := true } })
    slotSwitching (switching [0] base) (keyPart 0) = true ∧ slotSwitching (switching [1] base) (keyPart 0) = false ∧
    (td.ctx 0).td = some { status := 0x0A, fault := false, reset := true } ∧ (td.ctx 0).state = .tearingDown ∧ (td.ctx 0).q.cmds = [] := by
  decide

/-- With 3,072 unreserved records waiting the store is full. -/
theorem test_met_ContextStates_full :
    storeFull { base with gth := { base.gth with store := List.replicate 3072 {} } } = true := by decide +kernel

/-- UNLOAD as a QF1 descriptor. -/
def unloadDesc : Bytes := [0, 0, 2, 0] ++ List.replicate 60 0

theorem test_met_Queues :
    let o := opened (fun c => { c with q := { c.q with sub := 1 } })
    let r := opened (fun c => { c with q := { c.q with tail := 2 } })
    let full := opened (fun c => { c with q := { c.q with cmds := List.replicate 15 {} } })
    let w := (ready { runNs := 100000000 } none base).setSched 0 { run := some { key := 0, cmd := 0, kind := .run, plan := 0, all := [], cores := [] } }
    mayRing o (.vf 0 1) (.ctx 0 0) = true ∧ (o.ctx 0).state = .open ∧ o.boot.warming = false ∧ sqOk (o.ctx 0).q = true ∧ (63 : Nat) % 2 ^ 32 < 2 ^ (o.ctx 0).q.sqLog2 ∧
    mayRing r (.vf 0 1) (.ctx 0 0) = true ∧
    (2 : Nat) % 2 ^ 32 < cqSize (r.ctx 0).q ∧ (2 % 2 ^ 32 + cqSize (r.ctx 0).q - (r.ctx 0).q.head) % cqSize (r.ctx 0).q ≤ cqUnread (r.ctx 0).q ∧
    unfetched (o.ctx 0).q ≠ 0 ∧ (o.ctx 0).q.cmds.length < cqFree (o.ctx 0).q ∧ (o.ctx 0).cut = [] ∧ (o.ctx 0).td = none ∧
    nextDesc (o.ctx 0).q 0 = some 0 ∧ tdiOf o (o.entry (keyPart 0)).port (o.ctx 0).vf ≠ .error ∧ descFails (o.ctx 0) unloadDesc = none ∧
    (descFails (o.ctx 0) []).isSome = true ∧
    cqFree (full.ctx 0).q ≤ (full.ctx 0).q.cmds.length ∧ mayWriteCtx o (.vf 0 1) 0 = true ∧
    (w.ctx 0).q.cmds.find? (fun m => m.id == 0) = some { runNs := 100000000 } := by decide

/-- LAYOUT_SWITCH as a QF1 descriptor submitted to the management queue of port 0. -/
theorem test_met_Queues_mgmt :
    let s := base.setMq 0 { q1 with sub := 1 }
    bit (hostMask s.var) 0 = true ∧ sqOk (s.mq 0) = true ∧ cqOk (s.mq 0) = true ∧ unfetched (s.mq 0) ≠ 0 ∧
    (s.mq 0).cmds.length < cqFree (s.mq 0) ∧ s.shut = false ∧ s.boot.warming = false ∧ nextDesc (s.mq 0) 0 = some 0 ∧
    descOk (s.mq 0).sqFmt false true (unloadDesc.set 2 0x80) = true := by decide

theorem test_met_Completions :
    let c (td : Option Teardown) : Ctx := { state := .tearingDown, vf := 1, q := { q1 with cmds := [{}] }, td := td }
    let t : Teardown := { status := 0, fault := false, reset := true }
    ((ready {} none base).ctx 0).q.cmds.find? (fun m => m.id == 0) = some {} ∧
    (((ready {} none base).ctx 0).td.any Teardown.reset || base.boot.warming) = false ∧
    ((cx (c (some t))).ctx 0).q.cmds.find? (fun m => m.id == 0) = some {} ∧ ((cx (c (some t))).ctx 0).td.any Teardown.reset = true := by decide

/-- A command of an opcode with its arguments. -/
def cmdOp (op a0 a1 a2 : Nat) : Cmd := { desc := { opcode := op, arg0 := a0, arg1 := a1, arg2 := a2 } }
/-- Partition 0 with its first 64 KiB of host addresses mapped. -/
def mapped0 (s : State) : State := s.setXlate 0 { host := [(0, 2 ^ 63)] }
/-- An image with one lantern. -/
def img1 : Image := { lnFirst := 3, lanterns := [{ target := 1 }] }

/-- LOAD's forms: admitted; over an unmapped address; with an image loaded; refused by a check of the image. -/
def loading (i : Option Image) : State := mapped0 (ready (cmdOp opLoad 0 64 0) i base)

set_option maxRecDepth 8000 in
theorem test_met_ControlCommands_load :
    let s := loading none
    let u := ready (cmdOp opLoad 0 64 0) none base
    issuable s 0 opLoad = some (cmdOp opLoad 0 64 0) ∧ (s.ctx 0).image = none ∧ hostMapped s (keyPart 0) 0 (64 % 2 ^ 32) = true ∧
    admitImage s 0 img1 = none ∧ poolClash s 0 img1 = false ∧ (allocTable 0 s img1.lnFirst img1.lanterns).isSome = true ∧
    issuable u 0 opLoad = some (cmdOp opLoad 0 64 0) ∧ hostMapped u (keyPart 0) 0 (64 % 2 ^ 32) = false ∧
    issuable (loading (some {})) 0 opLoad = some (cmdOp opLoad 0 64 0) ∧ ((loading (some {})).ctx 0).image.isSome = true ∧
    (admitImage s 0 { img1 with formatOk := false }).isSome = true := by decide

set_option maxRecDepth 8000 in
/-- Pool ranges that context 1's image holds; a partition without beds, and so without a share of the lanterns. -/
theorem test_met_ControlCommands_refused :
    let pooled : Image := { pool := [(0, 64)] }
    let c := (loading none).setCtx 1 { image := some pooled }
    let bare : State := { loading none with lay := { active := { entries := [{ used := true, maxCtxM1 := 63, vfCount := 4, frameCount := 1000 }] } } }
    let img3 : Image := { lnFirst := 3, lanterns := [{ target := 1, scope := 3 }] }
    issuable c 0 opLoad = some (cmdOp opLoad 0 64 0) ∧ (c.ctx 0).image = none ∧ hostMapped c (keyPart 0) 0 64 = true ∧
    admitImage c 0 pooled = none ∧ poolClash c 0 pooled = true ∧
    issuable bare 0 opLoad = some (cmdOp opLoad 0 64 0) ∧ (bare.ctx 0).image = none ∧ hostMapped bare (keyPart 0) 0 64 = true ∧
    admitImage bare 0 img3 = none ∧ poolClash bare 0 img3 = false ∧ allocTable 0 bare img3.lnFirst img3.lanterns = none := by decide

theorem test_met_ControlCommands :
    let u := ready (cmdOp opUnload 0 0 0) (some {}) base
    let u0 := ready (cmdOp opUnload 0 0 0) none base
    let r := mapped0 (ready (cmdOp opRngCheck 0 0 256) none base)
    issuable u 0 opUnload = some (cmdOp opUnload 0 0 0) ∧ (u.ctx 0).image.isSome = true ∧
    issuable u0 0 opUnload = some (cmdOp opUnload 0 0 0) ∧ (u0.ctx 0).image = none ∧
    issuable r 0 opRngCheck = some (cmdOp opRngCheck 0 0 256) ∧ (256 : Nat) % 512 ≤ 256 ∧
    hostMapped r (keyPart 0) 0 (32 * (256 % 512)) = true ∧ 256 < (257 : Nat) % 512 ∧
    hostMapped (ready (cmdOp opRngCheck 0 0 256) none base) (keyPart 0) 0 (32 * (256 % 512)) = false := by decide

/-- An image with one core plan of one entry, and stage and probe tables of one entry. -/
def img2 : Image :=
  { plans := [{ entries := 1, cores := [{}] }], blocks := [[0]], stage := some { entries := [0] }, probe := some { entries := [0] } }

theorem test_met_CoreCommands_run :
    let s (ph : CmdPhase) : State := ready { cmdOp opRun 0 0 0 with phase := ph } (some img2) base
    let c (ph : CmdPhase) : Cand := { key := 0, cmd := { cmdOp opRun 0 0 0 with phase := ph }, pass := none }
    let gone : State := { s .waiting with cfg := { (s .waiting).cfg with bedUsable := 0 } }
    ((s .granted).sched 0).run = none ∧ (coreCands (s .granted) 0).find? (fun c => candPhase (s .granted) c == .granted) = some (c .granted) ∧
    coreCands (s .waiting) 0 = [c .waiting] ∧ candPhase (s .waiting) (c .waiting) = .waiting ∧
    candRefusal (s .waiting) (c .waiting) = none ∧ (candRefusal gone (c .waiting)).isSome = true := by decide

/-- A granted command whose image names a bed that is gone. -/
theorem test_met_CoreCommands_gone :
    let m : Cmd := { cmdOp opRun 0 0 0 with phase := .granted }
    let c : Cand := { key := 0, cmd := m, pass := none }
    let s := ready m (some { img2 with fp3 := 2 ^ 16 }) { base with cfg := { base.cfg with bedUsable := 0 } }
    (s.sched 0).run = none ∧ (coreCands s 0).find? (fun c => candPhase s c == .granted) = some c ∧ (s.ctx 0).image.isSome = true ∧
    bedGone s 0 = true ∧ candRefusal s c = some 0x01 := by decide

/-- A STAGE that runs, its first pass command waiting or granted. -/
def staging (ph : CmdPhase) : State :=
  base.setCtx 0 { state := .open, vf := 1, q := { q1 with cmds := [{ cmdOp opStage 0 0 0 with phase := .issued }] }, image := some img2
                  stage := { run := true, ask := ph } }

theorem test_met_CoreCommands_pass :
    let c : Cand := { key := 0, cmd := { cmdOp opStage 0 0 0 with phase := .issued }, pass := some { plan := 0, params := [0, 0, 0, 0] } }
    ((staging .granted).sched 0).run = none ∧
    (coreCands (staging .granted) 0).find? (fun c => candPhase (staging .granted) c == .granted) = some c ∧ c.pass.isSome = true ∧
    coreCands (staging .waiting) 0 = [c] ∧ candPhase (staging .waiting) c = .waiting ∧ candRefusal (staging .waiting) c = none := by decide

theorem test_met_CoreCommands_stage :
    let s := ready (cmdOp opStage 0 0 0) (some img2) base
    let p := mapped0 (ready (cmdOp opProbe 0 0 32) (some img2) base)
    let gone : State := ready (cmdOp opStage 0 0 0) (some { img2 with fp3 := 2 ^ 16 }) { base with cfg := { base.cfg with bedUsable := 0 } }
    issuable s 0 opStage = some (cmdOp opStage 0 0 0) ∧ coreBusy s 0 = false ∧ (s.ctx 0).image = some img2 ∧ bedGone s 0 = false ∧
    bedGone gone 0 = true ∧
    img2.stage = some { entries := [0] } ∧ issuable p 0 opProbe = some (cmdOp opProbe 0 0 32) ∧ coreBusy p 0 = false ∧
    hostMapped p (keyPart 0) 0 32 = true ∧ (32 : Nat) ≠ 0 ∧ hostMapped p (keyPart 0) 32 32 = true := by decide

/-- A core whose task has ended, in the run of its partition. -/
theorem test_met_CoreCommands_end :
    let r : Running := { key := 0, cmd := 0, kind := .run, plan := 0, all := [0], cores := [0] }
    let s := (base.setCore 0 { cmd := some cmd0, tasks := [(0, { run := true, ended := true })] }).setSched 0 { run := some r }
    (s.core 0).cmd.isSome = true ∧ (s.sched (cmdPart (cmdOf s 0))).run = some r ∧ coreEnded (s.core 0) = true ∧ 0 ∈ r.cores := by decide

/-- A signed block of an opcode, with a payload and counter 1. -/
def signed (op payload : Nat) : Bytes := natLe 4 op ++ natLe 4 0 ++ natLe 8 1 ++ natLe 48 0 ++ natLe 8 payload
/-- Port 0's management queue with one command, the key store valid, and what else is changed. -/
def manage (op : Nat) (f : Gatehouse → Gatehouse) (s : State) : State :=
  { s.setMq 0 { q1 with cmds := [cmdOp op 0 0 0] } with gth := f { s.gth with keyStore := true } }
/-- A secured session 7 at the management function of port 0. -/
def session7 (f : Gatehouse → Gatehouse) : State :=
  { base with gth := f { base.gth with spdm := [(.fn (.mgmt 0), { sessions := [{ id := 7, up := true, beat := 0 }] })] } }

/-- A layout under another number stored beside the active one, one that changes slot 0 stored beside it. -/
theorem test_met_FunctionsAndLayouts :
    let l : Layout := { base.lay.active with number := 1 }
    let s : State := manage opLayoutSwitch id { base with lay := { base.lay with stored := [l] } }
    let e : State := manage opLayoutSwitch id { (opened id) with lay := { base.lay with stored := [{ number := 1 }] } }
    mgmtHead s 0 opLayoutSwitch = some (cmdOp opLayoutSwitch 0 0 0) ∧
    sbFails s (signed opLayoutSwitch 1) opLayoutSwitch 3 s.lay.switchCtr true true = false ∧ sbPayload (signed opLayoutSwitch 1) = 1 ∧
    sbFails s (signed opLayoutSwitch 1) opLayoutSwitch 3 s.lay.switchCtr false true = true ∧
    sessionUp (session7 id) (.fn (.mgmt 0)) 7 = true ∧
    tdiOf base 0 1 = .unlocked ∧ tdiOf (setTdi base 0 1 .locked) 0 1 = .locked ∧ (1 : Nat) ≤ 64 ∧ (64 : Nat) ≤ 64 ∧
    partOfVf (setTdi base 0 64 .locked) 0 64 = none ∧ tdiOf (setTdi base 0 64 .locked) 0 64 ≠ .unlocked ∧
    partOfVf (setTdi base 0 1 .locked) 0 1 = some 0 ∧
    s.lay.stored.find? (fun l => l.number == 1 % 8) = some l ∧ (upto 16).filter (slotChanged s.lay.active l) = [] ∧
    s.lay.switch = none ∧ switchTurn s (cmdOp opLayoutSwitch 0 0 0) = true ∧
    base.lay.stored.find? (fun l => l.number == 1 % 8) = none ∧
    e.lay.stored.find? (fun l => l.number == 1 % 8) = some { number := 1 } ∧
    ((upto 16).filter (slotChanged e.lay.active { number := 1 })).find? (fun p => !(openKeys e p).isEmpty || tdiHeld e p) = some 0 := by decide

/-- A switch under way at its port, which changes slot 0; one fetched at port 1 before that of port 0. -/
theorem test_met_FunctionsAndLayouts_switch :
    let w := switching [0] (session7 id)
    let m : Cmd := { cmdOp opLayoutSwitch 0 0 0 with fetchNo := 1 }
    let s := (base.setMq 0 { q1 with cmds := [m] }).setMq 1 { q1 with cmds := [cmdOp opLayoutSwitch 0 0 0] }
    (w.lay.switch.map Switching.port) = some 0 ∧ (w.lay.switch.bind Switching.cmd) = some 0 ∧
    sessionUp w (.fn (.mgmt 0)) 7 = true ∧ tdiOf w 0 1 = .unlocked ∧ (partOfVf w 0 1).any (slotSwitching w) = true ∧
    (partOfVf (session7 id) 0 1).any (slotSwitching (session7 id)) = false ∧
    s.lay.switch = none ∧ mgmtHead s 0 opLayoutSwitch = some m ∧ switchTurn s m = false := by decide

/-! ### Conditions met: the update engines -/

/-- A plan of one compact AdamW segment of 64 parameters on die 0, every area at address 0. -/
def plan1 : List (List SegWords) := [[[2 ^ 60 + 2 ^ 59, 0, 64, 0, 0, 0, 0, 0, 0, 0, 0, 0, 0, 0, 0, 0]]]
/-- A step parameter block: step 1, one contributor expected and required, 1 s. -/
def stepBlock1 : Bytes := natLe 4 1 ++ natLe 4 65537 ++ natLe 4 0 ++ natLe 4 1000
/-- Partition 0 with a writable stack page and a host page at address 0. -/
def bothMapped (s : State) : State := s.setXlate 0 { stack := [(0, 2 ^ 63 + 2 ^ 62)], host := [(0, 2 ^ 63)] }
/-- A module with that plan loaded and an update state. -/
def updating (u : UpdPart) : State := (bothMapped (ready {} (some { plan := plan1 }) base)).setUpd 0 u

/-- The module with its beds withdrawn. -/
def noBeds (s : State) : State := { s with cfg := { s.cfg with bedUsable := 0 } }

set_option maxRecDepth 4000 in
/-- An update that begins; an absent bed; no parameter block mapped; a bad block; a page of the plan not mapped. -/
theorem test_met_UpdateSteps_begin :
    let s (op : Nat) : State := bothMapped (ready (cmdOp op 0 0 0) (some { plan := plan1 }) base)
    let gone := noBeds (ready (cmdOp opUpdate 0 0 0) (some { plan := plan1, fp3 := 2 ^ 16 }) base)
    issuable (s opUpdate) 0 opUpdate = some (cmdOp opUpdate 0 0 0) ∧ issuable (s opUpdateResume) 0 opUpdateResume = some (cmdOp opUpdateResume 0 0 0) ∧
    ((s opUpdate).sched (keyPart 0)).eng = none ∧ engTurn (s opUpdate) (keyPart 0) (cmdOp opUpdate 0 0 0) = true ∧
    engTurn (s opUpdateResume) (keyPart 0) (cmdOp opUpdateResume 0 0 0) = true ∧ bedGone (s opUpdate) 0 = false ∧
    hostMapped (s opUpdate) (keyPart 0) 0 576 = true ∧ badBlock stepBlock1 = none ∧
    unmappedPage (s opUpdate) (keyPart 0) plan1 = none ∧ bedGone gone 0 = true ∧ hostMapped gone (keyPart 0) 0 576 = false ∧
    (badBlock []).isSome = true ∧ (unmappedPage gone (keyPart 0) plan1).isSome = true := by decide

/-- The plan's first block landed for this step; read by the sweep; not landed; and the phases of an update. -/
theorem test_met_UpdateSteps :
    let held := updating { counts := [(0, 1)] }
    let read := updating { counts := [(0, 1)], readBlk := [blockKey 0 0] }
    let late := updating { cmd := some (0, 0), phase := .landing, blk := { timeout := 1 }, waited := 1000000 }
    let start (n : Bool) (a : CmdPhase) : State := updating { cmd := some (0, 0), phase := .norm, normSeen := n, ask := a }
    let sweep := updating { cmd := some (0, 0), phase := .sweep }
    let ends := updating { cmd := some (0, 0), phase := .acks, eng := [(11, { ended := true })] }
    let ahead (s : State) : Bool := (s.upd 0).readBlk.contains (blockKey 0 0) && (Tbl.find (s.upd 0).next (blockKey 0 0)).isNone
    blockAt (dieSegs (updPlan held 0) 0) 0 0 ≠ none ∧ blockAt (dieSegs (updPlan held 0) 0) 0 1 = none ∧
    Tbl.find (held.upd 0).counts (blockKey 0 0) ≠ none ∧ ahead held = false ∧ ahead read = true ∧
    Tbl.find ((updating {}).upd 0).counts (blockKey 0 0) = none ∧
    (late.upd 0).cmd = some (0, 0) ∧ (late.upd 0).phase = .landing ∧ (late.upd 0).blk.timeout * 1000000 ≤ (late.upd 0).waited ∧
    ((start true .granted).upd 0).cmd.isSome = true ∧ ((start true .granted).upd 0).phase = .norm ∧
    ((start true .granted).upd 0).normSeen = true ∧ ((start true .granted).upd 0).ask = .granted ∧
    ((start false .waiting).upd 0).normSeen = false ∧ ((start true .asking).upd 0).ask ≠ .granted ∧
    (sweep.upd 0).cmd.isSome = true ∧ (sweep.upd 0).phase = .sweep ∧ bit (stackMask sweep.var) 11 = true ∧
    (updEng sweep 0 11).ended = false ∧ (ends.upd 0).phase = .acks ∧ (updEng ends 0 11).ended = true := by decide

/-! ### Conditions met: the Trellis -/

/-- A module at position 0 of a 2-D torus of 2 × 2, its first cable seated, Daybreak ended. -/
def torus (s : State) : State :=
  { s with trl := { s.trl with topo := 1, nx := 1, ny := 1 }, boot := { s.boot with done := true, bank := 1 }, pins := { s.pins with cables := [0] } }
/-- Port 0 in a state, with successive failures of one unit. -/
def portIn (st fails : Nat) : State := torus (base.setTport 0 { state := st, fails := fails })

theorem test_met_TrellisPorts :
    let s := portIn 2 0
    let d := (dirOfPort s 0).1
    let late := torus (base.setTport 0 { state := 4, retry := [{ seq := 0 }] })
    mayTrain s 0 = true ∧ portUp (s.tport 0) = false ∧ s.pins.cables.contains (0 / 4) = true ∧ (255 : Nat) % 256 = 255 ∧
    1 % 1024 = expectedPeer s.trl d ∧ (15 : Nat) % 256 ≠ 255 ∧ (15 : Nat) % 16 = 15 ∧
    2 % 1024 ≠ expectedPeer s.trl d ∧ portUp ((portIn 5 16).tport 0) = true ∧ 16 ≤ ((portIn 5 16).tport 0).fails ∧
    portUp (late.tport 0) = true ∧ (late.tport 0).retry ≠ [] ∧ (2 : Nat) < 3 ∧
    bit (trlMask s.var) 15 = true ∧ (15 : Nat) < 16 ∧ portUp ((portIn 4 0).tport 0) = true ∧ ((portIn 4 0).tport 0).expect = 0 ∧
    (1024 : Nat) % 1024 = ((portIn 4 0).tport 0).expect ∧ (1 : Nat) % 1024 ≠ ((portIn 4 0).tport 0).expect ∧
    (portIn 4 0).blv.fatal = false ∧ { base with blv := { base.blv with fatal := true } }.blv.fatal = true ∧
    (3 : Nat) ≠ (portIn 4 0).trl.pos ∧ (portIn 4 0).trl.skip.contains (portIn 4 0).trl.pos = false := by decide

/-- A port that is up and trains again: with eight, four and no good lanes, its neighbour right and wrong. -/
theorem test_met_TrellisPorts_again :
    let s := portIn 4 0
    mayTrain s 0 = true ∧ portUp (s.tport 0) = true ∧ s.pins.cables.contains (0 / 4) = true ∧
    1 % 1024 = expectedPeer s.trl (dirOfPort s 0).1 ∧ 2 % 1024 ≠ expectedPeer s.trl (dirOfPort s 0).1 ∧
    laneState 255 = 4 ∧ laneState 15 = 5 ∧ laneState 0 = 2 := by decide

/-- The job's context 0 has an image with a point-to-point channel 1, a reduce-scatter 2 of both ranks, a stage channel 3 and an
all-gather 4. -/
def withColls (s : State) : State :=
  let e (t : Nat) : List Nat := [t * 2 ^ 60, 2 ^ 44 + 2 ^ 34, 0, 0, 65536, 2 ^ 32, 0, 0]
  s.setCtx 0 { state := .open, vf := 1, q := q1, image := some { colls := [[], e 0, e 2, e 1, e 3] } }
/-- What a packet of the types below meets: accepted, for partition 0, from rank 1. -/
def met (s : State) (k : Packet) : Bool :=
  portUp (s.tport 0) && k.dest == s.trl.pos && decide ((acceptPkt s 0 k).1 = some 0) &&
    decide (rankAt ((acceptPkt s 0 k).2.job 0) k.src = some 1)
/-- The state after acceptance. -/
def acc (s : State) (k : Packet) : State := (acceptPkt s 0 k).2

/-- Data of a channel whose core 3 takes them in slot 2, of one that none takes, of a stage channel and of a gathered block. -/
theorem test_met_Packets_data :
    let s := withColls (inJob 0 base)
    let ch := s.setCore 3 { cmd := some cmd0, slots := [(2, { active := true, op := .stIn, desc := [5 * 2 ^ 60, 1, 4095 * 2 ^ 32] })] }
    let k (c : Nat) : Packet := pk 1 c []
    let ty (s : State) (c : Nat) : Nat := colType (collOf (acc s (k c)) (jobKey (acc s (k c)) 0) c)
    (0xFFEF : Nat) < 0xFFF0 ∧ met ch (k 1) = true ∧ ty ch 1 = 0 ∧ channelSlot (acc ch (k 1)) 0 1 = some (3, 2, cmd0) ∧
    met s (k 1) = true ∧ ty s 1 = 0 ∧ channelSlot (acc s (k 1)) 0 1 = none ∧
    met s (k 3) = true ∧ ty s 3 = 1 ∧ met s (k 4) = true ∧ ty s 4 = 3 ∧ met s (k 2) = true ∧ ty s 2 = 2 ∧
    (let x : Slot := { active := true, op := .stIn, begun := 16, desc := [5 * 2 ^ 60, 1, 4095 * 2 ^ 32] }
     slotKind x = 5 ∧ x.acked < tailedBytes x {} ∧ tailedBytes { x with acked := 16 } {} ≤ 16) := by decide

/-- Partials of block 0 of channel 2: to add, and to drop, of which one has more to come and the other is the last of its partial. -/
theorem test_met_Packets_partial :
    let s := withColls (inJob 0 base)
    let t := s.setJob 0 { s.job 0 with work := [(2 * 2 ^ 32, { drop := [(1, 0)] })] }
    let k (i : Nat) : Packet := { pk 2 2 [] with pidx := i }
    let e (i : Nat) : List Nat := collOf (acc t (k i)) (jobKey (acc t (k i)) 0) 2
    let w (s : State) (i : Nat) : BlockWork := blockWork (acc s (k i)) 0 2 (i / partialPkts (e i))
    met s (k 0) = true ∧ (w s 0).drop.contains (1, 0) = false ∧ met t (k 0) = true ∧ (w t 0).drop.contains (1, 0) = true ∧
    4096 * (0 % partialPkts (e 0) + 1) < partialLen (e 0) (w t 0) ∧ met t (k 15) = true ∧ (w t 15).drop.contains (1, 0) = true ∧
    partialLen (e 15) (w t 15) ≤ 4096 * (15 % partialPkts (e 15) + 1) := by decide

/-- A child whose parent, rank 1, acknowledges: this module is rank 0 of a block whose owner is member 1; a block with nothing kept;
scalars and credit. -/
theorem test_met_Packets_ack :
    let s := withColls (inJob 0 base)
    let t := s.setJob 0 { s.job 0 with work := [(2 * 2 ^ 32 + 1, { kept := some (1, []) })] }
    let k : Packet := { pk 3 2 [] with pidx := 1 }
    met t k = true ∧ (blockWork (acc t k) 0 2 1).kept.isSome = true ∧
    blockParent (acc t k) 0 (collOf (acc t k) (jobKey (acc t k) 0) 2) 1 = some 1 ∧
    met s k = true ∧ (blockWork (acc s k) 0 2 1).kept = none ∧
    met s (pk 5 2 []) = true ∧ met s { pk 5 2 [] with pidx := 1 } = true ∧ met s (pk 6 1 []) = true := by decide

/-- Data of channel 1 acknowledged to the core 0 that sends them from slot 2, and to a module where no stream sends. -/
theorem test_met_Packets_sender :
    let s := withColls (inJob 0 base)
    let out := s.setCore 0 { cmd := some cmd0, slots := [(2, { active := true, op := .stOut, desc := [5 * 2 ^ 60, 1, 4095 * 2 ^ 32] })] }
    let k : Packet := pk 3 1 []
    let e (s : State) : List Nat := collOf (acc s k) (jobKey (acc s k) 0) 1
    met out k = true ∧ colType (e out) = 0 ∧ e out ≠ [] ∧ senderSlot (acc out k) 0 1 = some (0, 2) ∧
    met s k = true ∧ senderSlot (acc s k) 0 1 = none := by decide

/-- An ST.OUT of kind 0x6 into channel `ch`, one chunk begun. -/
def contributing (ch : Nat) (f : Core → Core) (s : State) : State :=
  let d := [6 * 2 ^ 60, ch, 4095 * 2 ^ 32]
  s.setCore 0 (f ((seqCore 0 []).setSlot 0 { active := true, op := .stOut, word := iw 4 2 0, desc := d, begun := 4096 }))

/-- A word of the region has bad parity; the window does not hold the region. -/
theorem test_met_Packets_local :
    let s (f : Core → Core) : State := contributing 1 f (withColls (inJob 0 base))
    let co := (s id).core 0
    let x := co.slot 0
    let bad (f : Core → Core) : Option Nat :=
      let c := (s f).core 0
      badWord c x.task (c.region x.task (stReg x.word)) (outPos x (c.region x.task (stReg x.word)) 0) (wordsOf (packetLen 0 x.begun))
    co.cmd.isSome = true ∧ x.active = true ∧ x.op = .stOut ∧ slotKind x = 6 ∧ x.halted = false ∧ x.issued < x.begun ∧ streamIn co x = true ∧
    localHeld (s id) 0 (slotChan x) 0 (collOf (s id) 0 (slotChan x)) = false ∧ bad id = none ∧
    (bad (fun c => { c with badPar := [1024] })).isSome = true ∧ streamIn ((s (fun c => { c with wins := [] })).core 0) x = false := by decide

/-- The work area of channel 2 holds one block already and has no room for another. -/
theorem test_met_Packets_full :
    let s0 := withColls (inJob 0 base)
    let s := contributing 2 id (s0.setJob 0 { s0.job 0 with work := [(2 * 2 ^ 32 + 5, { locals := 1, kept := some (1, []) })] })
    let x := (s.core 0).slot 0
    localHeld s 0 (slotChan x) x.issued (collOf s 0 (slotChan x)) = true := by decide

/-! ### Conditions met: jobs and protection -/

theorem test_met_StepRunsFront : base.pending = [] := by decide

/-- A module with a tenant's keys and a JOB_ADMIT command, and the block that admits it. -/
def admitting (i : Option Image) : State :=
  let t := mapped0 (ready (cmdOp opJobAdmit 0 0 0) i base)
  { t with gth := { t.gth with slots := [(0, { ptk := some 1, jck := some [] })] } }
def block1 (vs : List Nat) (i : Option Image) : AdmitBlock :=
  { rank := 1, mem := { ranks := [0x8000, 0x8001] }, variants := vs, wrapKey := jobWrapKey (admitting i) 0 0 }

set_option maxRecDepth 4000 in
/-- Whatever keys are derived: a block that verifies, of one variant whose ranks the image fits; of two; an image that does not fit. -/
theorem test_met_JobCommands_admit :
    let s := admitting (some {})
    let b := block1 [] (some {})
    let far : Image := { colls := [[], [2 * 2 ^ 60, 2 ^ 44 + 7 * 2 ^ 34, 0, 0, 65536, 2 ^ 32, 0, 0]] }
    issuable s 0 opJobAdmit = some (cmdOp opJobAdmit 0 0 0) ∧ (s.ctx 0).image = some {} ∧ bedGone s 0 = false ∧ hostMapped s 0 0 1 = true ∧
    b.sigOk = true ∧ b.keyOk = true ∧ tenantKeys s 0 = true ∧ b.wrapKey = jobWrapKey s 0 b.tag ∧ memOk b.mem = true ∧ b.mem.tag = b.tag ∧
    b.rank < b.mem.ranks.length ∧ { b with sigOk := false }.sigOk = false ∧
    variantMismatch s b = none ∧ (variantMismatch s (block1 [0] (some {}))).isSome = true ∧
    memberFail (blockJob 0 b) {} = none ∧ (memberFail (blockJob 0 b) far).isSome = true := by
  refine ⟨by decide, by decide, by decide, by decide, rfl, rfl, by decide, rfl, by decide, rfl, by decide, rfl, by decide, by decide, rfl, by decide⟩

set_option maxRecDepth 4000 in
/-- JOB_ADMIT without an image, for an absent bed, and over an unmapped address. -/
theorem test_met_JobCommands_refused :
    let gone := noBeds (ready (cmdOp opJobAdmit 0 0 0) (some { fp3 := 2 ^ 16 }) base)
    let bare := ready (cmdOp opJobAdmit 0 0 0) (some {}) base
    issuable (admitting none) 0 opJobAdmit = some (cmdOp opJobAdmit 0 0 0) ∧ ((admitting none).ctx 0).image = none ∧
    issuable gone 0 opJobAdmit = some (cmdOp opJobAdmit 0 0 0) ∧ (gone.ctx 0).image.isSome = true ∧ bedGone gone 0 = true ∧
    issuable bare 0 opJobAdmit = some (cmdOp opJobAdmit 0 0 0) ∧ bedGone bare 0 = false ∧ hostMapped bare 0 0 1 = false := by decide

/-- A job in a phase of an epoch change, with a JOB_EPOCH command. -/
def epoch (op : Nat) (ph : EpochPhase) : State :=
  mapped0 (ready (cmdOp opJobEpoch op 0 0) none (base.setJob 0 { valid := true, phase := ph, mem := { ranks := [0x8000, 0x8001] } }))

theorem test_met_JobCommands_epoch :
    let rec1 : Membership := { epoch := 1, ranks := [0x8000, 0] }
    let e1 := epoch 1 .steady
    let u := ready (cmdOp opJobEpoch 1 0 0) none base
    issuable e1 0 opJobEpoch = some (cmdOp opJobEpoch 1 0 0) ∧ hostMapped e1 0 0 1 = true ∧ (e1.job 0).valid = true ∧ rec1.tag = (e1.job 0).tag ∧
    memOk rec1 = true ∧ rec1.epoch = (e1.job 0).epoch + 1 ∧ (e1.job 0).phase = .steady ∧ ((epoch 1 .switched).job 0).phase ≠ .steady ∧
    issuable (epoch 0 .steady) 0 opJobEpoch = some (cmdOp opJobEpoch 0 0 0) ∧
    issuable u 0 opJobEpoch = some (cmdOp opJobEpoch 1 0 0) ∧ hostMapped u 0 0 1 = false ∧
    issuable (epoch 2 .installed) 0 opJobEpoch = some (cmdOp opJobEpoch 2 0 0) ∧ ((epoch 2 .installed).job 0).phase = .installed ∧
    issuable (epoch 3 .switched) 0 opJobEpoch = some (cmdOp opJobEpoch 3 0 0) ∧ ((epoch 3 .switched).job 0).phase = .switched := by decide

/-- JOB_HALT; JOB_RESUME at the committed step, at the next, swept and not, at another, and unmapped; JOB_EVICT. -/
theorem test_met_JobCommands :
    let h := ready (cmdOp opJobHalt 0 0 0) none base
    let r (n : Nat) : State := mapped0 (ready (cmdOp opJobResume n 0 0) none base)
    let sw (n : Nat) : State := (r n).setProt 0 { evSwept := true }
    let e := manage opJobEvict id base
    issuable h 0 opJobHalt = some (cmdOp opJobHalt 0 0 0) ∧
    issuable (r 0) 0 opJobResume = some (cmdOp opJobResume 0 0 0) ∧ hostMapped (r 0) 0 0 576 = true ∧ 0 = committedOf (r 0) 0 ∧ ((r 0).prot 0).restored = false ∧
    ((r 0).prot 0).evSwept = false ∧ issuable (sw 1) 0 opJobResume = some (cmdOp opJobResume 1 0 0) ∧ 1 = committedOf (sw 1) 0 + 1 ∧
    ((sw 1).prot 0).evSwept = true ∧ issuable (r 1) 0 opJobResume = some (cmdOp opJobResume 1 0 0) ∧ 1 = committedOf (r 1) 0 + 1 ∧
    ((r 1).prot 0).evSwept = false ∧ issuable (r 2) 0 opJobResume = some (cmdOp opJobResume 2 0 0) ∧ 2 ≠ committedOf (r 2) 0 + 1 ∧
    (((r 2).setProt 0 { restored := true }).prot 0).restored = true ∧
    issuable ((r 2).setProt 0 { restored := true }) 0 opJobResume = some (cmdOp opJobResume 2 0 0) ∧
    hostMapped (ready (cmdOp opJobResume 0 0 0) none base) 0 0 576 = false ∧
    mgmtHead e 0 opJobEvict = some (cmdOp opJobEvict 0 0 0) ∧
    sbFails e (signed opJobEvict 0) opJobEvict 4 e.gth.mgmtCtr true true = false ∧
    (let x : Cmd := { cmdOp opUpdate 0 0 0 with id := 7, subNo := 3 }
     let u := (base.setUpd 0 { cmd := some (1, 7), normSeen := true }).setCtx 1 { q := { cmds := [x] } }
     (u.upd (keyPart 0)).cmd = some (1, 7) ∧ (u.upd 0).normSeen = true ∧ (u.ctx 1).q.cmds.find? (fun y => y.id == 7) = some x) := by decide

/-- A protection table of one shard of group 9 over ranks 0 to 9, mirrored from rank 1. -/
def prot1 : ProtTable :=
  { mirrorFrom := 1, shards := [{ group := 9, pos := 0, unitBytes := 2, firstUnit := 0, units := 8, members := upto 10 }] }
/-- This module as rank `r` of a job of ten ranks with that table and a plan of one segment. -/
def guarded (r : Nat) (m : Cmd) : State :=
  bothMapped (((ready m (some { plan := plan1, prot := some prot1 }) base).setJob 0
    { valid := true, rank := r, mem := { ranks := (upto 10).map (· + 0x8000) } }).setTport 0 { state := 4 })
/-- A protection transfer of a kind from position 1, group 9, slot and index given. -/
def transfer (kind slot index : Nat) (data : Bytes) : Packet :=
  pk 1 0xFFF0 (natLe 1 kind ++ natLe 1 slot ++ natLe 2 9 ++ natLe 4 1 ++ natLe 8 index ++ data)
/-- It is accepted for partition 0 from rank 1, as that kind. -/
def taken (s : State) (kind : Nat) (k : Packet) : Bool :=
  portUp (s.tport 0) && decide (k.dest = s.trl.pos) && decide (k.ty = 1) && decide ((acceptPkt s 0 k).1 = some 0) &&
    decide (rankAt ((acceptPkt s 0 k).2.job 0) k.src = some 1) && decide (0xFFF0 ≤ k.chan) && decide (phKind k.body = kind)

set_option maxRecDepth 8000 in
/-- Rank 0 is the P-holder of stripe 0 and the Q-holder of stripe 9; a DELTA that has been seen. -/
theorem test_met_ProtectionTransfers_delta :
    let s := guarded 0 {}
    let p := transfer 1 2 0 [1, 1]
    let q := transfer 1 2 9 [1, 1]
    let b := p.body
    taken s 1 p = true ∧ taken s 1 q = true ∧ protTab (acc s p) 0 = some prot1 ∧ groupShard prot1 9 = some 0 ∧
    (prot1.shards.getD 0 {}).members.getD (posP (phIndex p.body)) 1024 = ((acc s p).job 0).rank ∧
    (prot1.shards.getD 0 {}).members.getD (posQ (phIndex q.body)) 1024 = ((acc s q).job 0).rank ∧
    (let t := s.setProt 0 { s.prot 0 with map1 := [mapKey 0 (phIndex b) (phSlot b) false] }
     taken t 1 p = true ∧
     deltaSeen ((acc t p).prot 0) (phStep b) (mapKey 0 (phIndex b) (phSlot b) false) 1 (phIndex b) (phPass b) = true) ∧
    taken s 6 (transfer 6 8 0 [8]) = true ∧ protTab (acc s (transfer 6 8 0 [8])) 0 = some prot1 := by decide

set_option maxRecDepth 8000 in
theorem test_met_ProtectionTransfers :
    let s := guarded 0 {}
    let y := s.setProt 0 { s.prot 0 with sagV := true, tx := [{ kind := 1, step := 1, idx := 0, rank := 1, pass := 0, slot := 0, group := 9, data := [] }] }
    taken s 2 (transfer 2 0 0 []) = true ∧ taken s 3 (transfer 3 0 0 [1]) = true ∧ protTab (acc s (transfer 3 0 0 [1])) 0 = some prot1 ∧
    taken s 4 (transfer 4 0 0 []) = true ∧ taken y 5 (transfer 5 0 0 []) = true ∧ ((y.prot 0).tx[0]?).isSome = true := by decide

set_option maxRecDepth 8000 in
/-- The modes of REBUILD at the head of their class, waiting and granted; refused for no image, an absent bed, an unmapped block or list,
and mode 0. -/
theorem test_met_Rebuilds :
    let m (mode : Nat) (ph : CmdPhase) : Cmd := { desc := { opcode := opRebuild, arg0 := mode, params := [0, 0, 1] }, phase := ph }
    let g (mode : Nat) : State := guarded 2 (m mode .granted)
    let w := guarded 2 (m 1 .waiting)
    let bare := ready (m 2 .granted) none base
    let gone := noBeds (ready (m 1 .granted) (some { fp3 := 2 ^ 16 }) base)
    issuable (g 1) 0 opRebuild = some (m 1 .granted) ∧ ((g 1).prot 0).rb = none ∧ ((g 1).sched 0).eng = none ∧
    engTurn (g 1) 0 (m 1 .granted) = true ∧ ((g 1).ctx 0).image.isSome = true ∧ bedGone (g 1) 0 = false ∧
    hostMapped (g 1) 0 0 576 = true ∧ issuable (g 2) 0 opRebuild = some (m 2 .granted) ∧ hostMapped (g 2) 0 0 8 = true ∧
    issuable (g 3) 0 opRebuild = some (m 3 .granted) ∧ issuable w 0 opRebuild = some (m 1 .waiting) ∧
    (bare.ctx 0).image = none ∧ issuable bare 0 opRebuild = some (m 2 .granted) ∧ hostMapped bare 0 0 8 = false ∧
    (let nl := ready (m 2 .granted) (some {}) base
     issuable nl 0 opRebuild = some (m 2 .granted) ∧ (nl.ctx 0).image.isSome = true ∧ bedGone nl 0 = false ∧ hostMapped nl 0 0 8 = false ∧
     hostMapped nl 0 0 576 = false) ∧ bedGone gone 0 = true ∧ issuable (g 0) 0 opRebuild = some (m 0 .granted) ∧
    (let a : State := { g 2 with cfg := { (g 2).cfg with variant := .kt320 } }
     issuable a 0 opRebuild = some (m 2 .granted) ∧ (a.ctx 0).image.isSome = true ∧ bedGone a 0 = false ∧ hostMapped a 0 0 8 = true ∧
     dieCount a.var ≤ bits (le64 (natLe 8 (3 * 2 ^ 62)) 0) 62 2 ∧ bits (le64 (natLe 8 0) 0) 62 2 < dieCount a.var) := by decide

/-- A REBUILD of a mode that runs, with one unit to form. -/
def rebuilding (mode : Nat) (u : RbUnit) : Rebuild :=
  { cmd := (0, 0), mode := mode, nc := 1, roll := false, sSum := 0, blk := {}, todo := [u], maps := [], recs := [], shards := [0] }
/-- Data unit 3 of stripe 0, asked of its P-holder or its Q-holder. -/
def unit3 (q : Bool) : RbUnit := { shard := 0, sigma := 0, role := 3, askQ := q }

set_option maxRecDepth 8000 in
theorem test_met_Rebuilds_data :
    let s (mode : Nat) (q : Bool) : State := (guarded 2 {}).setProt 0 { rb := some (rebuilding mode (unit3 q)) }
    let k (d : Option Bytes) : Packet := transfer 7 3 0 (rbPayload 1 d)
    let f (k : Packet) (r : Rebuild) : Option RbUnit :=
      r.todo.find? (fun z => (prot1.shards.getD z.shard {}).group == phGroup k.body && z.sigma == phIndex k.body && z.role == phSlot k.body)
    taken (s 1 false) 7 (k (some [5, 6])) = true ∧ ((acc (s 1 false) (k (some [5, 6]))).prot 0).rb = some (rebuilding 1 (unit3 false)) ∧
    protTab (acc (s 1 false) (k (some [5, 6]))) 0 = some prot1 ∧ f (k (some [5, 6])) (rebuilding 1 (unit3 false)) = some (unit3 false) ∧
    (phData (k (some [5, 6])).body).drop 16 ≠ [] ∧ (phData (k none).body).drop 16 = [] ∧
    ((acc (s 3 false) (k none)).prot 0).rb = some (rebuilding 3 (unit3 false)) ∧ f (k none) (rebuilding 1 (unit3 true)) = some (unit3 true) ∧
    (unit3 true).askQ = true ∧ (unit3 false).role < 8 ∧ issuable (s 2 false) 0 opRebuild = none := by decide

/-! ### Conditions met: the decode gatherer -/

/-- A decode-set block: rows of 16 bytes to the first bed, region 0 of task 0, 4 KV bytes per token of 4096. -/
def dgBlock : Bytes := natLe 4 16 ++ natLe 4 0 ++ natLe 4 1 ++ natLe 4 0 ++ natLe 4 4 ++ natLe 4 0 ++ natLe 8 4096 ++ natLe 24 0
/-- Decode set 0 of context 0 with sequence 5 in slot 0. -/
def dset1 : DSet := { parseDset 0 dgBlock with slots := [(0, { tag := 5, kv := 0 })] }
/-- The module with that set. -/
def decoding (x : DSet) (s : State) : State := { s with units := { s.units with dsets := [(0, x)] } }

set_option maxRecDepth 8000 in
/-- DG_SET's forms: with a free set; with none; a bad block; a region too small; unmapped; without an image; no gatherer's bed. -/
theorem test_met_DecodeGatherer :
    let cmd := cmdOp opDgSet 0 0 0
    let g := mapped0 (ready cmd (some {}) base)
    let x := parseDset 0 dgBlock
    let small : Image := { plans := [{ entries := 1, cores := [{ w0 := 2 ^ 36 }] }], code := [iw 7 1 0] }
    let wide : Bytes := natLe 4 64 ++ dgBlock.drop 4
    let gone := noBeds (ready cmd (some { fp3 := 2 ^ 16 }) base)
    dgPresent g.var = true ∧ bedGone g 0 = false ∧ issuable g 0 opDgSet = some cmd ∧ (g.ctx 0).image = some {} ∧ hostMapped g 0 0 64 = true ∧
    badDset g 0 dgBlock = false ∧ badDset g 0 [] = true ∧
    (cfRegs {} x.task x.region).any (fun w => decide ((cfSizeM1 w + 1) * 4096 < tileBytesOf x)) = false ∧
    badDset g 0 wide = false ∧
    (cfRegs small 0 0).any (fun w => decide ((cfSizeM1 w + 1) * 4096 < tileBytesOf (parseDset 0 wide))) = true ∧
    (upto 64).find? (fun d => (Tbl.find g.units.dsets d).isNone) = some 0 ∧
    hostMapped (ready cmd (some {}) base) 0 0 64 = false ∧ (mapped0 (ready cmd none base)).ctx 0 = { (g.ctx 0) with image := none } ∧
    bedGone gone 0 = true ∧ issuable gone 0 opDgSet = some cmd := by decide

/-- Every set taken. -/
theorem test_met_DecodeGatherer_full :
    (upto 64).find? (fun d => (Tbl.find ((upto 64).map (fun i => (i, ({} : DSet)))) d).isNone) = none := by decide

set_option maxRecDepth 8000 in
/-- DG_JOIN within the capacity, beyond it, and with every place taken; DG_LEAVE of a running sequence, of one that leaves already, of a
waiting join and of no tag; DG_STEP; a set of another context. -/
theorem test_met_DecodeGatherer_sets :
    let c (x : DSet) (op a1 : Nat) : State := decoding x (ready (cmdOp op 0 a1 0) none base)
    let j : DSet := { dset1 with joins := [({ tag := 6, kv := 0 }, 3)] }
    let stays (x : DSet) : Option (Nat × DSeq) := (x.slots.filter (fun q => q.2.tag == 5)).find? (fun q => !x.leaves.any (fun l => l.1 == q.1))
    bedGone (c dset1 opDgJoin 7) 0 = false ∧ Tbl.find (c dset1 opDgJoin 7).units.dsets 0 = some dset1 ∧ dset1.key = 0 ∧
    issuable (c dset1 opDgJoin (2 ^ 32 + 7)) 0 opDgJoin = some (cmdOp opDgJoin 0 (2 ^ 32 + 7) 0) ∧ 1024 * dset1.kvPer ≤ dset1.kvCap ∧
    dset1.kvCap < 1025 * dset1.kvPer ∧ dset1.joins.length < 1024 ∧
    issuable (c dset1 opDgLeave 5) 0 opDgLeave = some (cmdOp opDgLeave 0 5 0) ∧ stays dset1 = some (0, { tag := 5, kv := 0 }) ∧
    stays { dset1 with leaves := [(0, 2)] } = none ∧ j.joins.find? (fun y => y.1.tag == 6) = some ({ tag := 6, kv := 0 }, 3) ∧
    j.slots.filter (fun q => q.2.tag == 6) = [] ∧ dset1.joins.find? (fun y => y.1.tag == 9) = none ∧
    issuable (c dset1 opDgStep 0) 0 opDgStep = some (cmdOp opDgStep 0 0 0) ∧ ({ dset1 with key := 1 } : DSet).key ≠ 0 := by decide

/-- A row that enters, and one that finds the tile store full; a tile to drop at its deadline; a core with room and one without. -/
theorem test_met_DecodeGatherer_rows :
    let x : DSet := { dset1 with tiles := [[(0, [])]] }
    let t := decoding x base
    let k : Task := { task0 [(0, 0)] with regions := [(1, { empty with prod := 0x10 })] }
    let s := (upto 16).foldl (fun s n => s.setCore n { cmd := some cmd0, tasks := [(0, k)] }) t
    let y : DSet := { x with region := 1 }
    let r := decoding y s
    Tbl.find t.units.dsets 0 = some x ∧ Tbl.find x.slots 0 ≠ none ∧ x.came.contains 0 = false ∧ x.tile.isEmpty = true ∧
    storeUsed t + tileBytesOf x ≤ 16777216 ∧ [(0, ([] : Bytes))] ≠ [] ∧ y.tiles = [(0, [])] :: [] ∧ targetCores r y ≠ [] ∧
    (targetCores r y).all (coreTakes r y) = true ∧ (targetCores t y).all (coreTakes t y) = false := by decide

/-! ### Conditions met: the Gatehouse -/

/-- A module that works: rails up, Daybreak ended with an image, identity keys held, port 0 up. -/
def live (s : State) : State :=
  let t := s.setPort 0 { up := true }
  { t with boot := { t.boot with rails := true, done := true, bank := 1, step := 7 }, gth := { t.gth with identOk := true } }
/-- The SPDM state of an endpoint. -/
def spdm (e : Endpoint) (x : Spdm) : State :=
  let s := live base
  { s with gth := { s.gth with spdm := [(e, x)] } }

theorem test_met_Attestation :
    let f : Endpoint := .fn (.vf 0 1)
    let sp (n : Nat) (up : Bool) : Spdm := { version := true, caps := true, algs := true, sessions := List.replicate n { id := 7, up := up } }
    let lk : State := { spdm f (sp 1 true) with gth := { (spdm f (sp 1 true)).gth with locked := true } }
    hasResponder (live base) (.smbus 0x60) = true ∧ hasResponder (live base) f = true ∧ hasResponder (live base) (.fn (.mgmt 0)) = true ∧
    hasResponder (spdm f (sp 1 true)) f = true ∧
    (spdmOf (spdm f (sp 1 true)) f).version = true ∧ (spdmOf (spdm f (sp 1 true)) f).caps = true ∧ (spdmOf (spdm f (sp 1 true)) f).algs = true ∧
    (spdm f (sp 1 true)).lockedLike = false ∧ (spdmOf (spdm f (sp 3 true)) f).sessions.length < 4 ∧
    4 ≤ (spdmOf (spdm f (sp 4 true)) f).sessions.length ∧ (spdmOf (live base) f).version = false ∧ (spdmOf (live base) f).caps = false ∧
    (spdmOf (live base) f).algs = false ∧ hasResponder lk (.fn (.mgmt 0)) = true ∧ lk.lockedLike = true ∧
    sessionIn (spdm f (sp 1 false)) f 7 false = true ∧ sessionIn (spdm f (sp 1 true)) f 7 true = true := by decide

/-- An index with a measurement, whatever is measured, and one without. -/
theorem test_met_Attestation_index :
    let s := live base
    let f : Endpoint := .fn (.mgmt 0)
    (measurements s f).filter (fun m => m.1 == 2) ≠ [] ∧ (measurements s f).filter (fun m => m.1 == 7) = [] := by
  refine ⟨fun h => ?_, ?_⟩
  · have := congrArg List.length h
    revert this
    decide
  · rfl

/-- A session of function 0, and one of VF 1 of partition 0. -/
def inSession (f : Fn) (s : State) : State :=
  let t := live s
  { t with gth := { t.gth with spdm := [(.fn f, { version := true, caps := true, algs := true, sessions := [{ id := 7, up := true }] })] } }

/-- A TENANT_SETUP payload: PTK 0 and an uncompressed point. -/
def payload0 : Bytes := List.replicate 32 0 ++ 4 :: List.replicate 96 0

set_option maxRecDepth 4000 in
theorem test_met_SessionRequests :
    let m := inSession (.mgmt 0) base
    let g := { m with gth := { m.gth with ide := [{ port := 0, stream := 1, kset := 0, vf := 1, key := 3, active := false }] } }
    let v := inSession (.vf 0 1) base
    let o (k : Bool) : State := v.setCtx 0 { state := .open, vf := 1, q := { sqFmt := 2 }, keyed := k }
    let u := { v with gth := { v.gth with uses := [(0, { last := some {} })] } }
    let p := { v with gth := { v.gth with slots := [(0, { ptk := some 0 })] } }
    let second (s : State) (vf : Nat) : Bool := s.gth.ide.any (fun i => i.port == 0 && ((i.vf == vf) != (i.stream == 1)))
    ideSession m 0 7 = true ∧ (64 : Nat) ≤ 64 ∧ (1 : Nat) < 2 ∧ second m 64 = false ∧ second g 2 = true ∧
    ideSession g 0 7 = true ∧ g.gth.ide.any (sameSet 0 1 0) = true ∧ m.gth.ide.any (sameSet 0 1 0) = false ∧ vendorPart v 0 1 7 = some 0 ∧
    (payload0.drop 32).getD 0 0 = 4 ∧ payload0.length = 129 ∧ (slotKeys v 0).ptk = none ∧ vendorPart p 0 1 7 = some 0 ∧
    (slotKeys p 0).ptk.isSome = true ∧ vendorPart (o false) 0 1 7 = some 0 ∧ (List.replicate 33 0 : Bytes).length = 33 ∧
    leNat ((List.replicate 33 0 : Bytes).take 1) = 0 ∧
    ((o false).ctx 0).state = .open ∧ ((o false).ctx 0).q.sqFmt = 2 ∧ ((o false).ctx 0).vf = 1 ∧ ((o false).ctx 0).keyed = false ∧
    ((o true).ctx 0).keyed = true ∧ (useOf u 0).last = some {} ∧ (useOf v 0).last = none ∧ vendorPart u 0 1 7 = some 0 ∧ slotSwitching v 0 = false ∧
    slotSwitching (switching [0] v) 0 = true ∧ vendorPart (switching [0] v) 0 1 7 = some 0 := by decide

/-- PARTITION_ERASE in the session of its VF, with nothing open and with a context open. -/
theorem test_met_SessionRequests_erase :
    let v := inSession (.vf 0 1) base
    let o := v.setCtx 0 { state := .open, vf := 1 }
    erasePart v (.vf 0 1) 7 0 = some 0 ∧ openKeys v 0 = [] ∧ tdiHeld v 0 = false ∧ erasePart o (.vf 0 1) 7 0 = some 0 ∧ openKeys o 0 ≠ [] := by decide

/-- A waiting record of partition 0 and an enabled ring of 64 records. -/
def ringed : State :=
  let s := live base
  { s with gth := { s.gth with store := [{ seq := 1 }], rings := [(0, { enable := true, log2 := 6 })] } }

theorem test_met_GatehouseRecords :
    let t := manage opTimeSet id base
    let b := manage opBedWithdraw id base
    let due := { base with alm := { base.alm with time := 60000000000 }, gth := { base.gth with uses := [(0, { isOpen := true })] } }
    let r := Tbl.get {} ringed.gth.rings 0
    mgmtHead t 0 opTimeSet = some (cmdOp opTimeSet 0 0 0) ∧
    sbFails t (signed opTimeSet (2 ^ 64 - 1)) opTimeSet 64 t.gth.mgmtCtr true true = false ∧
    sbFails t (signed opTimeSet 0) opTimeSet 64 t.gth.mgmtCtr true false = true ∧
    mgmtHead b 0 opBedWithdraw = some (cmdOp opBedWithdraw 0 0 0) ∧
    sbFails b (signed opBedWithdraw 15) opBedWithdraw 4 b.gth.mgmtCtr true true = false ∧
    sbFails b (signed opBedWithdraw 15) opBedWithdraw 4 b.gth.mgmtCtr false true = true ∧
    bit b.cfg.bedUsable 15 = true ∧ bit (noBeds b).cfg.bedUsable 15 = false ∧ (31 : Nat) % 32 ≠ 0 ∧
    due.gth.boundary + 1 ≤ due.alm.time / 60000000000 ∧ unreserved due + (usageKeys due).length ≤ 3072 ∧ (usageKeys due).Nodup ∧
    ringed.gth.store.find? (ofPort ringed 0) = some { seq := 1 } ∧ (ringed.port 0).up = true ∧ r.enable = true ∧ 6 ≤ r.log2 ∧ r.log2 ≤ 16 ∧
    (r.tail + 1) % 2 ^ r.log2 ≠ r.head % 2 ^ r.log2 := by decide

/-! ### Conditions met: the Almanac -/

theorem test_met_InputAndFrame :
    let s := live base
    let al (f : Almanac → Almanac) : State := { s with alm := f s.alm }
    let sagging := al (fun a => { a with inp := { a.inp with sagUs := 20 } })
    let failing := al (fun a => { a with inp := { a.inp with lowUs := 100 } })
    let framed := al (fun a => { a with frame := { a.frame with lost := false, since := 12500 } })
    let eight := al (fun a => { a with frame := { a.frame with good := 8 } })
    s.boot.rails = true ∧ sagging.alm.sag = false ∧ 20 ≤ sagging.alm.inp.sagUs ∧ powerFails failing.alm.inp = true ∧
    (500 : Nat) ≤ 10000 ∧ (10000 : Nat) < 10001 ∧ eight.alm.frame.lost = true ∧ 8 ≤ eight.alm.frame.good ∧
    framed.alm.frame.lost = false ∧ s.alm.frame.lost = true ∧ s.alm.frame.good < 8 ∧ 12500 ≤ framed.alm.frame.since ∧
    (al (fun a => { a with frame := { a.frame with since := 2000 } })).alm.pw.frameDef ≤ 2000 ∧ framed.alm.frame.home = false ∧
    framed.alm.pw.offset * framed.alm.frame.period ≤ 16 * framed.alm.frame.since ∧
    (al (fun a => { a with sag := true, inp := { a.inp with upUs := 1000 } })).alm.sag = true := by decide

/-- A RUN that asks for credit, in a module with credit of both kinds. -/
def asking (w : Nat) : State :=
  let s := live (ready { cmdOp opRun 0 0 0 with phase := .asking, waitUs := w } (some img2) base)
  { s with alm := { s.alm with bfr := 5, charge := 50000, phys := 50000, inp := { s.alm.inp with vin := 48000 } } }

set_option maxRecDepth 4000 in
theorem test_met_EnergyCredit :
    let s := asking 5000
    let m : Cmd := { cmdOp opRun 0 0 0 with phase := .asking, waitUs := 5000 }
    s.boot.rails = true ∧ s.alm.dueQ.contains (0, 0) = false ∧ (allWaiters s).any (fun r => r.key == 0 && r.cmd == 0) = true ∧
    (s.ctx 0).q.cmds.find? (fun m => m.id == 0) = some m ∧ s.alm.pw.dueUs ≤ m.waitUs := by decide

/-- A due RUN that waits while a bypass runs in its partition holds every other grant up (R410). -/
theorem test_met_EnergyCredit_due :
    let s := asking 5000
    let s := { s with alm := { s.alm with dueQ := [(0, 0)] }, parts := { s.parts with sched := [(0, { run := some { key := 1, cmd := 0, kind := .run, plan := 0, all := [1], cores := [1] } })] } }
    (dueIn s (allWaiters s)).map (asksNow s) = [false] := by decide

set_option maxRecDepth 4000 in
/-- A due RUN that asks and that the frame credit does not pay. -/
theorem test_met_EnergyCredit_poor :
    let s := asking 5000
    let s := { s with alm := { s.alm with dueQ := [(0, 0)], bfr := 0, inp := { s.alm.inp with vin := 0 } } }
    (dueIn s (allWaiters s)).length = 1 ∧ (dueIn s (allWaiters s)).any (grantable s) = false := by decide

/-- The request may be granted; the thermal credit is exact in rationals. -/
theorem test_met_EnergyCredit_grant : (allWaiters (asking 0)).any (fun r => grantable (asking 0) r) = true := by decide +kernel

/-! ### Conditions met: the Belvedere, the check units, starts and resets, flash and pins, registers -/

theorem test_met_Events :
    let s := { live base with blv := { bufs := [(3, [evtNone 0x042 2 0 0])] } }
    (Tbl.get [] s.blv.bufs 3).isEmpty = false ∧ (7 : Nat) % 8 ≠ 0 ∧ s.boot.rails = true ∧ s.pins.resetLow = false ∧
    aliveOk (live base) = true := by decide

/-- Check unit 0 of management function 0, open or not, with entries in its queue. -/
def unit (o : Bool) (q : List Bytes) : State := base.setChk 0 { isOpen := o, queue := q }

theorem test_met_CheckUnits :
    ownsUnit (unit false []) (.mgmt 0) 0 = true ∧ ((unit false []).chk 0).isOpen = false ∧
    ownsUnit (unit true (List.replicate 15 [1])) (.mgmt 0) 0 = true ∧ ((unit true (List.replicate 15 [1])).chk 0).isOpen = true ∧
    ((unit true (List.replicate 15 [1])).chk 0).queue.length < 16 ∧ ((base.setChk 5 { toPart := true, part := 0 }).chk 5).toPart = true ∧ bit (hostMask base.var) 0 = true ∧ base.shut = false := by decide

theorem test_met_StartsAndResets :
    let q (low : Bool) : State := { base with alm := { base.alm with inp := { base.alm.inp with okUs := 100000 } }, pins := { base.pins with resetLow := low } }
    let r := { live base with pins := { base.pins with resetLow := true } }
    let w := { live base with boot := { (live base).boot with warming := true } }
    (q true).boot.rails = false ∧ 100000 ≤ (q true).alm.inp.okUs ∧ (q true).pins.resetLow = true ∧ (q false).pins.resetLow = false ∧
    (live base).boot.rails = true ∧ r.boot.rails = true ∧ r.pins.resetLow = true ∧ warmOk (live base) = true ∧
    (live base).boot.warming = false ∧ warmOk w = true ∧ w.boot.warming = true ∧ base.boot.rails = false ∧
    base.alm.spent < 30 * 86400 * 10 ^ 9 ∧
    (let d := { base with alm := { base.alm with spent := 31 * 86400 * 10 ^ 9 } }
     d.boot.rails = false ∧ 30 * 86400 * 10 ^ 9 ≤ d.alm.spent) ∧
    (let d (warm : Bool) : State := { live base with boot := { (live base).boot with done := false, step := 4, warm := warm } }
     booting (d false) false = true ∧ booting (d true) true = true ∧ ({ upTo := 4 } : BootIn).upTo ≤ (d false).boot.step ∧
     warmOk (d false) = false ∧ booting (d false) true = false) := by decide

theorem test_met_FlashAndPins :
    let s := live base
    let e (k : Nat) : State := { s with boot := { s.boot with flOp := some (k, 0) } }
    let c := { s with pins := { s.pins with cables := [0], perstLow := [1] } }
    let b2 := { s with boot := { s.boot with bank := 2 } }
    let busy := { s with boot := { s.boot with flBusy := true } }
    flashFn b2 (.mgmt 0) = true ∧ b2.boot.flBusy = false ∧ b2.boot.bank ≠ b2.boot.flTarget + 1 ∧ flashFn busy (.mgmt 0) = true ∧
    busy.boot.flBusy = true ∧ s.boot.bank ≠ 0 ∧ s.boot.bank = s.boot.flTarget + 1 ∧ (e 1).boot.flOp = some (1, 0) ∧
    (e 2).boot.flOp = some (2, 0) ∧ bit (hostMask s.var) 3 = true ∧ s.pins.perstLow.contains 3 = false ∧ c.pins.perstLow.contains 1 = true ∧
    6 ≤ c.boot.step ∧ s.pins.cables.contains 3 = false ∧ c.pins.cables.contains 0 = true ∧ s.boot.rails = true := by decide

theorem test_met_RegistersAndReset :
    let s := live base
    (0 : Nat) % 8 = 0 ∧ (4 : Nat) % 8 ≠ 0 ∧ (2 : Nat) ≠ 4 ∧ place s (.mgmt 0) 0 = some (.cfg 0) ∧ place s (.mgmt 0) 0x1000 = some (.flash 0) ∧
    place s (.mgmt 0) 4092 ≠ none ∧ place s (.mgmt 0) 0x3001F0 = some (.blv 0 (0x100 + 16 * 15)) ∧ counterLow (.blv 0 (0x100 + 16 * 15)) = false ∧
    place s (.vf 0 1) 0x1000 = none ∧ place s (.mgmt 0) 0x300010 = some (.blv 0 0x10) ∧ counterLow (.blv 0 0x10) = true ∧
    tdiShut s true (.blv 0 0x10) = false ∧ bit (hostMask s.var) 3 = true ∧
    place s (.mgmt 0) 0x300014 = some (.blv 0 0x14) ∧ counterLow (.blv 0 0x14) = false ∧ tdiShut s true (.blv 0 0x14) = false := by decide

/-- R16: the latched high half serves the next read of it only. -/
theorem test_latch_used_once :
    let s : State := { live base with latch := [(0x300014, 7)] }
    (match exec (.counterLowHalfRead (.mgmt 0) { off := 0x300014 }) s with
      | .next u => u.readOut == 7 && u.latch == []
      | _ => false) = true := by decide

/-! ### Values that the spec prints -/

/-- The nine ASCII bytes "123456789" (R433). -/
def nine : Bytes := [0x31, 0x32, 0x33, 0x34, 0x35, 0x36, 0x37, 0x38, 0x39]

/-- R433: the check value of each check. -/
theorem test_crc_values :
    (crcOf 0 nine, crcOf 1 nine, crcOf 2 nine, crcOf 3 nine) = (0xE3069283, 0xCBF43926, 0x6C40DF5F0B497347, 0x29B1) := by decide +kernel

/-- The array on BF16 operands: A[0] = 2^127, A[40] as given, every other A = 1; B[0] = 8, B[40] = 1, every other B = 2. -/
def bf16Pass (nan : Nat) : PassIn :=
  { fa := 1, fb := 1, flush := false, red := 64, perElem := false, xa := fun _ _ => 0, xb := fun _ _ => 0
    ea := fun _ k => if k = 0 then 0x7F00 else if k = 40 then nan else 0x3F80
    eb := fun k _ => if k = 0 then 0x4100 else if k = 40 then 0x3F80 else 0x4000 }

/-- Worked example of chapter 02: an overflowed product and a quiet NaN. -/
theorem test_bf16_dot_quiet :
    passPoint (bf16Pass 0x7FC1) 0 0 0 = (0x7FC00000, { overflow := true, nanSeen := true }) := by decide +kernel

/-- The same with a signalling NaN. -/
theorem test_bf16_dot_signalling :
    passPoint (bf16Pass 0x7F81) 0 0 0 = (0x7FC00000, { invalid := true, overflow := true, nanSeen := true }) := by decide +kernel

/-- The array on MXFP8 operands of which only the first pair, 4 and 2, is not zero, with block scales. -/
def mxPass (flush : Bool) (xa xb : Nat) : PassIn :=
  { fa := 5, fb := 5, flush := flush, red := 32, perElem := false, xa := fun _ _ => xa, xb := fun _ _ => xb
    ea := fun _ k => if k = 0 then 0x48 else 0, eb := fun k _ => if k = 0 then 0x40 else 0 }

/-- Worked example of chapter 02: block scales outside the range, and a block that is NaN. -/
theorem test_mx_scales :
    passPoint (mxPass false 0xFE 0x85) 0 0 0 = (0x7F800000, { overflow := true }) ∧
    passPoint (mxPass false 0x01 0x6E) 0 0 0 = (0x00000200, {}) ∧
    passPoint (mxPass true 0x01 0x6E) 0 0 0 = (0, { flushed := true, underflow := true }) ∧
    passPoint (mxPass false 0x01 0x01) 0 0 0 = (0, { underflow := true }) ∧
    passPoint (mxPass false 0xFF 0x85) 0 0 0 = (0x7FC00000, { nanSeen := true }) := by decide +kernel

/-- Worked example of chapter 10: the products and sums of one AdamW parameter. -/
theorem test_adamw_steps :
    (mulBits fp32 false 0x3C000000 0x3E800000).1 = 0x3B000000 ∧
    (fmaBits fp32 false false false 0x3D800000 0x3F800000 0x3FEFFFF9).1 = 0x3FF7FFF9 ∧
    (fmaBits fp32 false true false 0x3A800000 0x3FF7FFF9 0x3F800000).1 = 0x3F7F8400 ∧
    (toF32 (sqrtNum (ofF32 0x36800000))).1 = 0x3B000000 := by decide +kernel

/-- Chapter 02: the value of an element of a KM8-S and of a KM8-R block: −2^−9 × 21/16, and 2^−20 × 3/2. -/
theorem test_km8_values :
    km8s 0x7A 0xB5 = .fin true 21 (-13) ∧ km8r 0x6E 0xC8 = .fin false 24 (-24) := by decide +kernel

/-- Chapter 04: the word of the matrix pass of its first example is MX.MM with M, K and N of 128 and regions 1 and 2. -/
theorem test_matrix_word :
    opOf 0x11FEFFFC40000062 = some .mxMm ∧ bits 0x11FEFFFC40000062 49 7 = 127 := by decide

/-- An INT8 pass: the first chunk sums 32 products of 127 × 127. -/
def int8Pass : PassIn :=
  { fa := 11, fb := 11, flush := false, red := 64, perElem := false, xa := fun _ _ => 0, xb := fun _ _ => 0
    ea := fun _ _ => 127, eb := fun _ _ => 127 }

/-- R63: a chunk below the bound, at it and beyond it. -/
theorem test_met_IntegerChunks :
    int8Pass.fa = 11 ∧ passChunk int8Pass 0 0 0 0 = (516128, {}) ∧ passChunk int8Pass 0 0 0 (2147483647 - 516128) = (2147483647, {}) ∧
    passChunk int8Pass 0 0 1 (2147483648 - 516128) = (2147483647, { overflow := true }) := by decide +kernel

end Sys2Proof.Tests
end

section
/-! SUPPORT. The scope of a step: every command answers a next state, and none touches the queue of waiting commands or the identity of
the module. -/
namespace Sys2Proof.Machine
open Sys2Proof

/-- Every command answers a next state that keeps the queue and the identity: the arms of `exec`, each by its own lemma. -/
theorem exec_keeps (i : Instr) (s : State) : Keeps (exec i s) s :=
  match i with
  | .registerWrite fn a value => execRegisterWrite_keeps fn a value s
  | .counterLowHalfRead fn a => execCounterLowHalfRead_keeps fn a s
  | .historyWord0Read fn entry => execHistoryWord0Read_keeps fn entry s
  | .load k img => execLoad_keeps k img s
  | .unload k => execUnload_keeps k s
  | .run p => execRun_keeps p s
  | .commandEndOnCore core => execCommandEndOnCore_keeps core s
  | .mxMm core ev => execMxMm_keeps core ev s
  | .mxCv core ev => execMxCv_keeps core ev s
  | .mxDr core ev => execMxDr_keeps core ev s
  | .mxFmt core ev => execMxFmt_keeps core ev s
  | .tileLoad core => execTileLoad_keeps core s
  | .vxB core ev => execVxB_keeps core ev s
  | .vxT core ev => execVxT_keeps core ev s
  | .vxUCvt core ev => execVxUCvt_keeps core ev s
  | .vxUCopy core ev => execVxUCopy_keeps core ev s
  | .vxUNeg core ev => execVxUNeg_keeps core ev s
  | .vxUAbs core ev => execVxUAbs_keeps core ev s
  | .vxUTrn core ev => execVxUTrn_keeps core ev s
  | .vxURsum core ev => execVxURsum_keeps core ev s
  | .vxURmax core ev => execVxURmax_keeps core ev s
  | .vxURsumsq core ev => execVxURsumsq_keeps core ev s
  | .fxFwd core ev => execFxFwd_keeps core ev s
  | .fxBwi core ev => execFxBwi_keeps core ev s
  | .fxBwo core ev => execFxBwo_keeps core ev s
  | .stIn core ev slot => execStIn_keeps core ev slot s
  | .stOut core ev slot => execStOut_keeps core ev slot s
  | .stWch core ev slot => execStWch_keeps core ev slot s
  | .stTil core ev => execStTil_keeps core ev s
  | .chunkBegin core slot => execChunkBegin_keeps core slot s
  | .streamDataReturn core slot q data => execStreamDataReturn_keeps core slot q data s
  | .chunkVisible core slot => execChunkVisible_keeps core slot s
  | .translationWalkComplete core slot => execTranslationWalkComplete_keeps core slot s
  | .go fn core slot => execGo_keeps fn core slot s
  | .deny fn core slot => execDeny_keeps fn core slot s
  | .haltedTimeLimit p => execHaltedTimeLimit_keeps p s
  | .prefetchRead core slot data => execPrefetchRead_keeps core slot data s
  | .weightChainFlit core slot => execWeightChainFlit_keeps core slot s
  | .weightChainSourceRead core slot => execWeightChainSourceRead_keeps core slot s
  | .lnArm core ev => execLnArm_keeps core ev s
  | .lnSig core ev => execLnSig_keeps core ev s
  | .lnWait core task => execLnWait_keeps core task s
  | .lnWtc core task => execLnWtc_keeps core task s
  | .lanternNotification core => execLanternNotification_keeps core s
  | .lanternDeltaSend n => execLanternDeltaSend_keeps n s
  | .lanternDelta port k => execLanternDelta_keeps port k s
  | .lanternArm port k => execLanternArm_keeps port k s
  | .lanternCount port k => execLanternCount_keeps port k s
  | .lanternReject port k => execLanternReject_keeps port k s
  | .lntHsig fn n v => execLntHsig_keeps fn n v s
  | .map fn host => execMap_keeps fn host s
  | .unmap fn host => execUnmap_keeps fn host s
  | .unmapComplete p => execUnmapComplete_keeps p s
  | .patrolScrub k => execPatrolScrub_keeps k s
  | .gatherSorterEntry core slot => execGatherSorterEntry_keeps core slot s
  | .gatherSorterIssue k => execGatherSorterIssue_keeps k s
  | .gatherPromotion k ix => execGatherPromotion_keeps k ix s
  | .update k block => execUpdate_keeps k block s
  | .updateResume k block => execUpdateResume_keeps k block s
  | .landingBlock p d lb count data => execLandingBlock_keeps p d lb count data s
  | .sweepStart p => execSweepStart_keeps p s
  | .sweepRecord p k => execSweepRecord_keeps p k s
  | .landTimeout p => execLandTimeout_keeps p s
  | .rngCheck k recs => execRngCheck_keeps k recs s
  | .stage k => execStage_keeps k s
  | .passCommandIssue p => execPassCommandIssue_keeps p s
  | .portTrain n lanes peer => execPortTrain_keeps n lanes peer s
  | .portDown n cause jobs => execPortDown_keeps n cause jobs s
  | .retrain fn n lanes peer jobs => execRetrain_keeps fn n lanes peer jobs s
  | .disable fn n value jobs => execDisable_keeps fn n value jobs s
  | .wireUnit n u => execWireUnit_keeps n u s
  | .packetForward n k => execPacketForward_keeps n k s
  | .packetStallTimeout n job => execPacketStallTimeout_keeps n job s
  | .dataPacket n k => execDataPacket_keeps n k s
  | .reducePacket n k => execReducePacket_keeps n k s
  | .localContribution core slot => execLocalContribution_keeps core slot s
  | .ackPacket n k => execAckPacket_keeps n k s
  | .scalarPacket n k => execScalarPacket_keeps n k s
  | .creditPacket n k => execCreditPacket_keeps n k s
  | .jobAdmit k b => execJobAdmit_keeps k b s
  | .install k rec sigOk => execInstall_keeps k rec sigOk s
  | .switch k => execSwitch_keeps k s
  | .graceEnd k => execGraceEnd_keeps k s
  | .protectionDelta n k => execProtectionDelta_keeps n k s
  | .dack n k => execDack_keeps n k s
  | .mirror n k => execMirror_keeps n k s
  | .mack n k => execMack_keeps n k s
  | .sag n k => execSag_keeps n k s
  | .rbReq n k units => execRbReq_keeps n k units s
  | .rbData n k checksOk => execRbData_keeps n k checksOk s
  | .protectionResend p ix => execProtectionResend_keeps p ix s
  | .jobHalt k => execJobHalt_keeps k s
  | .jobResume k block => execJobResume_keeps k block s
  | .rebuildMember k block committed => execRebuildMember_keeps k block committed s
  | .rebuildRecords k block list => execRebuildRecords_keeps k block list s
  | .rebuildParity k block => execRebuildParity_keeps k block s
  | .probe k expected => execProbe_keeps k expected s
  | .jobEvict n block sigOk devOk => execJobEvict_keeps n block sigOk devOk s
  | .bedWithdraw n block sigOk devOk => execBedWithdraw_keeps n block sigOk devOk s
  | .dgSet k block => execDgSet_keeps k block s
  | .dgJoin k => execDgJoin_keeps k s
  | .dgLeave k => execDgLeave_keeps k s
  | .dgStep k => execDgStep_keeps k s
  | .decodeRowArrival d slot core row => execDecodeRowArrival_keeps d slot core row s
  | .deadlineExpiry d => execDeadlineExpiry_keeps d s
  | .gatheredTileDelivery d => execGatheredTileDelivery_keeps d s
  | .functionLevelReset port vf => execFunctionLevelReset_keeps port vf s
  | .tdispRequest port vf msg session => execTdispRequest_keeps port vf msg session s
  | .layoutSwitch n block sigOk devOk => execLayoutSwitch_keeps n block sigOk devOk s
  | .ctxOpen fn k => execOpen_keeps fn k s
  | .resume fn k => execResume_keeps fn k s
  | .flush fn k => execFlush_keeps fn k s
  | .teardown fn k => execTeardown_keeps fn k s
  | .close fn k => execClose_keeps fn k s
  | .teardownEnd k => execTeardownEnd_keeps k s
  | .sqDoorbell fn q value => execSqDoorbell_keeps fn q value s
  | .descriptorFetch q data next => execDescriptorFetch_keeps q data next s
  | .cqHeadWrite fn q value => execCqHeadWrite_keeps fn q value s
  | .evmaskWrite fn k value => execEvmaskWrite_keeps fn k value s
  | .watchdogExpired p => execWatchdogExpired_keeps p s
  | .getVersion e => execGetVersion_keeps e s
  | .getCapabilities e => execGetCapabilities_keeps e s
  | .negotiateAlgorithms e => execNegotiateAlgorithms_keeps e s
  | .getDigests e => execGetDigests_keeps e s
  | .getCertificate e slot => execGetCertificate_keeps e slot s
  | .challenge e slot => execChallenge_keeps e slot s
  | .getMeasurements e index => execGetMeasurements_keeps e index s
  | .keyExchange e => execKeyExchange_keeps e s
  | .finish e id ok => execFinish_keeps e id ok s
  | .heartbeat e id => execHeartbeat_keeps e id s
  | .keyUpdate e id => execKeyUpdate_keeps e id s
  | .endSession e id => execEndSession_keeps e id s
  | .keyProg port session stream kset vf key => execKeyProg_keeps port session stream kset vf key s
  | .kSetGo port session stream kset => execKSetGo_keeps port session stream kset s
  | .kSetStop port session stream kset => execKSetStop_keeps port session stream kset s
  | .query port session => execQuery_keeps port session s
  | .tenantSetup port vf session payload => execTenantSetup_keeps port vf session payload s
  | .bindContext port vf session payload => execBindContext_keeps port vf session payload s
  | .getUsageHead port vf session payload => execGetUsageHead_keeps port vf session payload s
  | .partitionErase fn session p => execPartitionErase_keeps fn session p s
  | .timeSet n block sigOk devOk => execTimeSet_keeps n block sigOk devOk s
  | .tamperEvent sensors => execTamperEvent_keeps sensors s
  | .usageBoundary => execUsageBoundary_keeps s
  | .usageRingWrite n => execUsageRingWrite_keeps n s
  | .inputSample vin iin pd => execInputSample_keeps vin iin pd s
  | .sagEvent => execSagEvent_keeps s
  | .sagEventEnd => execSagEventEnd_keeps s
  | .powerFailSequence => execPowerFailSequence_keeps s
  | .frameEdge ival => execFrameEdge_keeps ival s
  | .frameTimeout => execFrameTimeout_keeps s
  | .internalFrameEdge => execInternalFrameEdge_keeps s
  | .homeSlotStart => execHomeSlotStart_keeps s
  | .almanacTick ix => execAlmanacTick_keeps ix s
  | .commandDue k id => execCommandDue_keeps k id s
  | .belvedereEvent line => execBelvedereEvent_keeps line s
  | .heartbeatLost missing => execHeartbeatLost_keeps missing s
  | .aliveToggle => execAliveToggle_keeps s
  | .chkStart fn u alive fed => execChkStart_keeps fn u alive fed s
  | .chkEnd fn u fed => execChkEnd_keeps fn u fed s
  | .chkReset fn u => execChkReset_keeps fn u s
  | .chkD8 fn u value fed => execChkD8_keeps fn u value fed s
  | .chkD16 fn u value fed => execChkD16_keeps fn u value fed s
  | .chkD32 fn u value fed => execChkD32_keeps fn u value fed s
  | .chkAssign fn u value => execChkAssign_keeps fn u value s
  | .inputQualifies b => execInputQualifies_keeps b s
  | .resetNRelease b => execResetNRelease_keeps b s
  | .warmRestart b => execWarmRestart_keeps b s
  | .sectorErase fn => execSectorErase_keeps fn s
  | .pageProgram fn => execPageProgram_keeps fn s
  | .cfgFlData fn value => execCfgFlData_keeps fn value s
  | .flashOperationComplete ok => execFlashOperationComplete_keeps ok s
  | .perstNAssert n => execPerstNAssert_keeps n s
  | .perstNRelease n => execPerstNRelease_keeps n s
  | .cableSeated c => execCableSeated_keeps c s
  | .cableRemoved c jobs => execCableRemoved_keeps c jobs s
  | .extest cells => execExtest_keeps cells s
  | .samplePreload cells => execSamplePreload_keeps cells s
  | .idcode => execIdcode_keeps s
  | .bypass => execBypass_keeps s
  | .sqNop core task => execSqNop_keeps core task s
  | .sqLi core task => execSqLi_keeps core task s
  | .sqAlu core task => execSqAlu_keeps core task s
  | .sqLoop core task => execSqLoop_keeps core task s
  | .sqBr core task => execSqBr_keeps core task s
  | .sqLdw core task => execSqLdw_keeps core task s
  | .sqStw core task => execSqStw_keeps core task s
  | .sqEnd core task => execSqEnd_keeps core task s
  | .cfReg core task => execCfReg_keeps core task s
  | .cfWin core task => execCfWin_keeps core task s
  | .cfTask core task => execCfTask_keeps core task s
  | .cfRng core task => execCfRng_keeps core task s
  | .resetNAssert => execResetNAssert_keeps s
  | .backupCellExhausted => execBackupCellExhausted_keeps s
  | .vfConfigChange port vf => execVfConfigChange_keeps port vf s
  | .testLogicReset => execTestLogicReset_keeps s

/-- What an answered command keeps, in the fields that `State.ident` collects. -/
theorem exec_ident {i : Instr} {s t : State} (h : exec i s = .next t) : t.ident = s.ident := by
  obtain ⟨u, hu, hi⟩ := exec_keeps i s
  obtain rfl : t = u := by simpa [hu] using h.symm
  exact hi

/-- A step keeps the variant and the silicon revision. -/
theorem step_cfg {s t : State} (h : step s = .next t) : t.cfg.variant = s.cfg.variant ∧ t.cfg.rev = s.cfg.rev := by
  unfold step at h
  split at h
  case h_1 =>
    cases h
    exact ⟨rfl, rfl⟩
  case h_2 c rest _ =>
    have hi := exec_ident h
    simp only [State.ident, Prod.mk.injEq] at hi
    exact hi.2

/-- The capability words before BED_USABLE come from the variant and the revision (R7). -/
theorem capWords_take_of_cfg {s t : State} (hv : t.cfg.variant = s.cfg.variant) (hr : t.cfg.rev = s.cfg.rev) :
    (capWords t).take 4 = (capWords s).take 4 := by
  simp [capWords, State.var, hv, hr]

/-- The lower half of CFG_BEDS comes from the variant (R9). -/
theorem capWords_beds_of_variant {s t : State} (hv : t.cfg.variant = s.cfg.variant) :
    (capWords t).getD 4 0 % 65536 = (capWords s).getD 4 0 % 65536 := by
  simp [capWords, State.var, hv, Nat.add_mod]

/-- Settles O5: no command changes the identity, from which the capability words come. -/
theorem identityIsFixed : Obligations.IdentityIsFixed := by
  unfold Obligations.IdentityIsFixed
  intro s t h
  obtain ⟨hv, hr⟩ := step_cfg h
  exact ⟨hv, hr, capWords_take_of_cfg hv hr, capWords_beds_of_variant hv⟩

/-- Settles O3: every arm of `exec` answers a next state. -/
theorem everyCommandAnswers : Obligations.EveryCommandAnswers := by
  unfold Obligations.EveryCommandAnswers
  intro c s
  obtain ⟨t, ht, _⟩ := exec_keeps c s
  exact ⟨t, ht⟩

end Sys2Proof.Machine
end

section
/-! SUPPORT. Accesses to the control window (R16, R424, R461): what `fitAccess` lets through, and what a 4-byte read of each kind of place
does. -/
namespace Sys2Proof.Machine
open Sys2Proof

/-- An access of another width than 4 and 8, or off its width, does not fit. -/
theorem fitAccess_eq_false {a w : Nat} (h : (w ≠ 4 ∧ w ≠ 8) ∨ a % w ≠ 0) : fitAccess ⟨a, w⟩ = false := by
  simp only [fitAccess, Bool.and_eq_false_iff, Bool.or_eq_false_iff, beq_eq_false_iff_ne]
  exact h

theorem fitAccess_four {a : Nat} (h : a % 4 = 0) : fitAccess ⟨a, 4⟩ = true := by simp [fitAccess, h]

theorem fitAccess_eight {a : Nat} (h : a % 8 = 0) : fitAccess ⟨a, 8⟩ = true := by simp [fitAccess, h]

section
variable {s : State} {fn : Fn} {a v w : Nat} {x : Place}

theorem execRegisterWrite_of_unfit (h : fitAccess ⟨a, w⟩ = false) : execRegisterWrite fn ⟨a, w⟩ v s = .next s := by
  simp [execRegisterWrite, h]

theorem execCounterLowHalfRead_of_unfit (h : fitAccess ⟨a, w⟩ = false) :
    execCounterLowHalfRead fn ⟨a, w⟩ s = .next { s with readOut := 0 } := by
  simp [execCounterLowHalfRead, h]

theorem execRegisterWrite_four (h : a % 4 = 0) : execRegisterWrite fn ⟨a, 4⟩ v s = .next (writeAt fn a v s) := by
  simp [execRegisterWrite, fitAccess_four h]

theorem execCounterLowHalfRead_four (h : a % 4 = 0) : execCounterLowHalfRead fn ⟨a, 4⟩ s = .next (readAt fn a s) := by
  simp [execCounterLowHalfRead, fitAccess_four h]

theorem execRegisterWrite_eight (h : a % 8 = 0) :
    execRegisterWrite fn ⟨a, 8⟩ v s = .next (writeAt fn (a + 4) (v / 2 ^ 32) (writeAt fn a v s)) := by
  simp [execRegisterWrite, fitAccess_eight h, two32]

theorem execCounterLowHalfRead_eight (h : a % 8 = 0) :
    execCounterLowHalfRead fn ⟨a, 8⟩ s =
      .next { readAt fn (a + 4) (readAt fn a s) with
        readOut := (readAt fn a s).readOut + 2 ^ 32 * (readAt fn (a + 4) (readAt fn a s)).readOut } := by
  simp [execCounterLowHalfRead, fitAccess_eight h, two32]

theorem writeAt_of_place (h : place s fn a = some x) : writeAt fn a v s = writePlace s fn (v % 2 ^ 32) x := by
  simp [writeAt, h, two32]

theorem writeAt_of_no_place (h : place s fn a = none) : writeAt fn a v s = s := by simp [writeAt, h]

/-- R16: the low half of a counter latches its high half. -/
theorem readAt_of_counterLow (hx : place s fn a = some x) (hc : counterLow x = true) (ht : tdiShut s (isMgmt fn) x = false) :
    readAt fn a s = { s with
      readOut := readLive s (isMgmt fn) x
      latch := Tbl.set s.latch (placeOff (nextPlace x)) (readLive s (isMgmt fn) (nextPlace x)) } := by
  simp [readAt, hx, hc, ht]

/-- R16: any other place reads a latched high half if it has one, and uses it up. -/
theorem readAt_of_not_counterLow (hx : place s fn a = some x) (hc : counterLow x = false) (ht : tdiShut s (isMgmt fn) x = false) :
    readAt fn a s = readEffect x { s with
      readOut := (Tbl.find s.latch (placeOff x)).getD (readLive s (isMgmt fn) x)
      latch := Tbl.del s.latch (placeOff x) } := by
  cases hl : Tbl.find s.latch (placeOff x) <;> simp [readAt, regRead, hx, hc, ht, hl]

/-- R424: the place of word 0 of history entry `i` latches the entry's other words. -/
theorem readEffect_history (s : State) (m : Nat) {i : Nat} (hi : i < 16) :
    readEffect (.blv m (0x100 + 16 * i)) s = histLatch s i := by
  have hin : within 0x100 0x1FF (0x100 + 16 * i) = true := by
    simp only [within, Bool.and_eq_true, decide_eq_true_eq]
    omega
  have hword : (0x100 + 16 * i) % 16 = 0 := by omega
  simp [readEffect, hin, hword]

/-- A read of any other place does nothing else. -/
theorem readEffect_other (s : State) (h : ∀ m i, i < 16 → x ≠ .blv m (0x100 + 16 * i)) : readEffect x s = s := by
  unfold readEffect
  split
  case h_1 m o =>
    refine if_neg fun hw => ?_
    simp only [within, Bool.and_eq_true, decide_eq_true_eq, beq_iff_eq] at hw
    obtain ⟨⟨hlo, hhi⟩, hword⟩ := hw
    refine h m ((o - 0x100) / 16) (by omega) (congrArg (Place.blv m) ?_)
    omega
  case h_2 => rfl

/-- R424: a management function's read of word 0 of a history entry. -/
theorem execHistoryWord0Read_mgmt {n e : Nat} (hn : bit (hostMask s.var) n = true) (he : e < 16) :
    execHistoryWord0Read (.mgmt n) e s = .next { s with
      readOut := Tbl.get 0 s.blv.hist e % 2 ^ 32
      blv := { s.blv with latch := Tbl.set s.blv.latch e (Tbl.get 0 s.blv.hist e / 2 ^ 32) } } := by
  have : ¬ 16 ≤ e := by omega
  simp [execHistoryWord0Read, hn, this, histLatch, two32]

end

/-- Settles O60: the clauses of a write and of a read by what the access names, then the state after reset. -/
theorem registersAndReset : Obligations.RegistersAndReset := by
  unfold Obligations.RegistersAndReset
  refine ⟨fun s fn a v n e x => ⟨fun w hw => ?unfit, fun ha u t hu ht => ?eight, fun ha hx => ?write, fun ha hx => ?noPlace,
    fun ha hx hc ht => ?low, fun ha hx hc ht => ⟨fun m i hi hxi => ?history, fun hno => ?other⟩,
    fun hn he => execHistoryWord0Read_mgmt hn he⟩, ?reset⟩
  case unfit =>
    have hf := fitAccess_eq_false hw
    exact ⟨execRegisterWrite_of_unfit hf, execCounterLowHalfRead_of_unfit hf⟩
  case eight =>
    have ha0 : a % 4 = 0 := by omega
    have ha4 : (a + 4) % 4 = 0 := by omega
    obtain rfl : writeAt fn a v s = u := by simpa [exec, execRegisterWrite_four ha0] using hu
    obtain rfl : readAt fn a s = t := by simpa [exec, execCounterLowHalfRead_four ha0] using ht
    refine ⟨(execRegisterWrite_eight ha).trans (execRegisterWrite_four ha4).symm, fun h hh => ?_⟩
    obtain rfl : readAt fn (a + 4) (readAt fn a s) = h := by simpa [exec, execCounterLowHalfRead_four ha4] using hh
    exact execCounterLowHalfRead_eight ha
  case write => exact (execRegisterWrite_four ha).trans (congrArg _ (writeAt_of_place hx))
  case noPlace => exact (execRegisterWrite_four ha).trans (congrArg _ (writeAt_of_no_place hx))
  case low =>
    exact ⟨_, (execCounterLowHalfRead_four ha).trans (congrArg _ (readAt_of_counterLow hx hc ht)), rfl, rfl, Tbl.find_set_same ..⟩
  case history =>
    subst hxi
    refine (execCounterLowHalfRead_four ha).trans
      (congrArg _ ((readAt_of_not_counterLow hx hc ht).trans ((readEffect_history _ m hi).trans ?_)))
    cases Tbl.find s.latch (placeOff (.blv m (0x100 + 16 * i))) <;> rfl
  case other =>
    refine (execCounterLowHalfRead_four ha).trans
      (congrArg _ ((readAt_of_not_counterLow hx hc ht).trans ((readEffect_other _ hno).trans ?_)))
    cases Tbl.find s.latch (placeOff x) <;> rfl
  case reset =>
    exact ⟨rfl, rfl, rfl, rfl, rfl, rfl, rfl, rfl, rfl, rfl, fun _ => rfl, fun _ => rfl, fun _ => rfl⟩

end Sys2Proof.Machine
end

section
/-! SUPPORT. Core-class commands (R95, R96, R283, R341, R366): what the scheduler does with a granted and with a chosen candidate, and what
STAGE, PROBE and the end on a core do. -/
namespace Sys2Proof.Machine
open Sys2Proof

section
variable {s : State} {p k n : Nat} {c : Cand} {cs : List Cand} {m : Cmd} {img : Image} {t : StageTable}

/-- A granted candidate issues, or is refused. -/
theorem schedCore_of_granted (hrun : (s.sched p).run = none)
    (hc : (coreCands s p).find? (fun c => candPhase s c == .granted) = some c) :
    schedCore s p c.pass.isSome = (candRefusal s c).elim (issueCand s p c) (refuseCand s c) := by
  cases hr : candRefusal s c <;> simp [schedCore, hrun, hc, hr]

/-- With no candidate granted the first one is chosen; one that waits asks for credit, or is refused. -/
theorem schedCore_of_chosen (hrun : (s.sched p).run = none) (hcs : coreCands s p = c :: cs)
    (hg : (c :: cs).find? (fun c => candPhase s c == .granted) = none) (hw : candPhase s c = .waiting) :
    schedCore s p c.pass.isSome =
      (candRefusal s c).elim (setCandPhase (choose s p c) c .asking) (refuseCand (choose s p c) c) := by
  simp only [schedCore, hrun, hcs, hg]
  cases candRefusal s c <;> simp [hw]

/-- A RUN and a pass command are the commands of the two kinds of candidate. -/
theorem exec_run_of_run (hp : c.pass = none) : exec (.run p) s = .next (schedCore s p c.pass.isSome) := by
  rw [hp]
  rfl

theorem exec_pass_of_pass (hp : c.pass.isSome = true) : exec (.passCommandIssue p) s = .next (schedCore s p c.pass.isSome) := by
  rw [hp]
  rfl

theorem refuseCand_of_run {st : Nat} (hp : c.pass = none) : refuseCand s c st = refuseCmd s c.key c.cmd.id st 0 := by
  simp [refuseCand, hp]

theorem refuseCand_of_pass {st : Nat} (hp : c.pass.isSome = true) : refuseCand s c st = stageFail s c.key c.cmd st := by
  simp [refuseCand, hp]

/-- R10: with a withdrawn bed a candidate is refused, for want of its plan or for the absent bed. -/
theorem candRefusal_of_bedGone (himg : (s.ctx c.key).image.isSome = true) (hb : bedGone s c.key = true) :
    candRefusal s c = some 0x01 ∨ candRefusal s c = some 0x05 := by
  obtain ⟨img, himg⟩ := Option.isSome_iff_exists.mp himg
  cases hp : img.plans[candPlan c]? with
  | none => exact .inr (by simp [candRefusal, himg, hp, stMalformed])
  | some pl => exact .inl (by simp [candRefusal, himg, hp, hb, stUnitAbsent])

/-- R366: the context of the chosen candidate is current. -/
theorem choose_cur : ((choose s p c).sched p).cur = keyCtx c.key := by
  simp only [choose, State.setSched_sched, makeCurrent]
  split
  case isTrue h =>
    simp only [Bool.and_eq_true, decide_eq_true_eq] at h
    exact h.1
  case isFalse => rfl

theorem execStage_of_issuable (hi : issuable s k opStage = some m) (hb : coreBusy s k = false) (himg : (s.ctx k).image = some img)
    (ht : img.stage = some t) :
    execStage k s = .next (if bedGone s k = true then refuseCmd s k m.id 0x01 0 else stageBegin s k m false none) := by
  simp [execStage, hi, hb, himg, ht, stUnitAbsent]

section probe
variable {expected : Bytes} (hi : issuable s k opProbe = some m) (hb : coreBusy s k = false) (himg : (s.ctx k).image = some img)
  (ht : img.probe = some t)
include hi hb himg ht

theorem execProbe_of_bedGone (hg : bedGone s k = true) : execProbe k expected s = .next (refuseCmd s k m.id 0x01 0) := by
  simp [execProbe, hi, hb, himg, ht, hg, stUnitAbsent]

theorem execProbe_of_mapped (hg : bedGone s k = false) (h1 : hostMapped s (keyPart k) m.desc.arg1 32 = true)
    (h2 : m.desc.arg2 ≠ 0 → hostMapped s (keyPart k) m.desc.arg2 32 = true) :
    execProbe k expected s = .next (stageBegin s k m true (if m.desc.arg2 = 0 then none else some expected)) := by
  have hmap : ¬ (hostMapped s (keyPart k) m.desc.arg1 32 = false ∨
      ¬ m.desc.arg2 = 0 ∧ hostMapped s (keyPart k) m.desc.arg2 32 = false) := by
    rintro (h | ⟨h0, h⟩)
    · simp [h1] at h
    · simp [h2 h0] at h
  simp [execProbe, hi, hb, himg, ht, hg, hmap]

end probe

/-- A core's flags go to its command alone: the context's opening is as before. -/
@[simp] theorem openingId_gatherFlags (s : State) (k id : Nat) (c : Core) : openingId (gatherFlags s k id c) k = openingId s k := by
  simp [openingId, gatherFlags, updCmd]

@[simp] theorem gatherFlags_sched (s : State) (k id : Nat) (c : Core) (q : Nat) : (gatherFlags s k id c).sched q = s.sched q := rfl

/-- R95: the end of a command on a core of its run. -/
theorem execCommandEndOnCore_of_ended {r : Running} (hcmd : (s.core n).cmd.isSome = true)
    (hrun : (s.sched (cmdPart (cmdOf s n))).run = some r) (hend : coreEnded (s.core n) = true) (hn : n ∈ r.cores) :
    execCommandEndOnCore n s = .next (runEnd
      (((gatherFlags s r.key r.cmd (s.core n)).setCore n (quietCore (s.core n) (openingId s r.key) 0)).setSched (cmdPart (cmdOf s n))
        { s.sched (cmdPart (cmdOf s n)) with run := some { r with cores := r.cores.filter (· != n) } }) (cmdPart (cmdOf s n))) := by
  simp only [execCommandEndOnCore, cmd_of hcmd, hrun]
  simp [hend, hn, stOk]

end

/-- Settles O42: the scheduler's cases, then STAGE, PROBE and the end on a core. -/
theorem coreCommands : Obligations.CoreCommands := by
  unfold Obligations.CoreCommands
  intro s p k n c m img t expected
  refine ⟨fun hrun hc => ⟨fun hok => ⟨fun hp => ?_, fun hp => ?_⟩, fun st hst => ⟨fun hp => ?_, fun hp => ?_⟩, candRefusal_of_bedGone⟩,
    fun cs hrun hcs hg hw => ⟨fun hok => ⟨fun hp => ?_, fun hp => ?_⟩, fun st hst => ⟨fun hp => ?_, fun hp => ?_⟩, choose_cur⟩,
    execStage_of_issuable,
    fun hi hb himg ht => ⟨execProbe_of_bedGone hi hb himg ht, execProbe_of_mapped hi hb himg ht⟩,
    fun r => execCommandEndOnCore_of_ended⟩
  · rw [exec_run_of_run hp, schedCore_of_granted hrun hc, hok, Option.elim_none]
  · rw [exec_pass_of_pass hp, schedCore_of_granted hrun hc, hok, Option.elim_none]
  · rw [exec_run_of_run hp, schedCore_of_granted hrun hc, hst, Option.elim_some, ← refuseCand_of_run hp]
  · rw [exec_pass_of_pass hp, schedCore_of_granted hrun hc, hst, Option.elim_some, ← refuseCand_of_pass hp]
  · rw [exec_run_of_run hp, schedCore_of_chosen hrun hcs hg hw, hok, Option.elim_none]
  · rw [exec_pass_of_pass hp, schedCore_of_chosen hrun hcs hg hw, hok, Option.elim_none]
  · rw [exec_run_of_run hp, schedCore_of_chosen hrun hcs hg hw, hst, Option.elim_some, ← refuseCand_of_run hp]
  · rw [exec_pass_of_pass hp, schedCore_of_chosen hrun hcs hg hw, hst, Option.elim_some, ← refuseCand_of_pass hp]

end Sys2Proof.Machine
end

section
/-! SUPPORT. The interrupt of the usage ring (R348, R391): function 0 has eight vectors, and GTH_USE_CTL.VECTOR has six bits (R393). -/
namespace Sys2Proof.Machine
open Sys2Proof

/-- On a vector that function 0 does not have nothing is sent. -/
theorem sendIrq_of_no_vector (s : State) (n : Nat) {v : Nat} (hv : 8 ≤ v) : sendIrq s n 0 v = s := by
  simp [sendIrq, hv]

/-- A ring whose vector function 0 does not have takes its records without an interrupt. -/
theorem execUsageRingWrite_irqs {s t : State} {n : Nat} (hv : 8 ≤ (Tbl.get {} s.gth.rings n).vector)
    (h : execUsageRingWrite n s = .next t) : t.irqs = s.irqs := by
  unfold execUsageRingWrite at h
  dsimp only at h
  split at h
  case h_1 =>
    cases h
    rfl
  case h_2 u _ =>
    split at h
    case isTrue =>
      cases h
      rfl
    case isFalse =>
      rw [sendIrq_of_no_vector _ _ hv] at h
      cases h
      rfl

/-- The value that enables a usage ring of 64 records with interrupt vector 8 (R393). -/
def ringCtlVector8 : Nat := 2 ^ 31 + 8 * 2 ^ 8 + 6

/-- Port 0 is up and owns partition 0, of which one usage record waits; its ring has been set up by a write of `ringCtlVector8` to
GTH_USE_CTL. -/
def recordWaits : State :=
  writeGth
    { lay := { active := { entries := [{ used := true }] } }, units := { ports := [(0, { up := true })] }
      gth := { store := [{ seq := 1 }] } }
    0 0x28 ringCtlVector8

theorem recordWaits_ring : Tbl.get {} recordWaits.gth.rings 0 = { enable := true, vector := 8, log2 := 6 } := by decide

/-- Refutes O53: the record enters its ring, but with VECTOR = 8, which function 0 does not have, no interrupt is sent. -/
theorem not_gatehouseRecords : ¬ Obligations.GatehouseRecords := by
  unfold Obligations.GatehouseRecords
  intro h
  obtain ⟨-, -, -, -, hring⟩ := h recordWaits 0 0 {} [] true true { seq := 1 }
  obtain ⟨t, ht, -, -, -, hirqs, -⟩ := hring (by decide) (by decide) (by decide) (by decide) (by decide) (by decide)
  have hnone : t.irqs = recordWaits.irqs := execUsageRingWrite_irqs (n := 0) (by simp [recordWaits_ring]) ht
  exact List.cons_ne_self _ _ (hirqs.symm.trans hnone)

end Sys2Proof.Machine
end

section
/-! SUPPORT. Job commands (R306 to R310, R334, R335, R344, R365): what each does with the command that it finds, by its checks in order. -/
namespace Sys2Proof.Machine
open Sys2Proof

section
variable {s : State} {k n : Nat} {m : Cmd} {img : Image}

/-! ### JOB_ADMIT (R365, R376) -/

/-- An admission block verifies for partition `p` (R365, R376). -/
def admitVerifies (s : State) (p : Nat) (b : AdmitBlock) : Bool :=
  b.sigOk && b.keyOk && tenantKeys s p && b.wrapKey == jobWrapKey s p b.tag && memOk b.mem && b.mem.tag == b.tag &&
    decide (b.rank < b.mem.ranks.length)

/-- The checks that refuse an admission block are those that `admitVerifies` asks for. -/
theorem admitRefused_eq (s : State) (p : Nat) (b : AdmitBlock) :
    (!b.sigOk || !b.keyOk || !tenantKeys s p || b.wrapKey != jobWrapKey s p b.tag || !memOk b.mem || b.mem.tag != b.tag ||
      decide (b.mem.ranks.length ≤ b.rank)) = !admitVerifies s p b := by
  have hrank : decide (b.mem.ranks.length ≤ b.rank) = !decide (b.rank < b.mem.ranks.length) := by
    rw [← decide_not]
    exact decide_eq_decide.mpr Nat.not_lt.symm
  simp only [admitVerifies, Bool.not_and, hrank, bne]

section admission
variable {b : AdmitBlock} (hi : issuable s k opJobAdmit = some m)
include hi

theorem execJobAdmit_of_no_image (himg : (s.ctx k).image = none) : execJobAdmit k b s = .next (refuseCmd s k m.id 0x05 0) := by
  simp [execJobAdmit, hi, himg, stMalformed]

theorem execJobAdmit_of_bedGone (himg : (s.ctx k).image.isSome = true) (hb : bedGone s k = true) :
    execJobAdmit k b s = .next (refuseCmd s k m.id 0x01 0) := by
  obtain ⟨img, himg⟩ := Option.isSome_iff_exists.mp himg
  simp [execJobAdmit, hi, himg, hb, stUnitAbsent]

theorem execJobAdmit_of_unmapped (himg : (s.ctx k).image.isSome = true) (hb : bedGone s k = false)
    (hm : hostMapped s (keyPart k) m.desc.arg0 1 = false) : execJobAdmit k b s = .next (refuseCmd s k m.id 0x06 0) := by
  obtain ⟨img, himg⟩ := Option.isSome_iff_exists.mp himg
  simp [execJobAdmit, hi, himg, hb, hm, stParamUnmapped]

section mapped
variable (himg : (s.ctx k).image = some img) (hb : bedGone s k = false) (hm : hostMapped s (keyPart k) m.desc.arg0 1 = true)
include himg hb hm

theorem execJobAdmit_of_unverified (hv : admitVerifies s (keyPart k) b = false) :
    execJobAdmit k b s = .next (complete s k m.id { status := 0x19 }) := by
  simp only [execJobAdmit, hi, himg, hb, hm, admitRefused_eq, hv]
  rfl

theorem execJobAdmit_of_variant {r : Nat} (hv : admitVerifies s (keyPart k) b = true) (hr : variantMismatch s b = some r) :
    execJobAdmit k b s = .next (complete s k m.id { status := 0x1B, result := r }) := by
  simp only [execJobAdmit, hi, himg, hb, hm, admitRefused_eq, hv, hr]
  rfl

theorem execJobAdmit_of_memberFail {w : Nat} (hv : admitVerifies s (keyPart k) b = true) (hr : variantMismatch s b = none)
    (hw : memberFail (blockJob k b) img = some w) :
    execJobAdmit k b s = .next (complete s k m.id { status := 0x02, result := w }) := by
  simp only [execJobAdmit, hi, himg, hb, hm, admitRefused_eq, hv, hr, hw]
  rfl

theorem execJobAdmit_of_fit (hv : admitVerifies s (keyPart k) b = true) (hr : variantMismatch s b = none)
    (hw : memberFail (blockJob k b) img = none) :
    execJobAdmit k b s = .next (complete (admitJob s k b) k m.id { status := 0 }) := by
  simp only [execJobAdmit, hi, himg, hb, hm, admitRefused_eq, hv, hr, hw]
  rfl

end mapped

end admission

@[simp] theorem report_job (s : State) (line : Nat) (e : Evt) (p : Nat) : (report s line e).job p = s.job p := by
  unfold report
  dsimp only
  split <;> rfl

/-- The feed check reports and notes; it leaves the jobs. -/
@[simp] theorem feedCheck_job (s : State) (p q : Nat) : (feedCheck s p).job q = s.job q := by
  unfold feedCheck
  split
  · rfl
  · dsimp only
    exact List.foldlRecOn _ _ (motive := fun t => t.job q = s.job q) (State.setProt_job ..)
      (fun t ht i _ => (report_job t _ _ q).trans ht)

@[simp] theorem setJobLanterns_job (s : State) (p : Nat) (b : Bool) (role : Lantern → StepRole) (q : Nat) :
    (setJobLanterns s p b role).job q = s.job q := rfl

/-- R365: the admitted partition holds the job that the block describes. -/
theorem admitJob_job (s : State) (k : Nat) (b : AdmitBlock) : (admitJob s k b).job (keyPart k) = blockJob k b := by
  unfold admitJob
  dsimp only
  rw [feedCheck_job, setJobLanterns_job, State.setUpd_job, State.setProt_job]
  exact State.setJob_job ..

/-! ### JOB_EPOCH (R308 to R310) -/

/-- A membership record verifies for a job (R308, R310). -/
def recordVerifies (j : Job) (rec : Membership) (sigOk : Bool) : Bool := j.valid && sigOk && rec.tag == j.tag && memOk rec

theorem recordRefused_eq (j : Job) (rec : Membership) (sigOk : Bool) :
    (!j.valid || !sigOk || rec.tag != j.tag || !memOk rec) = !recordVerifies j rec sigOk := by
  simp only [recordVerifies, Bool.not_and, bne]

section epoch
variable {rec : Membership} {sigOk : Bool} (hi : issuable s k opJobEpoch = some m)
include hi

theorem execInstall_of_no_action (h0 : m.desc.arg0 % 4 = 0) : execInstall k rec sigOk s = .next (refuseCmd s k m.id 0x05 0) := by
  simp [execInstall, hi, h0, stMalformed]

theorem execInstall_of_unmapped (h1 : m.desc.arg0 % 4 = 1) (hm : hostMapped s (keyPart k) m.desc.arg1 1 = false) :
    execInstall k rec sigOk s = .next (refuseCmd s k m.id 0x06 0) := by
  simp [execInstall, hi, h1, hm, stParamUnmapped]

section install
variable (h1 : m.desc.arg0 % 4 = 1) (hm : hostMapped s (keyPart k) m.desc.arg1 1 = true)
include h1 hm

theorem execInstall_of_unverified (hv : recordVerifies (s.job (keyPart k)) rec sigOk = false) :
    execInstall k rec sigOk s = .next (complete s k m.id { status := 0x19 }) := by
  simp [execInstall, hi, h1, hm, recordRefused_eq, hv, stJobAuth]

theorem execInstall_of_next_epoch (hv : recordVerifies (s.job (keyPart k)) rec sigOk = true)
    (he : rec.epoch = (s.job (keyPart k)).epoch + 1) (hp : (s.job (keyPart k)).phase = .steady) :
    execInstall k rec sigOk s = .next (complete (install s (keyPart k) rec) k m.id { status := 0 }) := by
  simp [execInstall, hi, h1, hm, recordRefused_eq, hv, he, hp, stOk]

theorem execInstall_of_order (hv : recordVerifies (s.job (keyPart k)) rec sigOk = true)
    (hor : rec.epoch ≠ (s.job (keyPart k)).epoch + 1 ∨ (s.job (keyPart k)).phase ≠ .steady) :
    execInstall k rec sigOk s = .next (complete s k m.id { status := 0x1A }) := by
  simp [execInstall, hi, h1, hm, recordRefused_eq, hv, hor, stEpochOrder]

end install

theorem execSwitch_of_action (h2 : m.desc.arg0 % 4 = 2) :
    execSwitch k s = .next (if (s.job (keyPart k)).valid = true ∧ (s.job (keyPart k)).phase = .installed
      then complete (s.setJob (keyPart k) { s.job (keyPart k) with
        phase := .switched, sendEp := (s.job (keyPart k)).epoch, pctr := 0 }) k m.id { status := 0 }
      else complete s k m.id { status := 0x1A }) := by
  by_cases hv : (s.job (keyPart k)).valid = true <;> by_cases hp : (s.job (keyPart k)).phase = .installed <;>
    simp [execSwitch, hi, h2, hv, hp, stEpochOrder, stOk]

theorem execGraceEnd_of_action (h3 : m.desc.arg0 % 4 = 3) :
    execGraceEnd k s = .next (if (s.job (keyPart k)).valid = true ∧ (s.job (keyPart k)).phase = .switched
      then complete (s.setJob (keyPart k) { s.job (keyPart k) with
        phase := .steady, keyOld := none
        rx := (s.job (keyPart k)).rx.filter (fun x => x.1 / 1024 == (s.job (keyPart k)).epoch % 2 ^ 32) }) k m.id { status := 0 }
      else complete s k m.id { status := 0x1A }) := by
  by_cases hv : (s.job (keyPart k)).valid = true <;> by_cases hp : (s.job (keyPart k)).phase = .switched <;>
    simp [execGraceEnd, hi, h3, hv, hp, stEpochOrder, stOk, two32]

end epoch

/-! ### JOB_HALT (R334, R364) -/

/-- Of another context than its own a JOB_HALT counts what was submitted before it by the doorbell writes (R364). -/
theorem submitted_of_ne {u : State} {c : Nat} {x : Cmd} (hc : c ≠ k) : submitted u k m c x = decide (x.subNo < m.subNo) := by
  simp [submitted, hc]

theorem halts_iff {u : State} {c : Nat} {x : Cmd} (hc : c ≠ k) :
    halts u k m c x = true ↔ x.subNo < m.subNo ∧ sweepRuns u c x.id = false ∧ ¬ (x.desc.opcode = opJobHalt ∧ x.phase = .issued) := by
  simp only [halts, submitted_of_ne hc, Bool.and_eq_true, Bool.not_eq_true', Bool.and_eq_false_imp, decide_eq_true_eq, beq_iff_eq,
    beq_eq_false_iff_ne, not_and]
  exact and_comm

theorem haltsSweep_iff {u : State} {c id : Nat} {x : Cmd} (hc : c ≠ k) (hcmd : (u.upd (keyPart k)).cmd = some (c, id))
    (hx : (u.ctx c).q.cmds.find? (fun y => y.id == id) = some x) :
    haltsSweep u k m = true ↔ (u.upd (keyPart k)).normSeen = true ∧ x.subNo < m.subNo := by
  simp [haltsSweep, hcmd, hx, submitted_of_ne hc]

/-- JOB_HALT `m` of context `k` ends the running core-class command that it stops (R334 action 1). -/
def haltCore (s : State) (k : Nat) (m : Cmd) : State :=
  match (s.sched (keyPart k)).run with
  | some r => if haltsId s k m r.key r.cmd then endCore s (keyPart k) 0x12 else s
  | none => s

/-- It ends the running engine-class command that it stops. -/
def haltEngine (s : State) (k : Nat) (m : Cmd) : State :=
  match (s.sched (keyPart k)).eng with
  | some (c, id) => if haltsId s k m c id then endEngine s (keyPart k) 0x12 else s
  | none => s

/-- It ends what waits in the queues of the partition's contexts. -/
def haltQueues (s : State) (k : Nat) (m : Cmd) : State :=
  (openKeys s (keyPart k)).foldl (fun s c =>
    let s := endCmds s c 0x12 (halts s k m c)
    if c = k then s else cutBefore s c 0x12 m.subNo) s

/-- It waits for a sweep that runs, and completes without one (R334 action 2). -/
def haltSweep (s : State) (k : Nat) (m : Cmd) : State :=
  if haltsSweep s k m
    then settleUpd (resendChanged (s.setUpd (keyPart k) { s.upd (keyPart k) with halt := true }) (keyPart k)) (keyPart k)
  else finishHalt s (keyPart k)

theorem execJobHalt_of_issuable (hi : issuable s k opJobHalt = some m) :
    execJobHalt k s =
      .next (haltSweep (haltQueues (haltEngine (haltCore (setPhase s k m.id .issued) k m) k m) k m) k m) := by
  unfold execJobHalt haltSweep
  rw [hi, apply_ite Host.Outcome.next]
  rfl

/-! ### JOB_RESUME (R335) -/

theorem two32_eq : two32 = 2 ^ 32 := rfl

section resume
variable {block : Bytes} (hi : issuable s k opJobResume = some m)
include hi

theorem execJobResume_of_unmapped (hm : hostMapped s (keyPart k) m.desc.arg1 576 = false) :
    execJobResume k block s = .next (refuseCmd s k m.id 0x06 0) := by
  simp [execJobResume, hi, hm, stParamUnmapped]

section mapped
variable (hm : hostMapped s (keyPart k) m.desc.arg1 576 = true)
include hm

theorem execJobResume_of_not_canResume (hc : canResume s (keyPart k) (m.desc.arg0 % 2 ^ 32) = false) :
    execJobResume k block s = .next (complete s k m.id { status := 0x1C, result := committedOf s (keyPart k) }) := by
  rw [← two32_eq] at hc
  simp [execJobResume, hi, hm, hc, stResume]

theorem execJobResume_of_no_sweep (hc : canResume s (keyPart k) (m.desc.arg0 % 2 ^ 32) = true)
    (hs : resumeSweeps s (keyPart k) (m.desc.arg0 % 2 ^ 32) = false) :
    execJobResume k block s = .next (complete (resumeState s (keyPart k) (m.desc.arg0 % 2 ^ 32) (parseBlock block)) k m.id
      { status := 0, result := m.desc.arg0 % 2 ^ 32 }) := by
  rw [← two32_eq] at hc hs ⊢
  simp [execJobResume, hi, hm, hc, hs, stOk]

theorem execJobResume_of_sweep (hc : canResume s (keyPart k) (m.desc.arg0 % 2 ^ 32) = true)
    (hs : resumeSweeps s (keyPart k) (m.desc.arg0 % 2 ^ 32) = true) :
    execJobResume k block s = .next (complete (resumeState
      (rollSweep s (keyPart k) (k, m.id) (parseBlock block) (m.desc.arg2 % 2 ^ 32))
      (keyPart k) (m.desc.arg0 % 2 ^ 32) (parseBlock block)) k m.id { status := 0, result := m.desc.arg0 % 2 ^ 32 }) := by
  rw [← two32_eq] at hc hs ⊢
  simp [execJobResume, hi, hm, hc, hs, stOk]

end mapped

end resume

theorem canResume_iff {p c : Nat} : canResume s p c = true ↔
    (s.prot p).restored = true ∨ c = committedOf s p ∧ (s.prot p).evSwept = false ∨ c = committedOf s p + 1 := by
  simp [canResume, or_assoc]

theorem canResume_eq_false {p c : Nat} (hwhole : (s.prot p).restored = false) (hn : c ≠ committedOf s p + 1)
    (hor : c ≠ committedOf s p ∨ (s.prot p).evSwept = true) : canResume s p c = false := by
  simpa [canResume, hwhole, hn, imp_iff_not_or] using hor

theorem resumeSweeps_eq_false {p c : Nat} (h : c = committedOf s p + 1 → (s.prot p).evSwept = true) :
    resumeSweeps s p c = false := by
  simpa [resumeSweeps] using h

theorem resumeSweeps_iff {p c : Nat} : resumeSweeps s p c = true ↔ c = committedOf s p + 1 ∧ (s.prot p).evSwept = false := by
  simp [resumeSweeps]

/-! ### JOB_EVICT (R344) -/

theorem execJobEvict_of_head {block : Bytes} {sigOk devOk : Bool} (h : mgmtHead s n opJobEvict = some m) :
    execJobEvict n block sigOk devOk s = .next (if sbFails s block opJobEvict 4 s.gth.mgmtCtr sigOk devOk
      then completeMgmt s n m.id { status := 0x23 }
      else completeMgmt (evict (mgmtAccept s block) (sbPayload block % 16)) n m.id { status := 0 }) := by
  cases hf : sbFails s block opJobEvict 4 s.gth.mgmtCtr sigOk devOk <;> simp [execJobEvict, h, hf, stSignature, stOk]

end

/-- Settles O47: the commands of a job one after another, each by its lemmas above. -/
theorem jobCommands : Obligations.JobCommands := by
  unfold Obligations.JobCommands
  intro s k n m img b rec block sigOk devOk
  refine ⟨fun hi => ⟨execJobAdmit_of_no_image hi, execJobAdmit_of_bedGone hi, execJobAdmit_of_unmapped hi⟩,
    fun hi himg hb hm => ⟨execJobAdmit_of_unverified hi himg hb hm, fun r => execJobAdmit_of_variant hi himg hb hm,
      fun w => execJobAdmit_of_memberFail hi himg hb hm, fun hv hr hw => ⟨execJobAdmit_of_fit hi himg hb hm hv hr hw, ?admitted⟩⟩,
    fun hi => ⟨execInstall_of_no_action hi, execInstall_of_unmapped hi,
      fun h1 hm => ⟨execInstall_of_unverified hi h1 hm, execInstall_of_next_epoch hi h1 hm, execInstall_of_order hi h1 hm⟩,
      execSwitch_of_action hi, execGraceEnd_of_action hi⟩,
    fun hi => ?halted, fun u c id x hc => haltsSweep_iff hc,
    execJobResume_of_unmapped,
    fun hi hm => ⟨fun hswept hcan => execJobResume_of_no_sweep hi hm (canResume_iff.mpr hcan) (resumeSweeps_eq_false hswept),
      fun hn hswept => execJobResume_of_sweep hi hm (canResume_iff.mpr (.inr (.inr hn))) (resumeSweeps_iff.mpr ⟨hn, hswept⟩),
      fun hwhole hn hor => execJobResume_of_not_canResume hi hm (canResume_eq_false hwhole hn hor)⟩,
    execJobEvict_of_head⟩
  case admitted =>
    rw [admitJob_job]
    exact ⟨rfl, rfl, rfl⟩
  case halted =>
    extract_lets t0 t1 t2 t
    have hengine : haltEngine t1 k m = t2 := by
      cases he : (t1.sched (keyPart k)).eng <;> simp [haltEngine, t2, he]
    refine ⟨(execJobHalt_of_issuable hi).trans ?_, fun u c x hc => halts_iff hc⟩
    show Host.Outcome.next (haltSweep (haltQueues (haltEngine t1 k m) k m) k m) = _
    rw [hengine]
    rfl

end Sys2Proof.Machine
end

section
/-! SUPPORT. The decode gatherer (R86 to R94): who a gatherer command reaches, then what each command, a row, the deadline and a delivery
do. -/
namespace Sys2Proof.Machine
open Sys2Proof

section
variable {s : State} {k op d slot core : Nat} {m : Cmd} {x : DSet}

/-! ### Reaching the gatherer and the set (R93, R94) -/

theorem withGatherer_of_absent (f : Cmd → State) (hi : issuable s k op = some m) (hh : (dgPresent s.var && !bedGone s k) = false) :
    withGatherer s k op f = refuseCmd s k m.id 0x01 0 := by
  simp [withGatherer, hi, hh, stUnitAbsent]

theorem withGatherer_of_here (f : Cmd → State) (hi : issuable s k op = some m) (hh : (dgPresent s.var && !bedGone s k) = true) :
    withGatherer s k op f = f m := by
  simp [withGatherer, hi, hh]

theorem withSet_of_absent (f : Cmd → Nat → DSet → State) (hi : issuable s k op = some m)
    (hh : (dgPresent s.var && !bedGone s k) = false) : withSet s k op f = refuseCmd s k m.id 0x01 0 :=
  withGatherer_of_absent _ hi hh

/-- A number that is free, or that another context's set has, is malformed. -/
theorem withSet_of_foreign (f : Cmd → Nat → DSet → State) (hi : issuable s k op = some m)
    (hh : (dgPresent s.var && !bedGone s k) = true) (hset : ∀ y, Tbl.find s.units.dsets (m.desc.arg0 % 64) = some y → y.key ≠ k) :
    withSet s k op f = refuseCmd s k m.id 0x05 0 := by
  unfold withSet
  rw [withGatherer_of_here _ hi hh]
  cases hf : Tbl.find s.units.dsets (m.desc.arg0 % 64) with
  | none => simp [hf, stMalformed]
  | some y => simp [hf, hset y hf, stMalformed]

theorem withSet_of_own (f : Cmd → Nat → DSet → State) (hi : issuable s k op = some m)
    (hh : (dgPresent s.var && !bedGone s k) = true) (hset : Tbl.find s.units.dsets (m.desc.arg0 % 64) = some x) (hk : x.key = k) :
    withSet s k op f = f m (m.desc.arg0 % 64) x := by
  unfold withSet
  rw [withGatherer_of_here _ hi hh]
  simp [hset, hk]

/-! ### DG_SET -/

/-- A region of the image is too small for a tile of the set (R88, R93). -/
def regionTooSmall (img : Image) (y : DSet) : Bool :=
  (cfRegs img y.task y.region).any (fun w => decide ((cfSizeM1 w + 1) * 4096 < tileBytesOf y))

/-- The lowest number that no set has. -/
def freeSet (s : State) : Option Nat := (upto 64).find? (fun d => (Tbl.find s.units.dsets d).isNone)

section set
variable {block : Bytes} {img : Image} (hi : issuable s k opDgSet = some m) (hh : (dgPresent s.var && !bedGone s k) = true)
include hi hh

theorem execDgSet_of_no_image (himg : (s.ctx k).image = none) : execDgSet k block s = .next (refuseCmd s k m.id 0x05 0) := by
  simp [execDgSet, withGatherer_of_here _ hi hh, himg, stMalformed]

section image
variable (himg : (s.ctx k).image = some img)
include himg

theorem execDgSet_of_unmapped (hm : hostMapped s (keyPart k) m.desc.arg0 64 = false) :
    execDgSet k block s = .next (refuseCmd s k m.id 0x06 0) := by
  simp [execDgSet, withGatherer_of_here _ hi hh, himg, hm, stParamUnmapped]

variable (hm : hostMapped s (keyPart k) m.desc.arg0 64 = true)
include hm

theorem execDgSet_of_bad (hb : badDset s k block = true) : execDgSet k block s = .next (refuseCmd s k m.id 0x05 0) := by
  simp [execDgSet, withGatherer_of_here _ hi hh, himg, hm, hb, stMalformed]

variable (hb : badDset s k block = false)
include hb

theorem execDgSet_of_small (hs : regionTooSmall img (parseDset k block) = true) :
    execDgSet k block s = .next (refuseCmd s k m.id 0x03 0) := by
  unfold regionTooSmall at hs
  simp only [execDgSet, withGatherer_of_here _ hi hh, himg, hm, hb, hs]
  rfl

variable (hs : regionTooSmall img (parseDset k block) = false)
include hs

theorem execDgSet_of_all_used (hf : freeSet s = none) : execDgSet k block s = .next (refuseCmd s k m.id 0x24 0) := by
  unfold regionTooSmall at hs
  unfold freeSet at hf
  simp only [execDgSet, withGatherer_of_here _ hi hh, himg, hm, hb, hs, hf]
  rfl

theorem execDgSet_of_free {e : Nat} (hf : freeSet s = some e) :
    execDgSet k block s = .next (complete (setDset s e (parseDset k block)) k m.id { status := 0, result := e }) := by
  unfold regionTooSmall at hs
  unfold freeSet at hf
  simp only [execDgSet, withGatherer_of_here _ hi hh, himg, hm, hb, hs, hf]
  rfl

end image

end set

/-! ### DG_JOIN, DG_LEAVE and DG_STEP -/

/-- A set that no sequence runs in is always at a boundary, which it takes (R91). -/
def settled (x : DSet) (d : Nat) (t : State) : State := if x.slots.isEmpty then boundaryTry t d else t

/-- A command waits at its set for the next boundary. -/
def waitsAt (s : State) (k d id : Nat) (y : DSet) : State := setPhase (setDset s d y) k id .issued

/-- The sequence that a DG_JOIN brings to a set (R90, R93). -/
def joining (m : Cmd) (x : DSet) : DSeq :=
  { tag := m.desc.arg1 % 2 ^ 32, kv := m.desc.arg1 / 2 ^ 32 % 2 ^ 32 * x.kvPer }

/-- The running sequences of a set with a tag. -/
def tagged (x : DSet) (tag : Nat) : List (Nat × DSeq) := x.slots.filter (fun q => q.2.tag == tag)

section own
variable (hh : (dgPresent s.var && !bedGone s k) = true) (hset : Tbl.find s.units.dsets (m.desc.arg0 % 64) = some x) (hk : x.key = k)
include hh hset hk

section join
variable (hi : issuable s k opDgJoin = some m)
include hi

theorem execDgJoin_of_beyond (hkv : x.kvCap < (joining m x).kv) :
    execDgJoin k s = .next (complete s k m.id { status := 0x13 }) := by
  unfold execDgJoin
  rw [withSet_of_own _ hi hh hset hk]
  exact congrArg _ (if_pos hkv)

variable (hkv : (joining m x).kv ≤ x.kvCap)
include hkv

theorem execDgJoin_of_no_place (hj : 1024 ≤ x.joins.length) : execDgJoin k s = .next (complete s k m.id { status := 0x24 }) := by
  unfold execDgJoin
  rw [withSet_of_own _ hi hh hset hk]
  exact congrArg _ ((if_neg (Nat.not_lt.mpr hkv)).trans (if_pos hj))

theorem execDgJoin_of_place (hj : x.joins.length < 1024) :
    execDgJoin k s = .next (settled x (m.desc.arg0 % 64)
      (waitsAt s k (m.desc.arg0 % 64) m.id { x with joins := x.joins ++ [(joining m x, m.id)] })) := by
  unfold execDgJoin
  rw [withSet_of_own _ hi hh hset hk]
  exact congrArg _ ((if_neg (Nat.not_lt.mpr hkv)).trans (if_neg (Nat.not_le.mpr hj)))

end join

theorem execDgStep_of_own (hi : issuable s k opDgStep = some m) :
    execDgStep k s = .next (settled x (m.desc.arg0 % 64)
      (waitsAt s k (m.desc.arg0 % 64) m.id { x with steps := x.steps ++ [m.id] })) := by
  unfold execDgStep
  rw [withSet_of_own _ hi hh hset hk]
  rfl

section leave
variable (hi : issuable s k opDgLeave = some m)
include hi

/-- DG_LEAVE takes the first running sequence of the tag that does not leave yet. -/
theorem execDgLeave_of_stays {q : Nat × DSeq}
    (hq : (tagged x (m.desc.arg1 % 2 ^ 32)).find? (fun q => !x.leaves.any (fun l => l.1 == q.1)) = some q) :
    execDgLeave k s = .next (waitsAt s k (m.desc.arg0 % 64) m.id { x with leaves := x.leaves ++ [(q.1, m.id)] }) := by
  unfold tagged at hq
  simp only [execDgLeave, withSet_of_own _ hi hh hset hk, two32_eq, hq]
  rfl

section unleaving
variable (hn : (tagged x (m.desc.arg1 % 2 ^ 32)).find? (fun q => !x.leaves.any (fun l => l.1 == q.1)) = none)
include hn

/-- Else it cancels a waiting join of the tag. -/
theorem execDgLeave_of_join {j : DSeq × Nat} (hj : x.joins.find? (fun j => j.1.tag == m.desc.arg1 % 2 ^ 32) = some j) :
    execDgLeave k s = .next (complete (complete
      (setDset s (m.desc.arg0 % 64) { x with joins := x.joins.filter (fun y => y.2 != j.2) }) k j.2 { status := 0x0A })
      k m.id { status := 0 }) := by
  unfold tagged at hn
  simp only [execDgLeave, withSet_of_own _ hi hh hset hk, two32_eq, hn, hj]
  rfl

variable (hj : x.joins.find? (fun j => j.1.tag == m.desc.arg1 % 2 ^ 32) = none)
include hj

/-- Else it leaves with a sequence that leaves already. -/
theorem execDgLeave_of_leaves {q : Nat × DSeq} {l : List (Nat × DSeq)} (ht : tagged x (m.desc.arg1 % 2 ^ 32) = q :: l) :
    execDgLeave k s = .next (waitsAt s k (m.desc.arg0 % 64) m.id { x with leaves := x.leaves ++ [(q.1, m.id)] }) := by
  unfold tagged at hn ht
  rw [ht] at hn
  simp only [execDgLeave, withSet_of_own _ hi hh hset hk, two32_eq, ht, hn, hj]
  rfl

end unleaving

/-- A tag that neither a running sequence nor a waiting join has is malformed. -/
theorem execDgLeave_of_no_tag (hj : x.joins.find? (fun j => j.1.tag == m.desc.arg1 % 2 ^ 32) = none)
    (ht : tagged x (m.desc.arg1 % 2 ^ 32) = []) : execDgLeave k s = .next (complete s k m.id { status := 0x05 }) := by
  unfold tagged at ht
  simp only [execDgLeave, withSet_of_own _ hi hh hset hk, two32_eq, hj, ht]
  rfl

end leave

end own

/-! ### Rows, the deadline and delivery (R87, R88) -/

theorem dset_of_find (h : Tbl.find s.units.dsets d = some x) : dset s d = x := by
  simp [dset, Tbl.get, h]

/-- The tile store has no place for a first row of a tile (R87). -/
def noPlace (s : State) (x : DSet) : Bool := x.tile.isEmpty && decide (16777216 < storeUsed s + tileBytesOf x)

/-- A set with a row that has arrived. -/
def withRow (x : DSet) (slot : Nat) (row : Bytes) : DSet :=
  { x with tile := x.tile ++ [(slot, padTo x.row row)], came := slot :: x.came }

section row
variable {row : Bytes} (hset : Tbl.find s.units.dsets d = some x) (hslot : Tbl.find x.slots slot ≠ none)
  (hcame : x.came.contains slot = false)
include hset hslot hcame

theorem execDecodeRowArrival_of_full (hfull : noPlace s x = true) :
    execDecodeRowArrival d slot core row s =
      .next (if (s.core core).cmd.isSome then s.setCore core ((s.core core).stall 3 1) else s) := by
  unfold noPlace at hfull
  simp only [execDecodeRowArrival, dset_of_find hset, hset, hcame, hfull]
  simp [hslot]

theorem execDecodeRowArrival_of_place (hfull : noPlace s x = false) :
    execDecodeRowArrival d slot core row s = .next (
      if (withRow x slot row).tile.length = 128 ∨
          (withRow x slot row).slots.all (fun q => (withRow x slot row).came.contains q.1) = true
        then dispatchTile (setDset s d (withRow x slot row)) d
      else setDset s d (withRow x slot row)) := by
  unfold noPlace at hfull
  rw [apply_ite Host.Outcome.next]
  have hsome : (Tbl.find x.slots slot).isNone = false :=
    Bool.eq_false_iff.mpr fun h => hslot (Option.isNone_iff_eq_none.mp h)
  simp only [execDecodeRowArrival, dset_of_find hset, hset, hsome, hcame, hfull, Option.isNone_some, Bool.or_self,
    Bool.false_eq_true, if_false]
  exact if_congr (by simp only [Bool.or_eq_true, decide_eq_true_eq]; rfl) rfl rfl

end row

theorem execDeadlineExpiry_of_tile (hset : Tbl.find s.units.dsets d = some x) (ht : x.tile ≠ []) :
    execDeadlineExpiry d s = .next (boundaryTry (setDset s d { x with tile := [], tiles := x.tiles ++ [x.tile] }) d) := by
  simp [execDeadlineExpiry, dispatchTile, dset_of_find hset, ht]

section delivery
variable {tl : List (Nat × Bytes)} {ts : List (List (Nat × Bytes))} (hset : Tbl.find s.units.dsets d = some x)
  (ht : x.tiles = tl :: ts)
include hset ht

theorem execGatheredTileDelivery_of_room (hc : targetCores s x ≠ []) (hr : (targetCores s x).all (coreTakes s x) = true) :
    execGatheredTileDelivery d s =
      .next ((targetCores s x).foldl (putRows x (tileImage x tl)) (setDset s d { x with tiles := ts })) := by
  simp only [execGatheredTileDelivery, dset_of_find hset, ht, hr]
  simp [hc]

theorem execGatheredTileDelivery_of_no_room (h : targetCores s x = [] ∨ (targetCores s x).all (coreTakes s x) = false) :
    execGatheredTileDelivery d s = .next s := by
  simp only [execGatheredTileDelivery, dset_of_find hset, ht]
  refine if_pos ?_
  simpa using h

end delivery

end

/-- Settles O50: the gatherer's commands by who they reach, then rows, the deadline and delivery. -/
theorem decodeGatherer : Obligations.DecodeGatherer := by
  unfold Obligations.DecodeGatherer
  intro s k d slot core m img block row x tl ts
  refine ⟨fun c op hc hi hh => ?absent, fun hi hh => execDgSet_of_no_image hi hh, fun c op hc hi hh hset => ?foreign,
    fun hi hh himg => ⟨execDgSet_of_unmapped hi hh himg, execDgSet_of_bad hi hh himg, execDgSet_of_small hi hh himg,
      execDgSet_of_all_used hi hh himg, fun e hm hb hs => execDgSet_of_free hi hh himg hm hb hs⟩,
    fun hh hset hk => ⟨fun hi => ⟨execDgJoin_of_place hh hset hk hi, execDgJoin_of_beyond hh hset hk hi,
        execDgJoin_of_no_place hh hset hk hi⟩,
      fun hi => ⟨fun q => execDgLeave_of_stays hh hset hk hi, fun j hn => execDgLeave_of_join hh hset hk hi hn,
        fun q l hn hj => execDgLeave_of_leaves hh hset hk hi hn hj, execDgLeave_of_no_tag hh hset hk hi⟩,
      execDgStep_of_own hh hset hk⟩,
    fun hset hslot hcame => ⟨execDecodeRowArrival_of_full hset hslot hcame, execDecodeRowArrival_of_place hset hslot hcame⟩,
    execDeadlineExpiry_of_tile,
    fun hset ht => ⟨execGatheredTileDelivery_of_room hset ht, execGatheredTileDelivery_of_no_room hset ht⟩⟩
  case absent =>
    simp only [List.mem_cons, Prod.mk.injEq, List.not_mem_nil, or_false] at hc
    obtain ⟨rfl, rfl⟩ | ⟨rfl, rfl⟩ | ⟨rfl, rfl⟩ | ⟨rfl, rfl⟩ := hc
    · exact congrArg _ (withGatherer_of_absent _ hi hh)
    · exact congrArg _ (withSet_of_absent _ hi hh)
    · exact congrArg _ (withSet_of_absent _ hi hh)
    · exact congrArg _ (withSet_of_absent _ hi hh)
  case foreign =>
    simp only [List.mem_cons, Prod.mk.injEq, List.not_mem_nil, or_false] at hc
    obtain ⟨rfl, rfl⟩ | ⟨rfl, rfl⟩ | ⟨rfl, rfl⟩ := hc <;> exact congrArg _ (withSet_of_foreign _ hi hh hset)

end Sys2Proof.Machine
end

section
/-! SUPPORT. The INT32 accumulator of an INT8 × INT8 instruction (R63): what one chunk adds, and its bound. -/
namespace Sys2Proof.Machine
open Sys2Proof

/-- A chunk delivers the nearest 32-bit value to the exact sum of its products and the accumulator. -/
theorem chunkInt_eq_clamp (ps : List (Int × Int)) (acc : Nat) {x : Int}
    (hx : (ps.map fun p => p.1 * p.2).foldl (· + ·) 0 + sext 32 acc = x) :
    chunkInt ps acc = (field 32 (max (-2147483648) (min 2147483647 x)),
      { overflow := decide (x < -2147483648 ∨ 2147483647 < x) }) := by
  rw [List.foldl_map] at hx
  simp only [chunkInt, hx]
  split_ifs with habove hbelow
  · rw [show max (-2147483648) (min 2147483647 x) = 2147483647 by omega, decide_eq_true (.inr habove)]
  · rw [show max (-2147483648) (min 2147483647 x) = -2147483648 by omega, decide_eq_true (.inl hbelow)]
  · rw [show max (-2147483648) (min 2147483647 x) = x by omega, decide_eq_false (by omega)]
    rfl

/-- The operands of reduction index `k` of an INT8 pass; beyond the reduction count a chunk is padded with zero products (before R61). -/
def int8Operands (p : PassIn) (t j k : Nat) : Int × Int :=
  if k < p.red then (sext 8 (p.ea t k), sext 8 (p.eb k j)) else (0, 0)

theorem int8Operands_mul (p : PassIn) (t j k : Nat) :
    (int8Operands p t j k).1 * (int8Operands p t j k).2 =
      if k < p.red then sext 8 (p.ea t k) * sext 8 (p.eb k j) else 0 := by
  unfold int8Operands
  split <;> simp

theorem passChunk_of_int8 {p : PassIn} (hp : p.fa = 11) (t j g acc : Nat) :
    passChunk p t j g acc = chunkInt ((upto 32).map fun i => int8Operands p t j (32 * g + i)) acc := by
  simp only [passChunk, hp, if_true, List.map_map]
  rfl

/-- Settles O16: a chunk of an INT8 pass is one INT32 chunk stage, whose products are those of the statement. -/
theorem integerChunks : Obligations.IntegerChunks := by
  unfold Obligations.IntegerChunks
  intro p t j g acc hp x
  rw [passChunk_of_int8 hp]
  refine chunkInt_eq_clamp _ acc ?_
  simp only [List.map_map, Function.comp_def, int8Operands_mul, x]

end Sys2Proof.Machine
end

section
/-! SUPPORT. Accumulator entries of a matrix pass (R79, R80): a pass is a run of table writes, one for each token and column, whose keys
differ. -/
namespace Sys2Proof.Machine
open Sys2Proof

section writes
variable {α β : Type} {d : α} {key : β → Nat} {val : β → α}

/-- A run of writes leaves every key that none of them names. -/
theorem Tbl.get_foldl_set_ne {l : List β} {n : Nat} (h : ∀ y ∈ l, n ≠ key y) (t : Tbl α) :
    Tbl.get d (l.foldl (fun t y => Tbl.set t (key y) (val y)) t) n = Tbl.get d t n := by
  induction l generalizing t with
  | nil => rfl
  | cons y l ih =>
    rw [List.foldl_cons, ih fun z hz => h z (List.mem_cons_of_mem y hz)]
    exact Tbl.get_set_ne d t _ (h y List.mem_cons_self)

/-- In a run of writes with distinct keys each key reads as written. -/
theorem Tbl.get_foldl_set_of_mem {l : List β} {x : β} (hinj : ∀ y ∈ l, key x = key y → x = y) (hx : x ∈ l) (t : Tbl α) :
    Tbl.get d (l.foldl (fun t y => Tbl.set t (key y) (val y)) t) (key x) = val x := by
  induction l generalizing t with
  | nil => simp at hx
  | cons y l ih =>
    have htail : ∀ z ∈ l, key x = key z → x = z := fun z hz => hinj z (List.mem_cons_of_mem y hz)
    rw [List.foldl_cons]
    by_cases hl : x ∈ l
    · exact ih htail hl _
    · obtain rfl : x = y := (List.mem_cons.mp hx).resolve_right hl
      rw [Tbl.get_foldl_set_ne fun z hz hk => hl (htail z hz hk ▸ hz)]
      exact Tbl.get_set_same d t _ _

end writes

theorem mem_passCells {w t j : Nat} : (t, j) ∈ passCells w ↔ t < mxM w ∧ j < mxN w := by
  simp [passCells, upto]

theorem mxN_le (w : Nat) : mxN w ≤ 128 := by
  have : bits w 34 7 < 2 ^ 7 := Nat.mod_lt _ (by decide)
  unfold mxN
  omega

/-- The address of an accumulator entry determines its token and column, as a pass names at most 128 columns. -/
theorem passCells_key_inj {w : Nat} {x y : Nat × Nat} (hx : x ∈ passCells w) (hy : y ∈ passCells w)
    (h : 128 * x.1 + x.2 = 128 * y.1 + y.2) : x = y := by
  obtain ⟨t, j⟩ := x
  obtain ⟨u, k⟩ := y
  have hj := (mem_passCells.mp hx).2
  have hk := (mem_passCells.mp hy).2
  have := mxN_le w
  simp only [Prod.mk.injEq] at h ⊢
  omega

/-- The entries of a half after a pass, as a run of writes over its tokens and columns. -/
theorem runPass_cells (a : AccHalf) (init : Bool) (w : Nat) (p : PassIn) :
    (runPass a init w p).1.cells = (passCells w).foldl (fun t x => Tbl.set t (128 * x.1 + x.2)
      (passPoint p x.1 x.2 (if init then 0 else accBits a (p.fa == 11) x.1 x.2)).1) a.cells := by
  simp only [runPass, List.foldl_map]

/-- Settles O20: an entry the pass names is written once, with the value of its point; one it does not name is not written. -/
theorem passEntries : Obligations.PassEntries := by
  unfold Obligations.PassEntries
  intro a init w p r
  refine ⟨rfl, fun t j ht hj => ?written, fun i hi => ?kept⟩
  case written =>
    have hx : (t, j) ∈ passCells w := mem_passCells.mpr ⟨ht, hj⟩
    rw [runPass_cells]
    exact Tbl.get_foldl_set_of_mem (key := fun x : Nat × Nat => 128 * x.1 + x.2) (fun y hy => passCells_key_inj hx hy) hx _
  case kept =>
    rw [runPass_cells]
    exact Tbl.get_foldl_set_ne (fun x hx => hi x.1 x.2 (mem_passCells.mp hx).1 (mem_passCells.mp hx).2) _

end Sys2Proof.Machine
end

section
/-! SUPPORT. Vector instructions (R107 to R110, R121): every one issues through `issueCompute`; where an attempt waits or stops, and
what one that issues does. -/
namespace Sys2Proof.Machine
open Sys2Proof

variable {s : State} {n g w : Nat} {op : Op} {i : Instr}

/-- The issue attempts of the vector unit, each with its operation. -/
def vxIssues (n : Nat) : List (Instr × Op) :=
  [(.vxB n .issue, .vxB), (.vxT n .issue, .vxT), (.vxUCvt n .issue, .vxCvt), (.vxUCopy n .issue, .vxCopy), (.vxUNeg n .issue, .vxNeg),
    (.vxUAbs n .issue, .vxAbs), (.vxUTrn n .issue, .vxTrn), (.vxURsum n .issue, .vxRsum), (.vxURmax n .issue, .vxRmax),
    (.vxURsumsq n .issue, .vxRsumsq)]

theorem engOf_vxIssues (h : (i, op) ∈ vxIssues n) : engOf op = .vx := by
  have hall : ∀ x ∈ vxIssues n, engOf x.2 = .vx := by simp [vxIssues, engOf]
  exact hall _ h

/-- The work of a vector instruction under a job seed. -/
def vxWork (seed : Nat) : Op → CoreCmd → Core → QInstr → List (Nat × Nat × Bytes) × FlagSet
  | .vxB => vxbWork
  | .vxT => vxtWork
  | .vxCvt => cvtWork seed
  | .vxCopy => fun _ c q => moveWork q c id id
  | .vxNeg => fun _ c q => moveWork q c id (· ^^^ signBit (uFmtS q.word))
  | .vxAbs => fun _ c q => moveWork q c id (· % signBit (uFmtS q.word))
  | .vxTrn => fun _ c q => moveWork q c (trnSrc q.word) id
  | .vxRsum => fun m c q => rowWork m c q (fun v => (v, noFlags)) (addBits fp32 m.flush false)
  | .vxRmax => fun m c q => rowWork m c q (fun v => (v, noFlags)) (minmaxBits fp32 m.flush true false)
  | .vxRsumsq => fun m c q => rowWork m c q (fun v => mulBits fp32 m.flush v v) (addBits fp32 m.flush false)
  | _ => fun _ _ _ => ([], noFlags)

/-- Every vector instruction issues through `issueCompute`, with the work of its operation. -/
theorem exec_vxIssues (h : (i, op) ∈ vxIssues n) (s : State) :
    exec i s = .next (issueCompute s n op (vxWork (coreSeed s n) op)) := by
  simp only [vxIssues, List.mem_cons, Prod.mk.injEq, List.not_mem_nil, or_false] at h
  obtain ⟨rfl, rfl⟩ | ⟨rfl, rfl⟩ | ⟨rfl, rfl⟩ | ⟨rfl, rfl⟩ | ⟨rfl, rfl⟩ | ⟨rfl, rfl⟩ | ⟨rfl, rfl⟩ | ⟨rfl, rfl⟩ | ⟨rfl, rfl⟩ | ⟨rfl, rfl⟩ := h
    <;> rfl

section attempt
variable (f : CoreCmd → Core → QInstr → List (Nat × Nat × Bytes) × FlagSet)
variable (hh : atHead s n op = true)
include hh

theorem issueCompute_of_badRegion (hb : badRegion (s.core n) op (headOf s n op) = some g) :
    issueCompute s n op f = refusedAccess s n (cmdOf s n) op (headOf s n op) g := by
  unfold issueCompute
  simp only [withHead_of hh, hb]

variable (hb : badRegion (s.core n) op (headOf s n op) = none)
include hb

theorem issueCompute_of_absent (hr : operandsReady (s.core n) op (headOf s n op) = false) :
    issueCompute s n op f = s.setCore n ((s.core n).stall (engNo (engOf op)) 0) := by
  unfold issueCompute
  simp [withHead_of hh, hb, hr]

variable (hr : operandsReady (s.core n) op (headOf s n op) = true)
include hr

theorem issueCompute_of_no_room (hf : resultsFree (s.core n) op (headOf s n op) = false) :
    issueCompute s n op f = s.setCore n ((s.core n).stall (engNo (engOf op)) 1) := by
  unfold issueCompute
  simp [withHead_of hh, hb, hr, hf]

theorem issueCompute_of_bad_parity (hf : resultsFree (s.core n) op (headOf s n op) = true)
    (hp : operandBad (s.core n) op (headOf s n op) = some w) :
    issueCompute s n op f = parityAbort s n (cmdOf s n) 2 w w := by
  unfold issueCompute
  simp [withHead_of hh, hb, hr, hf, hp]

end attempt

/-- A core at whose queue head an instruction stands draws with the seed of its command. -/
theorem coreSeed_of (h : atHead s n op = true) : coreSeed s n = seedOf s (cmdOf s n) := by
  simp only [coreSeed, atHead_cmd h]

/-- A vector instruction that can issue computes the work of its operation. -/
theorem exec_vxIssues_of_canIssue (hi : (i, op) ∈ vxIssues n) (h : canIssue s n op = true) :
    exec i s = .next (s.setCore n (computed (s.core n) op (headOf s n op)
      (vxWork (seedOf s (cmdOf s n)) op (cmdOf s n) (s.core n) (headOf s n op)))) := by
  rw [exec_vxIssues hi, issueCompute_of h, coreSeed_of (canIssue_parts h).1]

/-- Settles O15: every vector instruction that can issue computes, with the work of its operation. -/
theorem vectorIssues : Obligations.VectorIssues := by
  unfold Obligations.VectorIssues
  intro s n c m q done
  refine ⟨?_, ?_, ?_, ?_, ?_, ?_, ?_, ?_, ?_, ?_, fun _ _ _ => rfl⟩ <;> exact exec_vxIssues_of_canIssue (by simp [vxIssues])

end Sys2Proof.Machine
end

section
/-! SUPPORT. The array (R74 to R81, R105, R106): where the attempt of a pass or a drain waits or stops, what one that issues does, and the
tile load. -/
namespace Sys2Proof.Machine
open Sys2Proof

/-! ### The tile load -/

/-- A slice reads as the memory it was cut from. -/
theorem Mem.rd_slice (m : Mem) (a : Nat) {n i : Nat} (h : i < n) : Mem.rd (Mem.slice m a n) i = Mem.rd m (a + i) := by
  unfold Mem.rd Mem.slice Tbl.get
  congr 1
  induction m with
  | nil => rfl
  | cons x m ih =>
    obtain ⟨k, b⟩ := x
    by_cases hk : a ≤ k ∧ k < a + n
    · have hkey : i = k - a ↔ a + i = k := by omega
      simp [Tbl.find, hk, hkey, ih]
    · have hne : a + i ≠ k := by omega
      have hout : (decide (a ≤ k) && decide (k < a + n)) = false := by simpa using hk
      simp [Tbl.find, hne, ih, hout]

variable {s : State} {n g w : Nat} {op : Op} {i : Instr}

/-- The tile of an array instruction, as the tile load takes it from the weight buffer. -/
def loadedTile (c : Core) (q : QInstr) : Shadow where
  seq := q.seq
  tile := Mem.slice (if mxOrder q.word then c.wbuf.trans else c.wbuf.stored) (16384 * mxTile q.word)
    (if wideTile q.fmt then 32768 else 16384)
  scales := Mem.slice c.wbuf.scales (1024 * mxTile q.word) 1024

/-- A valid tile of good parity that no earlier instruction has still to write enters the free shadow registers. -/
theorem execTileLoad_of {q : QInstr} {l : List QInstr} (hcmd : (s.core n).cmd.isSome = true) (hq : (s.core n).q.mx = q :: l)
    (hop : opOf q.word = some .mxMm ∨ opOf q.word = some .mxCv) (hfree : (s.core n).shadow = none)
    (hvalid : tileValid (s.core n) q.word q.fmt = true) (hlast : writePending (s.core n) q = false)
    (hpar : (tileSlots q.word q.fmt).find? (fun i => (s.core n).wbuf.bad.contains (2 * i + b2n (mxOrder q.word))) = none) :
    execTileLoad n s = .next (s.setCore n { s.core n with shadow := some (loadedTile (s.core n) q) }) := by
  simp only [execTileLoad, cmd_of hcmd, hq, hpar, hfree, hvalid, hlast, loadedTile]
  simp [hop]

/-! ### Passes -/

theorem shadowReady_iff : shadowReady s n op = true ↔
    ∃ sh, (s.core n).shadow = some sh ∧ sh.seq = (headOf s n op).seq ∧
      tileValid (s.core n) (headOf s n op).word (headOf s n op).fmt = true := by
  unfold shadowReady
  cases (s.core n).shadow <;> simp

/-- A core after a pass with the tile `sh`: the operands released, the half and the flags of the chunk stages taken. -/
def passed (c : Core) (m : CoreCmd) (op : Op) (q : QInstr) (sh : Shadow) : Core :=
  let r := runPass (halfOf c (mxHalf q.word)) (mxInit q.word) q.word (passIn c m q op sh)
  setHalf { finishReads c op q with flags := orFlags c.flags r.2, shadow := none } (mxHalf q.word) r.1

theorem foldl_setRegion_flags (t : Nat) (f : Core → Nat → Region) (l : List Nat) (c : Core) :
    (l.foldl (fun c g => c.setRegion t g (f c g)) c).flags = c.flags := by
  induction l generalizing c with
  | nil => rfl
  | cons g l ih => rw [List.foldl_cons, ih, Core.setRegion_flags]

@[simp] theorem finishReads_flags (c : Core) (op : Op) (q : QInstr) : (finishReads c op q).flags = c.flags :=
  foldl_setRegion_flags q.task _ _ c

/-- The issue attempts of array passes, each with its operation. -/
def passIssues (n : Nat) : List (Instr × Op) := [(.mxMm n .issue, .mxMm), (.mxCv n .issue, .mxCv)]

theorem exec_passIssues (h : (i, op) ∈ passIssues n) (s : State) : exec i s = .next (issuePass s n op) := by
  simp only [passIssues, List.mem_cons, Prod.mk.injEq, List.not_mem_nil, or_false] at h
  obtain ⟨rfl, rfl⟩ | ⟨rfl, rfl⟩ := h
  · rfl
  · rfl

section pass
variable (hh : atHead s n op = true)
include hh

theorem issuePass_of_badRegion (hb : badRegion (s.core n) op (headOf s n op) = some g) :
    issuePass s n op = refusedAccess s n (cmdOf s n) op (headOf s n op) g := by
  unfold issuePass
  simp only [withHead_of hh, hb]

variable (hb : badRegion (s.core n) op (headOf s n op) = none)
include hb

theorem issuePass_of_absent (hr : operandsReady (s.core n) op (headOf s n op) = false) :
    issuePass s n op = s.setCore n ((s.core n).stall 0 0) := by
  unfold issuePass
  simp [withHead_of hh, hb, hr]

variable (hr : operandsReady (s.core n) op (headOf s n op) = true)
include hr

theorem issuePass_of_no_tile (ht : shadowReady s n op = false) :
    issuePass s n op = s.setCore n ((s.core n).stall 0 0) := by
  unfold issuePass
  cases hsh : (s.core n).shadow with
  | none => simp [withHead_of hh, hb, hr, hsh]
  | some sh =>
    by_cases hseq : sh.seq = (headOf s n op).seq
    · have hv : tileValid (s.core n) (headOf s n op).word (headOf s n op).fmt = false := by
        simpa [shadowReady, hsh, hseq] using ht
      simp [withHead_of hh, hb, hr, hsh, hv]
    · simp [withHead_of hh, hb, hr, hsh, hseq]

section loaded
variable {sh : Shadow} (hsh : (s.core n).shadow = some sh) (hseq : sh.seq = (headOf s n op).seq)
  (hv : tileValid (s.core n) (headOf s n op).word (headOf s n op).fmt = true)
include hsh hseq hv

theorem issuePass_of_no_room (hf : resultsFree (s.core n) op (headOf s n op) = false) :
    issuePass s n op = s.setCore n ((s.core n).stall 0 1) := by
  unfold issuePass
  simp [withHead_of hh, hb, hr, hsh, hseq, hv, hf]

variable (hf : resultsFree (s.core n) op (headOf s n op) = true)
include hf

theorem issuePass_of_bad_parity (hp : operandBad (s.core n) op (headOf s n op) = some w) :
    issuePass s n op = parityAbort s n (cmdOf s n) 1 w w := by
  unfold issuePass
  simp [withHead_of hh, hb, hr, hsh, hseq, hv, hf, hp]

theorem issuePass_of_ready (hp : operandBad (s.core n) op (headOf s n op) = none) :
    issuePass s n op = s.setCore n ((popQueue (drainTo (passed (s.core n) (cmdOf s n) op (headOf s n op) sh)
      (seedOf s (cmdOf s n)) (cmdOf s n) (headOf s n op) op) .mx).busyCycle 0) := by
  unfold issuePass
  simp [withHead_of hh, hb, hr, hsh, hseq, hv, hf, hp, passed]

end loaded
end pass

/-! ### Drains -/

theorem issueDrain_of_badRegion (hh : atHead s n .mxDr = true) (hb : badRegion (s.core n) .mxDr (headOf s n .mxDr) = some g) :
    issueDrain s n = refusedAccess s n (cmdOf s n) .mxDr (headOf s n .mxDr) g := by
  unfold issueDrain
  simp only [withHead_of hh, hb]

theorem issueDrain_of_no_room (hh : atHead s n .mxDr = true) (hb : badRegion (s.core n) .mxDr (headOf s n .mxDr) = none)
    (hf : resultsFree (s.core n) .mxDr (headOf s n .mxDr) = false) : issueDrain s n = s.setCore n ((s.core n).stall 0 1) := by
  unfold issueDrain
  simp [withHead_of hh, hb, hf]

theorem issueDrain_of (h : canIssue s n .mxDr = true) :
    issueDrain s n = s.setCore n
      ((popQueue (drainTo (s.core n) (seedOf s (cmdOf s n)) (cmdOf s n) (headOf s n .mxDr) .mxDr) .mx).busyCycle 0) := by
  obtain ⟨hh, hb, -, hf, -⟩ := canIssue_parts h
  unfold issueDrain
  simp [withHead_of hh, hb, hf]

/-- Settles O19: a pass by `issuePass_of_ready`, a drain, MX.FMT at its queue's head, and the tile that the tile load takes. -/
theorem arrayIssues : Obligations.ArrayIssues := by
  unfold Obligations.ArrayIssues
  intro s n c m
  refine ⟨fun op i hi h ht => ?pass, fun h => congrArg _ (issueDrain_of h), fun h => congrArg _ (withHead_of h _),
    fun q l hcmd hq hop hfree hvalid hlast hpar => ?tile⟩
  case pass =>
    obtain ⟨hh, hb, hr, hf, hp⟩ := canIssue_parts h
    obtain ⟨sh, hsh, hseq, hv⟩ := shadowReady_iff.mp ht
    refine ⟨sh, hsh, ?_⟩
    exact (exec_passIssues hi s).trans (congrArg _ (issuePass_of_ready hh hb hr hsh hseq hv hf hp))
  case tile =>
    exact ⟨loadedTile c q, execTileLoad_of hcmd hq hop hfree hvalid hlast hpar, rfl, fun i hi => Mem.rd_slice _ _ hi⟩

/-- Settles O21: a vector instruction, a pass and a drain, each by the first condition that its attempt does not meet. -/
theorem waitsCount : Obligations.WaitsCount := by
  unfold Obligations.WaitsCount
  intro s n g w op i c m q hh
  refine ⟨fun hi => ?vector, fun hi => ?pass, fun hi => ?drain⟩
  case vector =>
    have hno : engNo (engOf op) = 1 := congrArg engNo (engOf_vxIssues hi)
    rw [exec_vxIssues hi]
    refine ⟨fun hb => congrArg _ (issueCompute_of_badRegion _ hh hb), fun hb => ⟨fun hr => congrArg _ ?_,
      fun hr hf => congrArg _ ?_, fun hr hf hp => congrArg _ (issueCompute_of_bad_parity _ hh hb hr hf hp)⟩⟩
    · rw [issueCompute_of_absent _ hh hb hr, hno]
    · rw [issueCompute_of_no_room _ hh hb hr hf, hno]
  case pass =>
    rw [exec_passIssues hi]
    refine ⟨fun hb => congrArg _ (issuePass_of_badRegion hh hb), fun hb => ⟨fun hw => congrArg _ ?_, fun hr ht => ?_⟩⟩
    · rcases hr : operandsReady c op q
      · exact issuePass_of_absent hh hb hr
      · exact issuePass_of_no_tile hh hb hr (hw.resolve_left (by simp [hr]))
    · obtain ⟨sh, hsh, hseq, hv⟩ := shadowReady_iff.mp ht
      exact ⟨fun hf => congrArg _ (issuePass_of_no_room hh hb hr hsh hseq hv hf),
        fun hf hp => congrArg _ (issuePass_of_bad_parity hh hb hr hsh hseq hv hf hp)⟩
  case drain =>
    obtain ⟨rfl, rfl⟩ := Prod.mk.inj hi
    exact ⟨fun hb => congrArg _ (issueDrain_of_badRegion hh hb), fun hb hf => congrArg _ (issueDrain_of_no_room hh hb hf)⟩

end Sys2Proof.Machine
end

section
/-! SUPPORT. Scalar registers and the scalar operations of SQ.ALU (R102, R116). -/
namespace Sys2Proof.Machine
open Sys2Proof

/-! ### Registers (R102) -/

@[simp] theorem scalar_zero (k : Task) : scalar k 0 = 0 := rfl

@[simp] theorem setScalar_zero (k : Task) (v : Nat) : setScalar k 0 v = k := rfl

theorem scalar_setScalar_same (k : Task) {r : Nat} (v : Nat) (h : r ≠ 0) : scalar (setScalar k r v) r = v % 2 ^ 32 := by
  simp [scalar, setScalar, h, two32]

theorem scalar_setScalar_ne (k : Task) {r x : Nat} (v : Nat) (h : x ≠ r) : scalar (setScalar k r v) x = scalar k x := by
  unfold setScalar
  split
  · rfl
  · simp [scalar, Tbl.get_set_ne 0 k.regs _ h]

/-- Settles O8: what a read returns after a write of the same and of another register, s0 apart. -/
theorem scalarRegisters : Obligations.ScalarRegisters := by
  unfold Obligations.ScalarRegisters
  exact fun k r x v => ⟨scalar_zero k, setScalar_zero k v, scalar_setScalar_same k v, scalar_setScalar_ne k v⟩

/-! ### Values (R116) -/

theorem sext_eq_toInt {w : Nat} (hw : 0 < w) (v : Nat) : sext w v = (BitVec.ofNat w v).toInt := by
  have hhalf : 2 * 2 ^ (w - 1) = 2 ^ w := mul_pow_sub_one hw.ne' 2
  have hsign : v % 2 ^ w < 2 ^ (w - 1) ↔ 2 * (v % 2 ^ w) < 2 ^ w := by omega
  simp only [sext, BitVec.toInt_eq_toNat_cond, BitVec.toNat_ofNat, hsign]

theorem field_eq_toNat (w : Nat) (i : Int) : field w i = (BitVec.ofInt w i).toNat := rfl

/-- A shift takes the low five bits of its second operand. -/
theorem toNat_and_31 (b : Nat) : (BitVec.ofNat 32 b &&& 31#32).toNat = b % 32 := by
  rw [BitVec.toNat_and, BitVec.toNat_ofNat, show (31#32).toNat = 2 ^ 5 - 1 from rfl, Nat.and_two_pow_sub_one_eq_mod]
  omega

theorem toNat_sshiftRight (x : Word) (n : Nat) : (x.sshiftRight n).toNat = field 32 (x.toInt / 2 ^ n) := by
  rw [BitVec.sshiftRight, Int.shiftRight_eq_div_pow, field_eq_toNat]
  norm_cast

theorem toNat_ite_one_zero (p : Prop) [Decidable p] : (if p then (1#32 : Word) else 0#32).toNat = if p then 1 else 0 := by
  split <;> rfl

/-- Settles O7: each operation on words, read as a number. -/
theorem aluValues : Obligations.AluValues := by
  unfold Obligations.AluValues
  intro a b ha hb f
  have hva : (BitVec.ofNat 32 a).toNat = a := by rw [BitVec.toNat_ofNat, Nat.mod_eq_of_lt ha]
  have hvb : (BitVec.ofNat 32 b).toNat = b := by rw [BitVec.toNat_ofNat, Nat.mod_eq_of_lt hb]
  have hsa : sext 32 a = (BitVec.ofNat 32 a).toInt := sext_eq_toInt (by decide) a
  have hsb : sext 32 b = (BitVec.ofNat 32 b).toInt := sext_eq_toInt (by decide) b
  refine ⟨?add, ?sub, ?mul, ?and, ?or, ?xor, ?shl, ?shr, ?sar, ?min, ?max, ?slt, ?ult⟩ <;> simp only [f, aluOp]
  case add => rw [BitVec.toNat_add, hva, hvb]
  case sub => rw [BitVec.toNat_sub, hva, hvb]; omega
  case mul => rw [BitVec.toNat_mul, hva, hvb]
  case and => rw [BitVec.toNat_and, hva, hvb]
  case or => rw [BitVec.toNat_or, hva, hvb]
  case xor => rw [BitVec.toNat_xor, hva, hvb]
  case shl => rw [BitVec.toNat_shiftLeft, toNat_and_31, hva, Nat.shiftLeft_eq]
  case shr => rw [BitVec.toNat_ushiftRight, toNat_and_31, hva, Nat.shiftRight_eq_div_pow]
  case sar => rw [toNat_sshiftRight, toNat_and_31, hsa]
  case min => simp only [BitVec.ult, hva, hvb, decide_eq_true_eq]; split <;> omega
  case max => simp only [BitVec.ult, hva, hvb, decide_eq_true_eq]; split <;> omega
  case slt => rw [toNat_ite_one_zero, hsa, hsb]; simp only [BitVec.slt, decide_eq_true_eq]
  case ult => rw [toNat_ite_one_zero]; simp only [BitVec.ult, hva, hvb, decide_eq_true_eq]

end Sys2Proof.Machine
end

section
/-! SUPPORT. The sequencer's instructions (R95, R102, R103, R116 to R119): what each does once its task dispatches it, and what holds one
that cannot dispatch. -/
namespace Sys2Proof.Machine
open Sys2Proof

variable {s : State} {n t : Nat} {op : Op}

/-! ### Registers, loops and branches -/

/-- A sequencer instruction that dispatches gives its core what its operation makes of it, and takes the turn. -/
theorem seqOp_of (h : dispatchable s n t op = true) (f : Core → Task → Nat → Core) :
    seqOp s n t op f = s.setCore n { f (s.core n) ((s.core n).task t) (wordAt s n t) with lastTask := t } :=
  withDispatch_of h _

/-- Settles O6: each of the four is `seqOp` of its change of the task. -/
theorem scalarInstructions : Obligations.ScalarInstructions := by
  unfold Obligations.ScalarInstructions
  intro s n t k w
  exact ⟨fun h => congrArg _ (seqOp_of h _), fun h => congrArg _ (seqOp_of h _), fun h => congrArg _ (seqOp_of h _),
    fun h => congrArg _ (seqOp_of h _)⟩

@[simp] theorem setScalar_pc (k : Task) (r v : Nat) : (setScalar k r v).pc = k.pc := by
  unfold setScalar
  split <;> rfl

@[simp] theorem setScalar_loops (k : Task) (r v : Nat) : (setScalar k r v).loops = k.loops := by
  unfold setScalar
  split <;> rfl

/-- Settles O9: a loop by its count and a branch by its condition. -/
theorem flowInstructions : Obligations.FlowInstructions := by
  unfold Obligations.FlowInstructions
  intro s n t c k w a b
  refine ⟨fun h hcount => ?opens, fun h hcount => ?skips, fun h hb => ?jumps, fun h hb => ?falls⟩
  case opens => exact congrArg _ ((seqOp_of h _).trans (by simp [hcount, c, k, w]))
  case skips => exact congrArg _ ((seqOp_of h _).trans (by simp [hcount, c, k, w]))
  case jumps => exact congrArg _ ((seqOp_of h _).trans (by simp [hb, c, k, w, a, b]))
  case falls => exact congrArg _ ((seqOp_of h _).trans (by simp [hb, c, k, w, a, b, ranTask, seqNext]))

/-- Settles O10: the first loop ends its body at the instruction after its last, and nowhere else. -/
theorem loopIterates : Obligations.LoopIterates := by
  unfold Obligations.LoopIterates
  intro l ls r
  refine ⟨fun hleft => ?again, fun hlast => ?leaves, fun pc hpc => ?inside⟩
  case again => simp [stepLoops, hleft]
  case leaves => simp [stepLoops, show ¬ l.iter + 1 < l.count by omega]
  case inside => simp [stepLoops, hpc]

/-! ### Scalar loads and stores (R103, R116, R152, R160) -/

/-- A number written in `n` bytes reads back modulo 256^n. -/
theorem leNat_rdN_wrN (m : Mem) (a n v : Nat) : leNat (Mem.rdN (Mem.wrN m a (natLe n v)) a n) = v % 256 ^ n := by
  have h := Mem.rdN_wrN (natLe n v) m a
  rw [natLe_length] at h
  rw [h, leNat_natLe]

/-- Settles O11: a load and a store by where their access lies, a load by the parity of its word, and SQ.END. -/
theorem scalarMemory : Obligations.ScalarMemory := by
  unfold Obligations.ScalarMemory
  intro s n t c k w a
  refine ⟨fun h hok hpar => ?loads, fun h hok hpar => ?parity, fun hout => ⟨fun h => ?loadOut, fun h => ?storeOut⟩,
    fun h hok => ?stores, fun h => congrArg _ (seqOp_of h _)⟩
  case loads => exact congrArg _ ((withDispatch_of h _).trans (by simp [hok, hpar, c, k, w, a, ranTask, seqNext]))
  case parity => exact congrArg _ ((withDispatch_of h _).trans (by simp [hok, hpar, c, w, a]))
  case loadOut => exact congrArg _ ((withDispatch_of h _).trans (by simp [hout, c, w, a]))
  case storeOut => exact congrArg _ ((withDispatch_of h _).trans (by simp [hout, c, w, a]))
  case stores =>
    refine ⟨s.setCore n { seqNext (quarterWrite c a (scalar k (sqR1 w))) t k with lastTask := t },
      congrArg _ ((withDispatch_of h _).trans (by simp [hok, c, k, w, a])), ?frame, ?word, ?others⟩
    all_goals simp only [State.setCore_core]
    case frame => rfl
    case word => exact leNat_rdN_wrN c.scratch a 4 _
    case others => exact fun b hb => Mem.rd_wrN_out _ _ (by simpa using hb)

/-! ### CF instructions (R118, R119) -/

theorem nextIs_iff : nextIs s n t op = true ↔
    (s.core n).cmd.isSome = true ∧ taskGoes (s.core n) t = true ∧ opOf (wordAt s n t) = some op := by
  simp only [nextIs, Bool.and_eq_true, beq_iff_eq, and_assoc]

/-- An instruction that its task may dispatch at some time, but not now, holds it. -/
theorem withDispatch_of_held (hn : nextIs s n t op = true) (hin : fetchIn (s.core n) t = true)
    (hown : t = 0 ∨ op ≠ .cfWin ∧ op ≠ .cfTask) (hd : canDispatch (s.core n) t (wordAt s n t) op = false)
    (f : CoreCmd → Core → Nat → State) : withDispatch s n t op f = s.setCore n (holdTask (s.core n) t op) := by
  obtain ⟨hcmd, hgoes, hop⟩ := nextIs_iff.mp hn
  have hspells : spellsOwn t (wordAt s n t) = true := by
    unfold spellsOwn
    rw [hop]
    split <;> simp_all
  unfold wordAt at hspells hd hop
  unfold withDispatch
  simp [cmd_of hcmd, hgoes, badFetch, hin, hspells, hop, hd]

/-- Settles O13: a descriptor or a task in use keeps the instruction from its dispatch, which holds its task. -/
theorem configHolds : Obligations.ConfigHolds := by
  unfold Obligations.ConfigHolds
  intro s n t c held
  refine ⟨fun hn hin huse => ?region, fun hn hin huse => ?window, fun hn hin huse => ?task⟩
  case region => exact congrArg _ (withDispatch_of_held hn hin (.inr (by decide)) (by simpa [canDispatch] using huse) _)
  case window => exact congrArg _ (withDispatch_of_held hn hin (.inl rfl) (by simpa [canDispatch] using huse) _)
  case task => exact congrArg _ (withDispatch_of_held hn hin (.inl rfl) (by simpa [canDispatch] using huse) _)

/-- A core's regions lie in its tasks. -/
theorem Core.region_eq_of_regions {c d : Core} (h : (d.task t).regions = (c.task t).regions) (g : Nat) : d.region t g = c.region t g := by
  simp only [Core.region, h]

@[simp] theorem gotoPc_regions (k : Task) (pc : Nat) : (gotoPc k pc).regions = k.regions := rfl

/-- CF.REG of region 1: a scalar region (PROD and CONS are 0) of 4 KiB at the second 4 KiB of the window. -/
def defineScalarRegion : Nat := 7 * 2 ^ 60 + 1 * 2 ^ 56 + 1 * 2 ^ 52 + 1 * 2 ^ 42

/-- Core 0 runs task 0 in a window of 16 KiB, of whose descriptors none is defined; the next word is `defineScalarRegion`. -/
def definesRegion : State := State.setCore {} 0
  { cmd := some { key := 0, cmd := 0, lcore := 0, lbed := 0, params := [], flush := false }
    tasks := [(0, { run := true })], wins := [(0, { valid := true, base := 0, sizeM1 := 3 })]
    scratch := Mem.wrN [] 0 (natLe 8 defineScalarRegion) }

theorem wordAt_definesRegion : wordAt definesRegion 0 0 = defineScalarRegion := by decide

/-- Refutes O12: the clause of a scalar region gives the task as it was before CF.REG, moved on, so with region 1 still undefined, and the
region as defined. -/
theorem not_configInstructions : ¬ Obligations.ConfigInstructions := by
  unfold Obligations.ConfigInstructions
  intro h
  obtain ⟨-, hscalar, -⟩ := h definesRegion 0 0
  obtain ⟨u, -, -, hdefined, htask, -⟩ := hscalar (by decide) (by decide) (by decide) (by decide)
  have hkept := Core.region_eq_of_regions ((congrArg Task.regions htask).trans (gotoPc_regions ..))
    (cfG (wordAt definesRegion 0 0))
  have hvalid := congrArg Region.valid (hdefined.symm.trans hkept)
  rw [wordAt_definesRegion] at hvalid
  exact absurd hvalid (by decide)

end Sys2Proof.Machine
end

section
/-! SUPPORT. The dispatch of engine instructions (R97, R98): the instruction joins one queue, its task goes on, and the regions it names
note it. -/
namespace Sys2Proof.Machine
open Sys2Proof

variable {s : State} {n t slot : Nat} {op : Op} {i : Instr} {c d e : Core}

/-! ### Queues -/

theorem queueOf_setQueue_same {g : Eng} (c : Core) (l : List QInstr) (h : g ≠ .seq) : queueOf (setQueue c g l) g = l := by
  cases g with
  | seq => exact absurd rfl h
  | mx | vx | fx | st | ln => rfl

theorem queueOf_setQueue_ne {g j : Eng} (c : Core) (l : List QInstr) (h : j ≠ g) : queueOf (setQueue c g l) j = queueOf c j := by
  cases g <;> cases j <;> simp [setQueue, queueOf] at h ⊢

/-- Replacing a queue leaves all but the queues. -/
theorem setQueue_eq (c : Core) (g : Eng) (l : List QInstr) : setQueue c g l = { c with q := (setQueue c g l).q } := by
  cases g <;> rfl

/-! ### Regions that note an instruction -/

theorem Core.setRegion_region_ne (c : Core) (t : Nat) {g j : Nat} (r : Region) (h : j ≠ g) :
    (c.setRegion t g r).region t j = c.region t j := by
  simp [Core.setRegion, Core.region, Tbl.get_set_ne _ _ _ h]

/-- `d` is `c` with other readers and writers noted in regions of task `t`. -/
structure NotesIn (t : Nat) (c d : Core) : Prop where
  rest : d = { c with tasks := d.tasks }
  own : ∀ l, ({ d.task t with regions := l } : Task) = { c.task t with regions := l }
  other : ∀ x, x ≠ t → d.task x = c.task x
  region : ∀ g l m, ({ d.region t g with readers := l, writers := m } : Region) = { c.region t g with readers := l, writers := m }

theorem NotesIn.refl (t : Nat) (c : Core) : NotesIn t c c where
  rest := rfl
  own _ := rfl
  other _ _ := rfl
  region _ _ _ := rfl

theorem NotesIn.trans (h : NotesIn t c d) (h' : NotesIn t d e) : NotesIn t c e where
  rest := by rw [h'.rest, h.rest]
  own l := (h'.own l).trans (h.own l)
  other x hx := (h'.other x hx).trans (h.other x hx)
  region g l m := (h'.region g l m).trans (h.region g l m)

theorem notesIn_setRegion (c : Core) {g : Nat} {r : Region}
    (hr : ∀ l m, ({ r with readers := l, writers := m } : Region) = { c.region t g with readers := l, writers := m }) :
    NotesIn t c (c.setRegion t g r) where
  rest := rfl
  own l := by simp [Core.setRegion]
  other x hx := Core.setTask_task_ne c _ hx
  region j l m := by
    by_cases hj : j = g
    · subst hj
      rw [Core.setRegion_region, hr]
    · rw [Core.setRegion_region_ne c t r hj]

theorem NotesIn.foldl {α : Type} {f : Core → α → Core} (hf : ∀ c x, NotesIn t c (f c x)) (l : List α) (c : Core) :
    NotesIn t c (l.foldl f c) := by
  induction l generalizing c with
  | nil => exact .refl t c
  | cons x l ih => exact (hf c x).trans (ih (f c x))

theorem notesIn_addReaders (c : Core) (t seq : Nat) (us : List (Nat × Nat)) : NotesIn t c (addReaders c t seq us) := by
  refine .foldl (fun c u => ?_) us c
  exact notesIn_setRegion c fun _ _ => rfl

theorem notesIn_addWriters (c : Core) (t seq : Nat) (gs : List Nat) : NotesIn t c (addWriters c t seq gs) := by
  refine .foldl (fun c g => ?_) gs c
  exact notesIn_setRegion c fun _ _ => rfl

/-! ### The dispatch -/

/-- A task that has dispatched an engine instruction: its format and cursor moved, and gone on (R98, R106, R120). -/
def movedOn (k : Task) (w : Nat) (op : Op) : Task :=
  let k1 := if op = .mxFmt then { k with fmtAt := some w } else k
  gotoPc { k1 with cursor := (k.cursor + stoElems op w (k.fmtAt.getD 0)) % 2 ^ 51 } (k.pc + 1)

theorem movedOn_eq (k : Task) (w : Nat) (op : Op) :
    movedOn k w op = gotoPc { k with
      fmtAt := if op = .mxFmt then some w else k.fmtAt
      cursor := (k.cursor + stoElems op w (k.fmtAt.getD 0)) % 2 ^ 51 } (k.pc + 1) := by
  unfold movedOn
  split <;> rfl

@[simp] theorem movedOn_regions (k : Task) (w : Nat) (op : Op) : (movedOn k w op).regions = k.regions := by
  rw [movedOn_eq, gotoPc_regions]

/-- A core whose task `t` has dispatched the engine instruction `w`, which its regions note. -/
def noted (c : Core) (t w : Nat) (op : Op) : Core :=
  let f := (c.task t).fmtAt.getD 0
  addWriters (addReaders (c.setTask t (movedOn (c.task t) w op)) t c.nextSeq (declaredReads c op w f)) t c.nextSeq
    (declaredWrites op w f).eraseDups

theorem notesIn_noted (c : Core) (t w : Nat) (op : Op) : NotesIn t (c.setTask t (movedOn (c.task t) w op)) (noted c t w op) :=
  (notesIn_addReaders ..).trans (notesIn_addWriters ..)

/-- A dispatch changes the core that has noted it in one queue, the next sequence number and the turn. -/
theorem dispatchEng_eq (c : Core) (t w : Nat) (op : Op) :
    dispatchEng c t w op = { noted c t w op with
      q := (setQueue c (engOf op) (queueOf c (engOf op) ++ [captured t (c.task t) c.nextSeq w op])).q
      nextSeq := c.nextSeq + 1, lastTask := t } := by
  have hdispatch : dispatchEng c t w op =
      (let d := setQueue (noted c t w op) (engOf op)
        (queueOf (noted c t w op) (engOf op) ++ [captured t (c.task t) c.nextSeq w op])
      { d with nextSeq := d.nextSeq + 1, lastTask := t }) := rfl
  rw [hdispatch, setQueue_eq, (notesIn_noted c t w op).rest]
  cases engOf op <;> rfl

/-- The dispatches of the engine instructions, each with its operation. -/
def engDispatches (n t slot : Nat) : List (Instr × Op) :=
  [(.mxMm n (.dispatch t), .mxMm), (.mxCv n (.dispatch t), .mxCv), (.mxDr n (.dispatch t), .mxDr), (.mxFmt n (.dispatch t), .mxFmt),
    (.vxB n (.dispatch t), .vxB), (.vxT n (.dispatch t), .vxT), (.vxUCvt n (.dispatch t), .vxCvt), (.vxUCopy n (.dispatch t), .vxCopy),
    (.vxUNeg n (.dispatch t), .vxNeg), (.vxUAbs n (.dispatch t), .vxAbs), (.vxUTrn n (.dispatch t), .vxTrn),
    (.vxURsum n (.dispatch t), .vxRsum), (.vxURmax n (.dispatch t), .vxRmax), (.vxURsumsq n (.dispatch t), .vxRsumsq),
    (.fxFwd n (.dispatch t), .fxFwd), (.fxBwi n (.dispatch t), .fxBwi), (.fxBwo n (.dispatch t), .fxBwo),
    (.stIn n (.dispatch t) slot, .stIn), (.stOut n (.dispatch t) slot, .stOut), (.stWch n (.dispatch t) slot, .stWch),
    (.stTil n (.dispatch t), .stTil), (.lnArm n (.dispatch t), .lnArm), (.lnSig n (.dispatch t), .lnSig)]

theorem engOf_engDispatches (h : (i, op) ∈ engDispatches n t slot) : engOf op ≠ .seq := by
  have hall : ∀ x ∈ engDispatches n t slot, engOf x.2 ≠ .seq := by simp [engDispatches, engOf]
  exact hall _ h

theorem exec_engDispatches (h : (i, op) ∈ engDispatches n t slot) (s : State) : exec i s = .next (dispatchOp s n t op) := by
  have hall : ∀ x ∈ engDispatches n t slot, exec x.1 s = .next (dispatchOp s n t x.2) := by
    simp only [engDispatches, List.forall_mem_cons, List.not_mem_nil, IsEmpty.forall_iff, implies_true, and_true]
    exact ⟨rfl, rfl, rfl, rfl, rfl, rfl, rfl, rfl, rfl, rfl, rfl, rfl, rfl, rfl, rfl, rfl, rfl, rfl, rfl, rfl, rfl, rfl, rfl⟩
  exact hall _ h

theorem dispatchOp_of (h : dispatchable s n t op = true) :
    dispatchOp s n t op = s.setCore n (dispatchEng (s.core n) t (wordAt s n t) op) :=
  withDispatch_of h _

/-- Settles O14: the queues by `dispatchEng_eq`, the tasks and the regions by what `noted` keeps. -/
theorem engineDispatch : Obligations.EngineDispatch := by
  unfold Obligations.EngineDispatch
  intro s n t slot op i hi h c w k d
  have hi' : (i, op) ∈ engDispatches n t slot := hi
  have hnoted := notesIn_noted c t w op
  have hd : d = _ := dispatchEng_eq c t w op
  refine ⟨(exec_engDispatches hi' s).trans (congrArg _ (dispatchOp_of h)), ?queue, fun g hg => ?queues, ?task, fun g => ?region,
    fun x hx => ?tasks, ?rest⟩
  case queue => rw [hd]; exact queueOf_setQueue_same c _ (engOf_engDispatches hi')
  case queues => rw [hd]; exact queueOf_setQueue_ne c _ hg
  case task => rw [hd]; exact (hnoted.own _).trans (by rw [Core.setTask_task, movedOn_eq]; rfl)
  case region =>
    have hkept : (c.setTask t (movedOn k w op)).region t g = c.region t g := Core.region_eq_of_regions (by simp [k]) g
    rw [hd]
    exact (hnoted.region g _ _).trans (by rw [hkept])
  case tasks => rw [hd]; exact (hnoted.other x hx).trans (Core.setTask_task_ne c _ hx)
  case rest => rw [hd, hnoted.rest]; exact ⟨rfl, rfl, rfl, rfl, rfl, rfl, rfl, rfl⟩

end Sys2Proof.Machine
end

section
/-! SUPPORT. Stream instructions at the head of their queue (R112, R113, R121, R138, R172): where an attempt waits or stops, and what one
that issues does. -/
namespace Sys2Proof.Machine
open Sys2Proof

variable {s : State} {n i g : Nat} {op : Op} {x : Instr}

/-- The issue attempts of ST.IN, ST.OUT and ST.WCH with slot `i`, each with its operation. -/
def streamAttempts (n i : Nat) : List (Instr × Op) := [(.stIn n .issue i, .stIn), (.stOut n .issue i, .stOut), (.stWch n .issue i, .stWch)]

theorem exec_streamAttempts (h : (x, op) ∈ streamAttempts n i) (s : State) : exec x s = .next (issueStream s n i op) := by
  simp only [streamAttempts, List.mem_cons, Prod.mk.injEq, List.not_mem_nil, or_false] at h
  obtain ⟨rfl, rfl⟩ | ⟨rfl, rfl⟩ | ⟨rfl, rfl⟩ := h
  · rfl
  · rfl
  · rfl

section attempt
variable (hh : atHead s n op = true)
include hh

theorem issueStream_of_badRegion (hb : badRegion (s.core n) op (headOf s n op) = some g) :
    issueStream s n i op = refusedAccess s n (cmdOf s n) op (headOf s n op) g := by
  unfold issueStream
  simp only [withHead_of hh, hb]

variable (hb : badRegion (s.core n) op (headOf s n op) = none)
include hb

theorem issueStream_of_full (hall : ∀ k, k < 8 → ((s.core n).slot k).active = true) :
    issueStream s n i op = s.setCore n ((s.core n).busyCycle 3) := by
  have hfull : (upto 8).all (fun k => ((s.core n).slot k).active) = true := by simpa [upto] using hall
  unfold issueStream
  simp only [withHead_of hh, hb, hfull, if_true]

theorem issueStream_of_free (hi : i < 8) (hfree : ((s.core n).slot i).active = false) :
    issueStream s n i op = s.setCore n
      ((popQueue ((s.core n).setSlot i (newSlot (s.core n) (headOf s n op) op)) .st).busyCycle 3) := by
  have hroom : (upto 8).all (fun k => ((s.core n).slot k).active) = false :=
    List.all_eq_false.mpr ⟨i, by simpa [upto] using hi, by simp [hfree]⟩
  have htaken : (decide (i ≥ 8) || ((s.core n).slot i).active) = false := by simp [hi, hfree]
  unfold issueStream
  simp only [withHead_of hh, hb, hroom, htaken, Bool.false_eq_true, if_false]

end attempt

theorem issueTil_of_badRegion (hh : atHead s n .stTil = true) (hb : badRegion (s.core n) .stTil (headOf s n .stTil) = some g) :
    issueTil s n = refusedAccess s n (cmdOf s n) .stTil (headOf s n .stTil) g := by
  unfold issueTil
  simp only [withHead_of hh, hb]

/-- The core after an ST.TIL, whose tile is in both orders of the weight buffer. -/
def tileCopied (c : Core) (q : QInstr) : Core :=
  let r := c.region q.task (stReg q.word)
  let tile := regionBytes c q.task r (readBase r q.seq + tilOff q.word * 64) (tilBytes q.word)
  (finishReads (popQueue (putTile c (tilTile q.word) (tilWide q.word) tile) .st) .stTil q).busyCycle 3

theorem issueTil_of (h : canIssue s n .stTil = true)
    (hw : tileWanted (s.core n) (headOf s n .stTil).seq (tilSlots (headOf s n .stTil).word) = false) :
    issueTil s n = s.setCore n (tileCopied (s.core n) (headOf s n .stTil)) := by
  obtain ⟨hh, hb, hr, -, hp⟩ := canIssue_parts h
  unfold issueTil
  simp [withHead_of hh, hb, hr, hw, hp, tileCopied]

/-- Settles O22: a stream by the slots and its region, ST.TIL by its region and by who still has to load from its slots. -/
theorem streamIssues : Obligations.StreamIssues := by
  unfold Obligations.StreamIssues
  intro s n i c
  refine ⟨fun op x hx hh hb hi hfree => ?takes, fun op x g hx hh => ⟨fun hb => ?refused, fun hb hop hall => ?waits⟩,
    fun h hw => congrArg _ (issueTil_of h hw)⟩
  case takes => exact (exec_streamAttempts hx s).trans (congrArg _ (issueStream_of_free hh hb hi hfree))
  case refused =>
    by_cases hop : op = .stTil
    · subst hop
      have hx' : x = .stTil n .issue := by simpa using hx
      subst hx'
      exact congrArg _ (issueTil_of_badRegion hh hb)
    · have hx' : (x, op) ∈ streamAttempts n i := by simpa [streamAttempts, hop] using hx
      exact (exec_streamAttempts hx' s).trans (congrArg _ (issueStream_of_badRegion hh hb))
  case waits =>
    have hx' : (x, op) ∈ streamAttempts n i := by simpa [streamAttempts, hop] using hx
    exact (exec_streamAttempts hx' s).trans (congrArg _ (issueStream_of_full hh hb hall))

end Sys2Proof.Machine
end

section
/-! SUPPORT. Lantern instructions (R115, R199, R201): an operation of a context on its own lantern, a wait that dispatches, and a consume
that is granted at once. -/
namespace Sys2Proof.Machine
open Sys2Proof

variable {s : State} {n t e v : Nat} {op : Op}

/-! ### Operations on a lantern of the context (R210) -/

/-- An operation of a command on a lantern of its own context acts on the entry. -/
theorem lntOp_of_own {key id lcore num : Nat} (hfind : findLnt s (keyPart key) num = some e) (hctx : (s.lnt e).ctx = keyCtx key)
    (f : State → Nat → State) : lntOp s key id lcore num f = f s e := by
  simp [lntOp, lntOpAs, hfind, hctx]

/-- LN.ARM or LN.SIG at the head, once everything that its task dispatched earlier has completed. -/
theorem issueLn_of (hh : atHead s n op = true) (hp : priorDone (s.core n) (headOf s n op).task (headOf s n op).seq = true)
    (hfind : findLnt s (cmdPart (cmdOf s n)) (lnLnt (headOf s n op).word) = some e) (hctx : (s.lnt e).ctx = keyCtx (cmdOf s n).key)
    (f : State → Nat → Nat → State) :
    issueLn s n op f = f (awaitHome (s.setCore n (popQueue (s.core n) .ln)) n op (headOf s n op) e) e
      (lnValue (headOf s n op).word (headOf s n op).s1) := by
  unfold issueLn
  rw [withHead_of hh]
  simp only [hp, if_true]
  exact lntOp_of_own (s := s.setCore n (popQueue (s.core n) .ln)) hfind hctx _

/-! ### Held tasks (R101) -/

theorem heldTask_task (s : State) (n t : Nat) (h : Hold) :
    ((heldTask s n t h).core n).task t = { gotoPc ((s.core n).task t) (((s.core n).task t).pc + 1) with hold := h } := by
  unfold heldTask
  rw [State.setCore_core]
  exact Core.setTask_task ..

@[simp] theorem heldTask_lnt (s : State) (n t : Nat) (h : Hold) (m : Nat) : (heldTask s n t h).lnt m = s.lnt m := rfl

@[simp] theorem releaseTask_lnt (s : State) (n t m : Nat) : (releaseTask s n t).lnt m = s.lnt m := rfl

theorem releaseTask_task (s : State) (n t : Nat) : ((releaseTask s n t).core n).task t = { (s.core n).task t with hold := .none } := by
  simp [releaseTask]

/-- A task that is held on a wait and released has run past it. -/
theorem releaseTask_heldTask (s : State) (n t : Nat) (h : Hold) :
    releaseTask (heldTask s n t h) n t = ranTask s n t ((s.core n).task t) := by
  have hset (c : Core) (x y : Task) : Core.setTask { c.setTask t x with lastTask := t } t y = { c.setTask t y with lastTask := t } := by
    simp [Core.setTask]
  unfold releaseTask
  dsimp only
  rw [heldTask_task, gotoPc_release]
  simp only [heldTask, State.setCore_core, State.setCore_setCore, hset, ranTask]

/-- A wait that dispatches leaves its task past it and held on it, and arrives at its lantern. -/
theorem holdLn_of (h : dispatchable s n t op = true) (hold : Nat → Nat → Hold) (arrive : CoreCmd → Nat → Nat → State → State) :
    holdLn s n t op hold arrive =
      let v := lnValue (wordAt s n t) (scalar ((s.core n).task t) (lnVreg (wordAt s n t)))
      arrive (cmdOf s n) (lnLnt (wordAt s n t)) v (heldTask s n t (hold (lnLnt (wordAt s n t)) v)) :=
  withDispatch_of h _

/-! ### Waits evaluated after a change (R196, R200) -/

theorem Tbl.find_map_snd {α β : Type} (f : α → β) (l : Tbl α) (k : Nat) :
    Tbl.find (l.map fun x => (x.1, f x.2)) k = (Tbl.find l k).map f := by
  induction l with
  | nil => rfl
  | cons x l ih =>
    simp only [List.map_cons, Tbl.find, ih]
    split <;> rfl

@[simp] theorem noteWaits_lnt (s : State) (m n : Nat) : (noteWaits s m).lnt n = s.lnt n := rfl

theorem noteWaits_core (s : State) (m n : Nat) : (noteWaits s m).core n = overCore (s.lnt m) (s.core n) := by
  simp only [noteWaits, State.core, Tbl.get, Tbl.find_map_snd]
  cases Tbl.find s.units.cores n <;> rfl

/-- Evaluating the waits at a lantern leaves a task that the evaluation leaves. -/
theorem overCore_task {x : Lantern} {c : Core} (h : overTask x (c.task t) = c.task t) : (overCore x c).task t = c.task t := by
  have hmap : Tbl.get {} (c.tasks.map fun k => (k.1, overTask x k.2)) t = overTask x (c.task t) := by
    simp only [Core.task, Tbl.get, Tbl.find_map_snd]
    cases Tbl.find c.tasks t <;> rfl
  unfold overCore
  split
  · exact hmap.trans h
  · rfl

/-- A task at a consume is at no wait. -/
theorem noteWaits_task_of_consume {l : Nat} {g : Bool} (h : ((s.core n).task t).hold = .consume l v g) (m : Nat) :
    ((noteWaits s m).core n).task t = (s.core n).task t := by
  rw [noteWaits_core, overCore_task]
  simp [overTask, h]

theorem flushCount_of_scope (h : (s.lnt n).scope ≠ 4) : flushCount s n = s := by
  simp [flushCount, h]

/-! ### A consume granted at once (R201) -/

@[simp] theorem grantTask_lnt (s : State) (w : Waiter) (m : Nat) : (grantTask s w).lnt m = s.lnt m := by
  unfold grantTask
  dsimp only
  split <;> rfl

theorem grantTask_task {w : Waiter} {l : Nat} {g : Bool} (h : ((s.core w.core).task w.task).hold = .consume l v g) :
    ((grantTask s w).core w.core).task w.task = { (s.core w.core).task w.task with hold := .consume l v true } := by
  simp [grantTask, h]

/-- The entry of a lantern that has granted the only consume that waits for it. -/
def consumed (x : Lantern) (w : Waiter) : Lantern :=
  { x with count := (x.count + 2 ^ 32 - w.v % 2 ^ 32) % 2 ^ 32, queue := [], held := [], reached := stillReached x [w] }

theorem settleHome_of_granted {x : Lantern} {w : Waiter} (hq : x.queue = []) (hheld : x.held = [w]) (hscope : x.scope ≠ 4)
    (hr : reachedBy x w.v = true) : settleHome s n x = noteWaits (grantTask (s.setLnt n (consumed x w)) w) n := by
  have hreach : (x.count + two32 - w.v % two32) % two32 < 2147483648 := of_decide_eq_true hr
  have hgrant : grantLoop [w] x.count = ((x.count + 2 ^ 32 - w.v % 2 ^ 32) % 2 ^ 32, [], [w]) := by
    unfold grantLoop
    rw [if_pos hreach]
    rfl
  have hdue : (x.scope == 4 && x.root) = false := by simp [hscope]
  have hentry : settleHome s n x = flushCount (noteWaits (grantTask (s.setLnt n (consumed x w)) w) n) n := by
    unfold settleHome
    simp [hq, hheld, hgrant, refill, consumed, hdue]
  rw [hentry, flushCount_of_scope]
  simpa [consumed] using hscope

/-- The state after LN.WTC has joined the consumes of entry `e` with an amount `v`. -/
def joined (s : State) (n t e v : Nat) : State :=
  settleHome (heldTask s n t (.consume (lnLnt (wordAt s n t)) v false)) e
    { s.lnt e with held := (s.lnt e).held ++ [{ core := n, task := t, v := v }] }

/-- The same where the consume waits alone and is granted, before the waits at the lantern are evaluated. -/
def granted (s : State) (n t e v : Nat) : State :=
  let w : Waiter := { core := n, task := t, v := v }
  grantTask ((heldTask s n t (.consume (lnLnt (wordAt s n t)) v false)).setLnt e (consumed (s.lnt e) w)) w

theorem joined_of_granted (hscope : (s.lnt e).scope ≠ 4) (hq : (s.lnt e).queue = []) (hheld : (s.lnt e).held = [])
    (hr : reachedBy (s.lnt e) v = true) : joined s n t e v = noteWaits (granted s n t e v) e := by
  unfold joined
  rw [hheld]
  exact settleHome_of_granted hq rfl hscope hr

theorem granted_task (s : State) (n t e v : Nat) : ((granted s n t e v).core n).task t =
    { gotoPc ((s.core n).task t) (((s.core n).task t).pc + 1) with hold := .consume (lnLnt (wordAt s n t)) v true } := by
  have hheld := heldTask_task s n t (.consume (lnLnt (wordAt s n t)) v false)
  have hgrant : ((granted s n t e v).core n).task t = _ :=
    grantTask_task (w := { core := n, task := t, v := v }) (congrArg Task.hold hheld)
  rw [hgrant, State.setLnt_core, hheld]

@[simp] theorem granted_lnt_same (s : State) (n t e v : Nat) :
    (granted s n t e v).lnt e = consumed (s.lnt e) { core := n, task := t, v := v } := by
  simp [granted]

theorem granted_lnt_ne (s : State) (n t v : Nat) {j : Nat} (hj : j ≠ e) : (granted s n t e v).lnt j = s.lnt j := by
  simp [granted, State.setLnt_lnt_ne _ _ _ hj]

/-- LN.WTC whose consume is granted when it joins goes on. -/
theorem execLnWtc_of_granted {l x : Nat} (h : dispatchable s n t .lnWtc = true)
    (hv : v = lnValue (wordAt s n t) (scalar ((s.core n).task t) (lnVreg (wordAt s n t))))
    (hfind : findLnt s (cmdPart (cmdOf s n)) (lnLnt (wordAt s n t)) = some e) (hctx : (s.lnt e).ctx = keyCtx (cmdOf s n).key)
    (hg : (((joined s n t e v).core n).task t).hold = .consume l x true) :
    execLnWtc n t s = .next (releaseTask (joined s n t e v) n t) := by
  subst hv
  unfold joined at hg ⊢
  unfold execLnWtc
  rw [holdLn_of h]
  dsimp only
  rw [lntOp_of_own (s := heldTask s n t _) hfind hctx]
  dsimp only [heldTask_lnt]
  split
  case h_1 => rfl
  case h_2 hno => exact absurd hg (hno l x)

/-- Settles O31: LN.ARM and LN.SIG at the head, LN.WAIT and LN.WTC from their dispatch, and the consume that is granted at once. -/
theorem lanternInstructions : Obligations.LanternInstructions := by
  unfold Obligations.LanternInstructions
  intro s n t e c m own k w v
  refine ⟨fun op i f hi hh ⟨hfind, hctx⟩ hp => ?issues, fun h ⟨hfind, hctx⟩ => ?waits, fun h ⟨hfind, hctx⟩ => ?joins,
    fun h ⟨hfind, hctx⟩ hscope hq hheld hr => ?granted⟩
  case issues =>
    simp only [List.mem_cons, Prod.mk.injEq, List.not_mem_nil, or_false] at hi
    obtain ⟨rfl, rfl, rfl⟩ | ⟨rfl, rfl, rfl⟩ := hi
    · exact congrArg _ (issueLn_of hh hp hfind hctx _)
    · exact congrArg _ (issueLn_of hh hp hfind hctx _)
  case waits =>
    rw [← releaseTask_heldTask s n t (.wait (lnLnt w) v false)]
    exact congrArg _ ((holdLn_of h _ _).trans (lntOp_of_own (s := heldTask s n t _) hfind hctx _))
  case joins => exact congrArg _ ((holdLn_of h _ _).trans (lntOp_of_own (s := heldTask s n t _) hfind hctx _))
  case granted =>
    have hgrant := granted_task s n t e v
    have hjoin : joined s n t e v = noteWaits (granted s n t e v) e := joined_of_granted hscope hq hheld hr
    have htask : ((joined s n t e v).core n).task t = ((granted s n t e v).core n).task t := by
      rw [hjoin, noteWaits_task_of_consume (congrArg Task.hold hgrant)]
    refine ⟨releaseTask (joined s n t e v) n t,
      execLnWtc_of_granted h rfl hfind hctx (congrArg Task.hold (htask.trans hgrant)), ?count, ?queue, ?task, fun j hj => ?others⟩
    case count => rw [releaseTask_lnt, hjoin, noteWaits_lnt, granted_lnt_same]; rfl
    case queue => rw [releaseTask_lnt, hjoin, noteWaits_lnt, granted_lnt_same]; rfl
    case task => rw [releaseTask_task, htask, hgrant, gotoPc_release]
    case others => rw [releaseTask_lnt, hjoin, noteWaits_lnt, granted_lnt_ne _ _ _ _ hj]

end Sys2Proof.Machine
end

section
/-! SUPPORT. The function unit (R130, R135 to R137): how an attempt finds the head of its queue, the stop of one whose table is missing, and
the issue of one whose tables are good. -/
namespace Sys2Proof.Machine
open Sys2Proof

variable {s : State} {n : Nat} {op : Op} {i : Instr}

/-- The issue attempts of the function unit, each with its operation. -/
def fxIssues (n : Nat) : List (Instr × Op) := [(.fxFwd n .issue, .fxFwd), (.fxBwi n .issue, .fxBwi), (.fxBwo n .issue, .fxBwo)]

theorem engOf_fxIssues (h : (i, op) ∈ fxIssues n) : engOf op = .fx := by
  have hall : ∀ x ∈ fxIssues n, engOf x.2 = .fx := by simp [fxIssues, engOf]
  exact hall _ h

/-- Every function-unit attempt is the issue step of its operation. -/
theorem exec_fxIssues (h : (i, op) ∈ fxIssues n) (s : State) : exec i s = .next (fxStep s n .issue op) := by
  simp only [fxIssues, List.mem_cons, Prod.mk.injEq, List.not_mem_nil, or_false] at h
  obtain ⟨rfl, rfl⟩ | ⟨rfl, rfl⟩ | ⟨rfl, rfl⟩ := h <;> rfl

/-- An instruction at the head of the function unit is what `headOf` reads from its queue. -/
theorem fx_queue_of_atHead (he : engOf op = .fx) (hh : atHead s n op = true) :
    ∃ l, (s.core n).q.fx = headOf s n op :: l ∧ opOf (headOf s n op).word = some op := by
  unfold atHead at hh
  simp only [he, queueOf, Bool.and_eq_true] at hh
  simp only [headOf, he, queueOf]
  cases hq : (s.core n).q.fx with
  | nil => simp [hq] at hh
  | cons q l => exact ⟨l, rfl, by simpa [hq] using hh.2⟩

/-! ### A missing table (R135) -/

theorem fxStep_of_notIssued (he : engOf op = .fx) (hh : atHead s n op = true)
    (hm : fxMode (s.core n).fx op (vFunct (headOf s n op).word) = .notIssued) :
    fxStep s n .issue op = stopRun s (cmdPart (cmdOf s n)) stTable (vFunct (headOf s n op).word % 64) := by
  obtain ⟨l, hq, hop⟩ := fx_queue_of_atHead he hh
  simp [fxStep, atHead_cmd hh, hq, hop, hm]

/-- Settles O18: the attempt of FX.FWD or FX.BWI whose mode is not to issue stops the run. -/
theorem functionUnavailable : Obligations.FunctionUnavailable := by
  unfold Obligations.FunctionUnavailable
  intro s n op i hi hh f hm
  have hfx : (i, op) ∈ fxIssues n := List.mem_append_left [(Instr.fxBwo n .issue, Op.fxBwo)] hi
  rw [exec_fxIssues hfx, fxStep_of_notIssued (engOf_fxIssues hfx) hh hm]
  rfl

/-! ### Good tables (R135, R136) -/

/-- The core that counts its command as run in output-formula mode (R136). -/
def inFormulaMode (c : Core) : Core := { c with formula := true }

@[simp] theorem headOf_inFormulaMode (s : State) (n : Nat) (op : Op) :
    headOf (s.setCore n (inFormulaMode (s.core n))) n op = headOf s n op := by
  unfold headOf
  rw [State.setCore_core]
  cases engOf op <;> rfl

@[simp] theorem cmdOf_inFormulaMode (s : State) (n : Nat) : cmdOf (s.setCore n (inFormulaMode (s.core n))) n = cmdOf s n := by
  unfold cmdOf
  rw [State.setCore_core]
  rfl

/-- The mark decides no issue condition. -/
@[simp] theorem canIssue_inFormulaMode (s : State) (n : Nat) (op : Op) :
    canIssue (s.setCore n (inFormulaMode (s.core n))) n op = canIssue s n op := by
  unfold canIssue atHead
  rw [headOf_inFormulaMode, State.setCore_core]
  cases engOf op <;> rfl

theorem fxStep_of_good_tables {f : Nat} {mode : FxMode} (he : engOf op = .fx) (h : canIssue s n op = true)
    (hfn : vFunct (headOf s n op).word = f) (hmode : fxMode (s.core n).fx op f = mode) (hm : mode ≠ .notIssued)
    (hgood : (fxReads f mode).find? (fun k => (s.core n).fx.bad.contains k) = none) :
    fxStep s n .issue op =
      issueCompute (if mode = .formula then s.setCore n (inFormulaMode (s.core n)) else s) n op (fxWork mode) := by
  obtain ⟨hh, hb, hr, hf, -⟩ := canIssue_parts h
  obtain ⟨l, hq, hop⟩ := fx_queue_of_atHead he hh
  simp only [fxStep, inFormulaMode, atHead_cmd hh, hq, hop, hfn, hmode, hm, hgood, hb, hr, hf, bne_self_eq_false, Bool.false_eq_true,
    if_false, Option.isNone_none, Bool.and_self, Bool.true_and, decide_eq_true_eq]

/-- Settles O17: the attempt issues through `issueCompute`, as a vector instruction's does, on the core marked first where the mode is the
output formula. -/
theorem functionIssues : Obligations.FunctionIssues := by
  unfold Obligations.FunctionIssues
  intro s n op i hi h f mode hm hgood
  rw [exec_fxIssues hi, fxStep_of_good_tables (engOf_fxIssues hi) h rfl rfl hm hgood]
  by_cases hmode : mode = .formula
  case pos =>
    have h' := (canIssue_inFormulaMode s n op).trans h
    rw [if_pos hmode, if_pos hmode, issueCompute_of h']
    simp only [headOf_inFormulaMode, cmdOf_inFormulaMode, State.setCore_core, State.setCore_setCore]
    rfl
  case neg => rw [if_neg hmode, if_neg hmode, issueCompute_of h]

end Sys2Proof.Machine
end

section
/-! SUPPORT. Data that return for an ST.IN (R160, R173, R227, R233, R389): who takes what returns, and what one run of contiguous pieces does
by the kind of its stream. -/
namespace Sys2Proof.Machine
open Sys2Proof

variable {s u : State} {n i q0 a phys len : Nat} {m : CoreCmd} {data bs : Bytes}

/-! ### A run enters its region (R173) -/

/-- The slot whose pieces in the `len` bytes at sequence offset `a` are no longer in flight. -/
def landed (x : Slot) (a len : Nat) : Slot :=
  let out (o : Nat) : Bool := decide (o < a) || decide (a + len ≤ o)
  { x with fly := x.fly.filter (fun f => out f.1), stale := x.stale.filter out }

/-- The core whose slot `i` takes a run's bytes into its region. -/
def entered (c : Core) (i a len : Nat) (bs : Bytes) : Core := deliver16 (c.setSlot i (landed (c.slot i) a len)) i a bs

/-- What lands does not move the stream's region. -/
theorem streamIn_landed (c : Core) (i : Nat) (x : Slot) (a len : Nat) :
    streamIn (c.setSlot i (landed x a len)) (landed x a len) = streamIn c x := rfl

/-- A delivery whose region lies in its window is not refused (R152). -/
theorem deliverAt_of_in (h : streamIn (s.core n) ((s.core n).slot i) = true) :
    deliverAt s n i m a bs = s.setCore n (deliver16 (s.core n) i a bs) := by
  simp [deliverAt, h]

theorem deliverAt_landed {c : Core} (h : streamIn c (c.slot i) = true) :
    deliverAt (s.setCore n (c.setSlot i (landed (c.slot i) a len))) n i m a bs = s.setCore n (entered c i a len bs) := by
  have hin : streamIn (c.setSlot i (landed (c.slot i) a len)) (landed (c.slot i) a len) = true :=
    (streamIn_landed c i _ a len).trans h
  rw [deliverAt_of_in] <;> simp [hin, entered]

/-! ### A run by the kind of its stream -/

@[simp] theorem useHost_core (s : State) (k b n : Nat) : (useHost s k b).core n = s.core n := by
  unfold useHost meter
  dsimp only
  split <;> rfl

section runs
variable (hc : (s.core n).cmd = some m)
include hc

theorem returnRun_of_stack (hk : slotKind ((s.core n).slot i) = 1) {bad : Bool}
    (hr : readStackAt s m.key (n / 64) phys len (fillOk ((s.core n).slot i) a len) = (bad, bs, u)) :
    returnRun n i m q0 data s (a, phys, len) =
      if bad = true then stackUnc u m 1 (slotAddr ((s.core n).slot i) a)
      else deliverAt (u.setCore n ((u.core n).setSlot i (landed ((s.core n).slot i) a len))) n i m a bs := by
  simp [returnRun, hc, hk, hr, landed]

theorem returnRun_of_pool (hk : slotKind ((s.core n).slot i) = 3) :
    returnRun n i m q0 data s (a, phys, len) =
      if poolBadAt s (n / 64) phys len = true then poolParity s n m (slotAddr ((s.core n).slot i) a) phys
      else deliverAt (s.setCore n ((s.core n).setSlot i (landed ((s.core n).slot i) a len))) n i m a
        (Mem.rdN (s.pool (n / 64)) phys len) := by
  simp [returnRun, hc, hk, landed]

theorem returnRun_of_host (hk : slotKind ((s.core n).slot i) = 2) :
    returnRun n i m q0 data s (a, phys, len) =
      deliverAt ((useHost s m.key len).setCore n ((s.core n).setSlot i (landed ((s.core n).slot i) a len))) n i m a
        ((upto len).map (fun j => data.getD (a - q0 + j) 0)) := by
  simp [returnRun, hc, hk, landed]

end runs

/-! ### Who takes what returns (R194, R238) -/

/-- What no ST.IN holds, and what a gather asked, goes to the sorter's requesters. -/
theorem execStreamDataReturn_of_sorter {q : Nat}
    (h : (s.core n).cmd = none ∨ ((s.core n).slot i).active = false ∨ ((s.core n).slot i).op ≠ .stIn ∨
      slotKind ((s.core n).slot i) = 4) :
    execStreamDataReturn n i q data s = .next (gatherReturn s n i q) := by
  unfold execStreamDataReturn
  dsimp only
  cases hc : (s.core n).cmd with
  | none => rfl
  | some m =>
    have hother : ((s.core n).slot i).active = false ∨ ((s.core n).slot i).op ≠ .stIn ∨ slotKind ((s.core n).slot i) = 4 :=
      h.resolve_left (by simp [hc])
    exact if_pos (by simpa [or_assoc] using hother)

/-- Data of an ST.IN are delivered run by run, each on the state that the run before it leaves. -/
theorem execStreamDataReturn_of_runs {q : Nat} (hc : (s.core n).cmd = some m) (ha : ((s.core n).slot i).active = true)
    (hop : ((s.core n).slot i).op = .stIn) (hk : slotKind ((s.core n).slot i) ≠ 4) :
    execStreamDataReturn n i q data s =
      let t := (pieceRuns (requestPieces ((s.core n).slot i) q)).foldl (returnRun n i m (q / 64 * 64) data) s
      .next (if (t.core n).cmd = some m then pumpSlot t n i m else t) := by
  simp only [execStreamDataReturn, hc, ha, hop, hk, bne_self_eq_false, Bool.not_true, Bool.or_self, decide_false, Bool.false_eq_true,
    if_false, beq_iff_eq]
  exact (apply_ite Host.Outcome.next _ _ _).symm

/-- Settles O24: who takes what returns, then a run of each kind of memory by its parity or poison. -/
theorem returnedData : Obligations.ReturnedData := by
  unfold Obligations.ReturnedData
  intro s u n i q data c m x q0
  refine ⟨execStreamDataReturn_of_sorter, fun hcmd ha hop hk => execStreamDataReturn_of_runs (cmd_of hcmd) ha hop hk,
    fun hcmd a phys len bs hin => ⟨fun hk => ?host, fun hk hgood => ?pool, fun hk hbad => ?badParity, fun hk hr => ?poison,
      fun hk hr hu => ?stack⟩⟩
  case host => exact (returnRun_of_host (cmd_of hcmd) hk).trans (deliverAt_landed hin)
  case pool =>
    rw [returnRun_of_pool (cmd_of hcmd) hk, if_neg (by simp [hgood])]
    exact deliverAt_landed hin
  case badParity => exact (returnRun_of_pool (cmd_of hcmd) hk).trans (if_pos hbad)
  case poison => exact returnRun_of_stack (cmd_of hcmd) hk hr
  case stack =>
    rw [returnRun_of_stack (cmd_of hcmd) hk hr, if_neg (by simp), hu]
    exact deliverAt_landed hin

end Sys2Proof.Machine
end

section
/-! SUPPORT. Packets that leave the module (R295, R301 to R303): sending one changes no unit, and so no core. -/
namespace Sys2Proof.Machine
open Sys2Proof

@[simp] theorem report_units (s : State) (line : Nat) (e : Evt) : (report s line e).units = s.units := by
  unfold report
  dsimp only
  split <;> rfl

@[simp] theorem sendIrq_units (s : State) (port vf vec : Nat) : (sendIrq s port vf vec).units = s.units := by
  unfold sendIrq
  split <;> rfl

@[simp] theorem ctxEvent_units (s : State) (k b : Nat) : (ctxEvent s k b).units = s.units := by
  unfold ctxEvent
  dsimp only
  split
  · rfl
  · split
    · exact sendIrq_units ..
    · rfl

@[simp] theorem jobAlert_units (s : State) (p : Nat) : (jobAlert s p).units = s.units := by
  unfold jobAlert
  dsimp only
  refine List.foldlRecOn (motive := fun t : State => t.units = s.units) _ _ rfl fun t ht c _ => ?_
  split
  · exact ht
  · exact (ctxEvent_units ..).trans ht

@[simp] theorem unroute_units (s : State) (dir dst job : Nat) : (unroute s dir dst job).units = s.units := by
  unfold unroute
  dsimp only
  split
  · exact (jobAlert_units ..).trans (report_units ..)
  · exact report_units ..

@[simp] theorem launchOut_units (s : State) (o : Outgoing) : (launchOut s o).units = s.units := by
  unfold launchOut
  split
  case h_1 => rfl
  case h_2 dir _ => exact unroute_units ..
  case h_3 dir wrap _ => rfl

theorem sendPkt_units (s : State) (p rank : Nat) (k : Packet) : (sendPkt s p rank k).units = s.units := by
  unfold sendPkt
  dsimp only
  split
  · rfl
  · split
    · exact unroute_units ..
    · exact launchOut_units ..

@[simp] theorem sendPkt_core (s : State) (p rank : Nat) (k : Packet) (n : Nat) : (sendPkt s p rank k).core n = s.core n :=
  congrArg (fun u : Units => Tbl.get ({} : Core) u.cores n) (sendPkt_units s p rank k)

end Sys2Proof.Machine
end

section
/-! SUPPORT. Chunks of the streams (R173, R174, R176, R177, R317): where one begins, and where the oldest becomes visible and its stream
ends. -/
namespace Sys2Proof.Machine
open Sys2Proof

variable {s : State} {n i : Nat} {m : CoreCmd}

/-! ### A chunk begins (R173, R174, R318) -/

theorem execChunkBegin_of_in (hc : (s.core n).cmd = some m) (ha : ((s.core n).slot i).active = true)
    (hop : ((s.core n).slot i).op = .stIn) (hb : inBegins (s.core n) ((s.core n).slot i) = true) :
    execChunkBegin n i s = .next (pumpSlot (beginIn s n i m) n i m) := by
  simp [execChunkBegin, hc, ha, hop, hb]

theorem execChunkBegin_of_out (hc : (s.core n).cmd = some m) (ha : ((s.core n).slot i).active = true)
    (hop : ((s.core n).slot i).op = .stOut) (hb : outBegins (s.core n) ((s.core n).slot i) = true) :
    execChunkBegin n i s = .next (pumpSlot (beginOut s n i) n i m) := by
  simp [execChunkBegin, hc, ha, hop, hb]

/-- The state in which an ST.IN's next chunk is reserved, its writer done where that is the last. -/
def chunkReserved (s : State) (n i : Nat) : State :=
  let c := s.core n
  let x := c.slot i
  let y := { x with begun := x.begun + nextChunk x }
  let r := reserve (c.region x.task (stReg x.word)) x.seq (wordsOf (nextChunk x))
  s.setCore n (((c.setRegion x.task (stReg x.word) (if y.begun = slotLen x then doneWriter r x.seq else r)).setSlot i y).busyCycle 3)

theorem beginIn_of_memory (hk : slotKind ((s.core n).slot i) ≠ 5) : beginIn s n i m = chunkReserved s n i := if_neg hk

/-- The receiver of a channel grants its peer credit for the chunk. -/
theorem beginIn_of_channel (hk : slotKind ((s.core n).slot i) = 5) :
    beginIn s n i m =
      let x := (s.core n).slot i
      let e := collOf (chunkReserved s n i) m.key (slotChan x)
      sendFor (chunkReserved s n i) (cmdPart m) m.key (colRank e (colPeer e)) { ty := 6, chan := slotChan x, aux := nextChunk x } :=
  if_pos hk

/-- Settles O23: each operation begins its chunk where its bound and its region allow it; only a channel's receiver sends credit. -/
theorem chunksBegin : Obligations.ChunksBegin := by
  unfold Obligations.ChunksBegin
  intro s n i c m x r y r1 hcmd ha hlt
  refine ⟨fun hop hopen hcov => ?out, fun hop hopen hres => ?into⟩
  case out =>
    have hb : outBegins c x = true := by simp [outBegins, hlt, hopen, hcov, r]
    exact execChunkBegin_of_out (cmd_of hcmd) ha hop hb
  case into =>
    have hb : inBegins c x = true := by simp [inBegins, hlt, hopen, hres, r]
    have hbegin {u : State} (h : beginIn s n i m = u) : exec (.chunkBegin n i) s = .next (pumpSlot u n i m) :=
      h ▸ execChunkBegin_of_in (cmd_of hcmd) ha hop hb
    exact ⟨fun hk => hbegin (beginIn_of_memory hk), fun hk => hbegin (beginIn_of_channel hk)⟩

/-! ### What a channel's receiver has acknowledged (R317) -/

/-- The bytes of a slot's stream that are acknowledged once its receiver has acknowledged what the tail has passed. -/
def ackedBytes (c : Core) (x : Slot) : Nat :=
  if slotKind x = 5 then max x.acked (tailedBytes x (c.region x.task (stReg x.word))) else x.acked

/-- An acknowledgement changes the cores as far as it moves what its slot has acknowledged. -/
theorem ackTailed_cases (hop : ((s.core n).slot i).op = .stIn) :
    (ackTailed s n i m = s ∧ ackedBytes (s.core n) ((s.core n).slot i) = ((s.core n).slot i).acked) ∨
    ∀ k, (ackTailed s n i m).core k = (s.setCore n ((s.core n).setSlot i
      { (s.core n).slot i with acked := ackedBytes (s.core n) ((s.core n).slot i) })).core k := by
  unfold ackTailed ackedBytes
  dsimp only
  split
  next hnone =>
    refine .inl ⟨rfl, ?_⟩
    split
    next hk => exact max_eq_left (by simpa [hop, hk] using hnone)
    next => rfl
  next hsome =>
    obtain ⟨hk, hnew⟩ : slotKind ((s.core n).slot i) = 5 ∧ ((s.core n).slot i).acked < tailedBytes ((s.core n).slot i)
        ((s.core n).region ((s.core n).slot i).task (stReg ((s.core n).slot i).word)) := by
      simpa [hop] using hsome
    rw [if_pos hk, max_eq_right hnew.le]
    exact .inr fun k => sendPkt_core ..

theorem ackTailed_slot (hop : ((s.core n).slot i).op = .stIn) : ((ackTailed s n i m).core n).slot i =
    { (s.core n).slot i with acked := ackedBytes (s.core n) ((s.core n).slot i) } := by
  obtain ⟨hsame, hacked⟩ | hmoved := ackTailed_cases (m := m) hop
  · rw [hsame, hacked]
  · rw [hmoved, State.setCore_core, Core.setSlot_slot]

theorem ackTailed_slot_ne (hop : ((s.core n).slot i).op = .stIn) {j : Nat} (hj : j ≠ i) :
    ((ackTailed s n i m).core n).slot j = (s.core n).slot j := by
  obtain ⟨hsame, -⟩ | hmoved := ackTailed_cases (m := m) hop
  · rw [hsame]
  · rw [hmoved, State.setCore_core, Core.setSlot_slot_ne _ _ hj]

theorem ackTailed_core_ne (hop : ((s.core n).slot i).op = .stIn) {k : Nat} (hk : k ≠ n) :
    (ackTailed s n i m).core k = s.core k := by
  obtain ⟨hsame, -⟩ | hmoved := ackTailed_cases (m := m) hop
  · rw [hsame]
  · rw [hmoved, State.setCore_core_ne _ _ _ hk]

/-! ### The end of an ST.IN (R176) -/

/-- The slot of a stream that has ended. -/
def freed (x : Slot) : Slot := { x with active := false, fly := [], pf := [] }

/-- An ST.IN without DONE_LNT acknowledges what it has still to, and frees its slot. -/
theorem endStream_of_in (hop : ((s.core n).slot i).op = .stIn) (hd : dDoneEn ((s.core n).slot i).desc = false) :
    endStream s n i m = (ackTailed s n i m).setCore n
      (((ackTailed s n i m).core n).setSlot i (freed (((ackTailed s n i m).core n).slot i))) := by
  unfold endStream
  simp [ackTailed_slot hop, hop, hd, freed]

/-! ### The oldest chunk becomes visible (R174, R176, R177) -/

/-- Where the oldest chunk of a slot not yet visible ends. -/
def chunkEnd (x : Slot) : Nat := min (x.vis + slotChunk x) (slotLen x)

/-- The core whose slot `i` shows its oldest chunk: with REL an ST.OUT has released its words. -/
def chunkShown (c : Core) (i : Nat) : Core :=
  let x := c.slot i
  let c1 := if x.op = .stOut ∧ stRel x.word = true then
    c.setRegion x.task (stReg x.word) (partRelease (c.region x.task (stReg x.word)) x.seq (wordsOf (chunkEnd x - x.vis))) else c
  c1.setSlot i { x with vis := chunkEnd x }

/-- An ST.IN releases nothing of its region. -/
theorem chunkShown_of_in {c : Core} (hop : (c.slot i).op = .stIn) :
    chunkShown c i = c.setSlot i { c.slot i with vis := chunkEnd (c.slot i) } := by
  simp [chunkShown, hop]

/-- The state once that chunk is visible and its lantern, where enabled, is signalled. -/
def chunkSignalled (s : State) (n i : Nat) (m : CoreCmd) : State :=
  let x := (s.core n).slot i
  let t := s.setCore n (chunkShown (s.core n) i)
  if dChunkEn x.desc = true then lntSignal t m.key m.cmd m.lcore (dChunkLnt x.desc) 1 else t

theorem execChunkVisible_of (hc : (s.core n).cmd = some m) (ha : ((s.core n).slot i).active = true)
    (hop : ((s.core n).slot i).op ≠ .stWch) (hbegun : chunkEnd ((s.core n).slot i) ≤ ((s.core n).slot i).begun)
    (hvis : ((s.core n).slot i).vis < slotLen ((s.core n).slot i))
    (hmoved : chunkEnd ((s.core n).slot i) ≤ movedBytes (s.core n) ((s.core n).slot i)) :
    execChunkVisible n i s = .next
      (if chunkEnd ((s.core n).slot i) = slotLen ((s.core n).slot i) ∧ ((chunkSignalled s n i m).core n).cmd = some m then
        endStream (chunkSignalled s n i m) n i m else chunkSignalled s n i m) := by
  unfold chunkEnd at hbegun hmoved
  unfold execChunkVisible
  dsimp only
  rw [hc]
  dsimp only
  rw [if_neg (by simp [ha, hop, hbegun.not_gt, hvis.ne, hmoved.not_gt])]
  simp only [Bool.and_eq_true, beq_iff_eq, decide_eq_true_eq]
  exact (apply_ite Host.Outcome.next _ _ _).symm

/-- Settles O25: the chunk that becomes visible, then the slot of an ST.IN that ends with it and the frame of the cores. -/
theorem chunkVisibility : Obligations.ChunkVisibility := by
  unfold Obligations.ChunkVisibility
  intro s n i c m x e c1 s1 s2 hcmd ha hop hbegun hvis hmoved
  refine ⟨execChunkVisible_of (cmd_of hcmd) ha hop hbegun hvis hmoved, fun hin hchunk hdone _ => ?ends⟩
  case ends =>
    have hs2 : s2 = s.setCore n (c.setSlot i { x with vis := e }) := by
      have hs1 : s2 = s1 := if_neg (by simp [hchunk])
      exact hs1.trans (congrArg (s.setCore n) (chunkShown_of_in hin))
    have hcore : s2.core n = c.setSlot i { x with vis := e } := by rw [hs2, State.setCore_core]
    have hslot : (s2.core n).slot i = { x with vis := e } := by rw [hcore, Core.setSlot_slot]
    have hin2 : ((s2.core n).slot i).op = .stIn := by rw [hslot]; exact hin
    have hend := endStream_of_in (m := m) hin2 (by rw [hslot]; exact hdone)
    refine ⟨?slot, fun j hj => ?slots, fun k hk => ?cores⟩
    case slot => rw [hend, State.setCore_core, Core.setSlot_slot, ackTailed_slot hin2, hslot, hcore]; rfl
    case slots =>
      rw [hend, State.setCore_core, Core.setSlot_slot_ne _ _ hj, ackTailed_slot_ne hin2 hj, hcore, Core.setSlot_slot_ne _ _ hj]
    case cores =>
      rw [hend, State.setCore_core_ne _ _ _ hk, ackTailed_core_ne hin2 hk, hs2, State.setCore_core_ne _ _ _ hk]

end Sys2Proof.Machine
end

section
/-! SUPPORT. Page walks, halted slots and their limit (R179 to R182, R221). -/
namespace Sys2Proof.Machine
open Sys2Proof

variable {s : State} {n i : Nat} {m : CoreCmd}

/-! ### A walk ends (R179) -/

section walks
variable (hc : (s.core n).cmd = some m) (ha : ((s.core n).slot i).active = true) (hw : ((s.core n).slot i).walking = true)
  (hr : walkRuns s (cmdPart m) n i = true)
include hc ha hw hr

theorem execTranslationWalkComplete_of_entry {cause : Nat} {t : TEntry}
    (h : walkResult (endWalk s (cmdPart m) n i) (cmdPart m) ((s.core n).slot i) = (cause, some t)) :
    execTranslationWalkComplete n i s = .next (pumpSlot ((endWalk s (cmdPart m) n i).setCore n
      (tcFill ((s.core n).setSlot i { (s.core n).slot i with walking := false, halted := false }) t)) n i m) := by
  simp [execTranslationWalkComplete, hc, ha, hw, hr, h]

theorem execTranslationWalkComplete_of_fault {cause : Nat}
    (h : walkResult (endWalk s (cmdPart m) n i) (cmdPart m) ((s.core n).slot i) = (cause, none)) :
    execTranslationWalkComplete n i s =
      .next (haltSlot (endWalk s (cmdPart m) n i) n i m cause ((s.core n).slot i).walkVa) := by
  simp [execTranslationWalkComplete, hc, ha, hw, hr, h]

end walks

/-- A walk's end changes no translation. -/
theorem walkPage_endWalk (s : State) (p n i : Nat) (host : Bool) (va : Nat) :
    walkPage (endWalk s p n i) p host va = walkPage s p host va := by
  unfold walkPage endWalk
  rw [State.setXlate_xlate]
  rfl

/-! ### A halted slot (R180 to R182) -/

/-- The slot halted at a page with its cause. -/
def haltedAt (x : Slot) (cause va : Nat) : Slot :=
  let idx := seqIndex x.desc x.issued
  { x with halted := true, walking := false, cause := cause, va := va, host := slotHost x, dirW := x.op == .stOut
           front := (upto 5).map (fun k => idx.getD k 0) }

theorem haltSlot_of_page {cause va : Nat} (h : cause ≠ 3) :
    haltSlot s n i m cause va = ctxEvent (s.setCore n ((s.core n).setSlot i (haltedAt ((s.core n).slot i) cause va))) m.key 2 :=
  if_neg h

section resume
variable {fn : Fn} (hc : (s.core n).cmd = some m) (ha : ((s.core n).slot i).active = true) (hsee : seesCore s fn n = true)
  (hh : ((s.core n).slot i).halted = true) (hi : i < 8)
include hc ha hsee hh hi

theorem execGo_of_halted : execGo fn n i s = .next
    (startWalk (s.setCore n ((s.core n).setSlot i { (s.core n).slot i with halted := false })) (cmdPart m) n i ((s.core n).slot i).va) := by
  simp [execGo, hc, ha, hsee, hh, hi]

theorem execDeny_of_halted : execDeny fn n i s = .next (denyStream s m) := by
  simp [execDeny, hc, ha, hsee, hh, hi]

end resume

/-- Settles O26: a walk by what it finds, the slot that halts at a page, then GO and DENY. -/
theorem pageFaults : Obligations.PageFaults := by
  unfold Obligations.PageFaults
  intro s n i fn c m x p s1 hcmd ha
  have hpage : walkPage s1 p (slotHost x) x.walkVa = walkPage s p (slotHost x) x.walkVa := walkPage_endWalk ..
  have hc : (s.core n).cmd = some m := cmd_of hcmd
  refine ⟨fun t hw hr ht hwrite => ?found, fun hw hr ht => ?missing, fun t hw hr ht hop hro => ?readOnly, fun cause va hcause => ?halt,
    fun hsee hh hi => ⟨execGo_of_halted hc ha hsee hh hi, execDeny_of_halted hc ha hsee hh hi⟩⟩
  case found =>
    have hres : walkResult s1 p x = (0, some t) := by
      unfold walkResult
      rw [hpage, ht]
      exact if_neg (by simpa using hwrite)
    exact execTranslationWalkComplete_of_entry hc ha hw hr hres
  case missing =>
    have hres : walkResult s1 p x = (1, none) := by
      unfold walkResult
      rw [hpage, ht]
    exact execTranslationWalkComplete_of_fault hc ha hw hr hres
  case readOnly =>
    have hres : walkResult s1 p x = (2, none) := by
      unfold walkResult
      rw [hpage, ht]
      exact if_pos (by simp [hop, hro])
    exact execTranslationWalkComplete_of_fault hc ha hw hr hres
  case halt =>
    exact ⟨s.setCore n (c.setSlot i (haltedAt x cause va)), haltedAt x cause va, haltSlot_of_page hcause, rfl, by simp,
      rfl, rfl, rfl, rfl, rfl, rfl, rfl⟩

/-! ### The limit of halted time (R182) -/

theorem execHaltedTimeLimit_of_reached {p : Nat} {r : Running} {x : Cmd} (hrun : (s.sched p).run = some r)
    (hfind : (s.ctx r.key).q.cmds.find? (fun y => y.id == r.cmd) = some x) (hns : 1000000000 ≤ x.haltNs) :
    execHaltedTimeLimit p s = .next (stopRun s p stPageFault 0) := by
  simp [execHaltedTimeLimit, hrun, hfind, hns]

/-- Settles O27: the limit is reached by the command that the partition runs. -/
theorem haltedLimit : Obligations.HaltedLimit := by
  unfold Obligations.HaltedLimit
  intro s p r m hrun hfind hns
  exact execHaltedTimeLimit_of_reached hrun hfind hns

end Sys2Proof.Machine
end

section
/-! SUPPORT. Prefetch (R183, R185, R227): what a request does run by run, and what one run leaves by the kind of its stream. -/
namespace Sys2Proof.Machine
open Sys2Proof

variable {s u : State} {n i q0 q phys len : Nat} {m : CoreCmd} {data bs : Bytes}

theorem execPrefetchRead_of (hc : (s.core n).cmd = some m) (ha : ((s.core n).slot i).active = true)
    (hop : ((s.core n).slot i).op = .stIn) (hh : ((s.core n).slot i).halted = false)
    (hk : slotKind ((s.core n).slot i) = 1 ∨ slotKind ((s.core n).slot i) = 2 ∨ slotKind ((s.core n).slot i) = 3) :
    execPrefetchRead n i data s =
      let q0 := max ((s.core n).slot i).pfAt ((s.core n).slot i).begun
      .next ((pieceRuns (prefetchPieces s (cmdPart m) n ((s.core n).slot i) q0 4)).foldl (prefetchRun n i m q0 data) s) := by
  have hkind : (slotKind ((s.core n).slot i) == 1 || slotKind ((s.core n).slot i) == 2 || slotKind ((s.core n).slot i) == 3) = true := by
    simpa [or_assoc] using hk
  simp [-Bool.or_eq_true, execPrefetchRead, hc, ha, hop, hh, hkind]

/-- A core that has counted a prefetched run of `len` bytes, its waste now `waste`, with slot `i` as the run leaves it. -/
def prefetched (c : Core) (i : Nat) (waste len : Nat) (x : Slot) : Core :=
  ({ c with cnt := { c.cnt with pfRead := satAdd 64 c.cnt.pfRead len, pfWaste := waste } }).setSlot i x

/-- The slot whose buffer holds a run's bytes piece by piece. -/
def buffered (x : Slot) (q len : Nat) (bs : Bytes) : Slot :=
  { x with pfAt := q + len
           pf := (upto (len / 16)).foldl (fun t j => Tbl.set t (q + 16 * j) ((bs.drop (16 * j)).take 16)) x.pf }

theorem prefetchRun_of_host (hk : slotKind ((s.core n).slot i) = 2) :
    prefetchRun n i m q0 data s (q, phys, len) = (useHost s m.key len).setCore n
      (prefetched (s.core n) i (s.core n).cnt.pfWaste len
        (buffered ((s.core n).slot i) q len ((upto len).map (fun j => data.getD (q - q0 + j) 0)))) := by
  simp [prefetchRun, hk, prefetched, buffered]

theorem prefetchRun_of_pool (hk : slotKind ((s.core n).slot i) = 3) :
    prefetchRun n i m q0 data s (q, phys, len) = s.setCore n
      (prefetched (s.core n) i (s.core n).cnt.pfWaste len
        (buffered ((s.core n).slot i) q len (Mem.rdN (s.pool (n / 64)) phys len))) := by
  simp [prefetchRun, hk, prefetched, buffered]

section stack
variable (hk : slotKind ((s.core n).slot i) = 1) (hu : u.core n = s.core n)
include hk hu

theorem prefetchRun_of_stack (hr : readStackAt s m.key (n / 64) phys len true = (false, bs, u)) :
    prefetchRun n i m q0 data s (q, phys, len) = u.setCore n
      (prefetched (s.core n) i (s.core n).cnt.pfWaste len (buffered ((s.core n).slot i) q len bs)) := by
  simp [prefetchRun, hk, hr, hu, prefetched, buffered]

theorem prefetchRun_of_poison (hr : readStackAt s m.key (n / 64) phys len true = (true, bs, u)) :
    prefetchRun n i m q0 data s (q, phys, len) = u.setCore n
      (prefetched (s.core n) i (satAdd 64 (s.core n).cnt.pfWaste len) len { (s.core n).slot i with pfAt := q + len }) := by
  simp [prefetchRun, hk, hr, hu, prefetched]

end stack

/-- Settles O28: the request runs its pieces in turn; a run by the memory its bytes come from, and by poison. -/
theorem prefetching : Obligations.Prefetching := by
  unfold Obligations.Prefetching
  intro s u n i data c m x q0 hcmd ha hop
  exact ⟨execPrefetchRead_of (cmd_of hcmd) ha hop, fun q phys len bs =>
    ⟨prefetchRun_of_host, prefetchRun_of_pool, fun hk hr hu => prefetchRun_of_stack hk hu hr,
      fun hk hr hu => prefetchRun_of_poison hk hu hr⟩⟩

end Sys2Proof.Machine
end

section
/-! SUPPORT. The weight chain (R189 to R193, R227): a flit that moves, a cycle in which a core holds the chain, and a source read. -/
namespace Sys2Proof.Machine
open Sys2Proof

variable {s u : State} {n i : Nat} {m : CoreCmd}

/-! ### Flits (R190 to R192) -/

/-- The tile of its delivery whose record a slot's next flit belongs to. -/
def flitTile (x : Slot) : Nat := x.run / wchRecBytes x.desc

/-- Where in that record the flit begins. -/
def flitOff (x : Slot) : Nat := x.run % wchRecBytes x.desc

/-- The cores that keep the next flit of slot `i` of head `n`. -/
def flitKeepers (s : State) (n i : Nat) : List Nat :=
  keepers s n ((s.core n).slot i).desc (flitTile ((s.core n).slot i))

/-- Whether one of them holds the chain (R191). -/
def flitHeld (s : State) (n i : Nat) : Bool :=
  let x := (s.core n).slot i
  chainHeld s n x.seq (flitKeepers s n i) [flitSlot x.desc (flitTile x) (flitOff x)]

/-- The state once the flit is written at each of them. -/
def flitWritten (s : State) (n i : Nat) : State :=
  let x := (s.core n).slot i
  (flitKeepers s n i).foldl (fun t k => t.setCore k (flitAt (t.core k) x.desc (flitTile x) (flitOff x) (x.chain.take 512))) s

/-- The head's slot once the flit has left the landing buffer. -/
def flitLeft (s : State) (n i : Nat) : Slot :=
  let x := (s.core n).slot i
  { (((flitWritten s n i).core n).busyCycle 4).slot i with run := x.run + 512, chain := x.chain.drop 512 }

/-- The state once the flit has left and, where it is the last of its tile, the tile's lantern is signalled. -/
def flitMoved (s : State) (n i : Nat) (m : CoreCmd) : State :=
  let x := (s.core n).slot i
  let t := (flitWritten s n i).setCore n ((((flitWritten s n i).core n).busyCycle 4).setSlot i (flitLeft s n i))
  if flitOff x + 512 = wchRecBytes x.desc then tileSignals m x.desc (flitKeepers s n i) t else t

/-- The state once the delivery's slot is free. -/
def deliveryFreed (s : State) (n i : Nat) (m : CoreCmd) : State :=
  (flitMoved s n i m).setCore n (((flitMoved s n i m).core n).setSlot i
    { flitLeft s n i with active := false, vis := (flitLeft s n i).run })

theorem chainCause_of_held {x : Slot} (hh : x.halted = false) (hw : x.walking = false)
    (hp : x.issued < slotLen x → pendingPage s (cmdPart m) (slotAddr x x.issued) = false) : chainCause s m x true = some 1 := by
  have hpage : (decide (x.issued < slotLen x) && pendingPage s (cmdPart m) (slotAddr x x.issued)) = false := by simpa using hp
  simp [chainCause, hh, hw, hpage]

section flit
variable (hc : (s.core n).cmd = some m) (ha : ((s.core n).slot i).active = true) (hop : ((s.core n).slot i).op = .stWch)
include hc ha hop

theorem execWeightChainFlit_of_free (hheld : flitHeld s n i = false) (hlen : 512 ≤ ((s.core n).slot i).chain.length) :
    execWeightChainFlit n i s = .next
      (if (flitLeft s n i).run = slotLen (flitLeft s n i) ∧ ((flitMoved s n i m).core n).cmd = some m then
        (if dDoneEn ((s.core n).slot i).desc = true then
          lntSignal (deliveryFreed s n i m) m.key m.cmd m.lcore (dDoneLnt ((s.core n).slot i).desc) 1 else deliveryFreed s n i m)
      else flitMoved s n i m) := by
  simp only [flitHeld, flitKeepers, flitTile, flitOff] at hheld
  unfold execWeightChainFlit
  dsimp only
  rw [hc]
  dsimp only
  rw [if_neg (by simp [ha, hop]), if_neg (by simp [hheld, hlen])]
  simp only [Bool.and_eq_true, beq_iff_eq, decide_eq_true_eq, ← apply_ite Host.Outcome.next]
  rfl

theorem execWeightChainFlit_of_held (hheld : flitHeld s n i = true) {cause : Nat}
    (hcause : chainCause s m ((s.core n).slot i) true = some cause) :
    execWeightChainFlit n i s = .next (s.setCore n ((s.core n).stall 4 cause)) := by
  simp only [flitHeld, flitKeepers, flitTile, flitOff] at hheld
  simp [execWeightChainFlit, hc, ha, hop, hheld, hcause]

end flit

/-! ### Source reads (R193, R227) -/

theorem execWeightChainSourceRead_of (hc : (s.core n).cmd = some m) (ha : ((s.core n).slot i).active = true)
    (hop : ((s.core n).slot i).op = .stWch) : execWeightChainSourceRead n i s = .next (wchRead s n i m) := by
  simp [execWeightChainSourceRead, hc, ha, hop]

/-- The bytes of a slot's next request. -/
def nextLen (x : Slot) : Nat := reqLen x x.issued (slotLen x)

theorem wchRead_of_full (h : landShare s n < landUsed (s.core n) + nextLen ((s.core n).slot i)) : wchRead s n i m = s := by
  unfold nextLen at h
  simp [wchRead, h]

/-- The target of a slot's next request. -/
def nextTarget (s : State) (n i : Nat) (m : CoreCmd) : Target :=
  let x := (s.core n).slot i
  target s (cmdPart m) n 7 (slotAddr x x.issued) (nextLen x) false

section read
variable (hh : ((s.core n).slot i).halted = false) (hw : ((s.core n).slot i).walking = false)
  (hi : ((s.core n).slot i).issued < slotLen ((s.core n).slot i))
  (hroom : landUsed (s.core n) + nextLen ((s.core n).slot i) ≤ landShare s n)
include hh hw hi hroom

theorem wchRead_of_walk {a : Nat} (ht : nextTarget s n i m = .walk a) : wchRead s n i m = startWalk s (cmdPart m) n i a := by
  unfold nextLen at hroom
  unfold nextTarget nextLen at ht
  simp [wchRead, hh, hw, hi, hroom, ht]

theorem wchRead_of_ok {phys : Nat} {bad : Bool} {bs : Bytes} (ht : nextTarget s n i m = .ok phys)
    (hr : readStackAt s m.key (n / 64) phys (nextLen ((s.core n).slot i)) true = (bad, bs, u)) :
    wchRead s n i m = if bad = true then stackUnc u m 4 (slotAddr ((s.core n).slot i) ((s.core n).slot i).issued)
      else u.setCore n ((u.core n).setSlot i { (s.core n).slot i with
        issued := ((s.core n).slot i).issued + nextLen ((s.core n).slot i), chain := ((s.core n).slot i).chain ++ bs }) := by
  unfold nextLen at hroom hr ⊢
  unfold nextTarget nextLen at ht
  simp [wchRead, hh, hw, hi, hroom, ht, hr]

end read

/-- Settles O29: a flit by whether a keeping core holds it, and a source read by the room in the share and what its page and bytes are. -/
theorem weightChain : Obligations.WeightChain := by
  unfold Obligations.WeightChain
  intro s u n i c m x d t o ks held hcmd ha hop
  have hc : (s.core n).cmd = some m := cmd_of hcmd
  have hread : exec (.weightChainSourceRead n i) s = .next (wchRead s n i m) := execWeightChainSourceRead_of hc ha hop
  refine ⟨execWeightChainFlit_of_free hc ha hop, fun hheld hh hw hp => ?held, fun hh hw hi => ⟨fun hfull => ?full, fun hroom =>
    ⟨fun a ht => ?walk, fun phys bs ht hr => ?poison, fun phys bs ht hr => ?bytes⟩⟩⟩
  case held => exact execWeightChainFlit_of_held hc ha hop hheld (chainCause_of_held hh hw hp)
  case full => exact hread.trans (congrArg _ (wchRead_of_full hfull))
  case walk => exact hread.trans (congrArg _ (wchRead_of_walk hh hw hi hroom ht))
  case poison => exact hread.trans (congrArg _ (wchRead_of_ok hh hw hi hroom ht hr))
  case bytes => exact hread.trans (congrArg _ (wchRead_of_ok hh hw hi hroom ht hr))

end Sys2Proof.Machine
end

section
/-! SUPPORT. What a change at a lantern's home does where no consume waits (R199, R201, R202): a signal, an arm, and the entry they
leave. -/
namespace Sys2Proof.Machine
open Sys2Proof

variable {s : State} {n v : Nat} {e : Lantern}

theorem reachedBy_iff {x : Nat} : reachedBy e x = true ↔ (e.count + 2 ^ 32 - x % 2 ^ 32) % 2 ^ 32 < 2 ^ 31 := decide_eq_true_iff

/-- An entry as its home stores it after a change: the root of a job owes its children the count (R208). -/
def owingCount (e : Lantern) : Lantern := { e with due := e.due || (e.scope == 4 && e.root) }

/-- A change that leaves entry `e`: it is stored, the waits at it are evaluated, and the children get the count. -/
def changedHome (s : State) (n : Nat) (e : Lantern) : State := flushCount (noteWaits (s.setLnt n (owingCount e)) n) n

/-- With no consume waiting there is nothing to grant, and nothing opens the entry again. -/
theorem settleHome_of_no_consume (hq : e.queue = []) (hheld : e.held = []) : settleHome s n e = changedHome s n e := by
  unfold settleHome
  simp [hq, hheld, grantLoop, refill, stillReached, changedHome, owingCount]

/-! ### Signals and arms -/

theorem signalEntry_of_zero (hv : v % 2 ^ 32 = 0) : signalEntry s n v = s := if_pos hv

theorem signalEntry_of_mirror (hv : v % 2 ^ 32 ≠ 0) (hm : atHome (s.lnt n) = false) :
    signalEntry s n v = s.setLnt n { s.lnt n with unsent := ((s.lnt n).unsent + v) % 2 ^ 32 } := by
  simp only [signalEntry, two32_eq, if_neg hv, hm]
  rfl

/-- An entry with the count that a signal leaves. -/
def signalled (e : Lantern) (v : Nat) : Lantern := { e with count := (e.count + v) % 2 ^ 32 }

/-- Whether a signal fires the target event. -/
def signalFires (e : Lantern) (v : Nat) : Bool := !e.reached && reachedBy (signalled e v) e.target

theorem signalEntry_of_home (hv : v % 2 ^ 32 ≠ 0) (hm : atHome (s.lnt n) = true) (hq : (s.lnt n).queue = [])
    (hheld : (s.lnt n).held = []) :
    let f := signalFires (s.lnt n) v
    let t := changedHome s n { signalled (s.lnt n) v with reached := (s.lnt n).reached || f }
    signalEntry s n v = if f = true then targetEvent t n else t := by
  intro f t
  have hsettle : settleHome s n { signalled (s.lnt n) v with reached := (s.lnt n).reached || f } = t := settleHome_of_no_consume hq hheld
  rw [← hsettle]
  simp only [signalEntry, two32_eq, if_neg hv, hm, Bool.not_true, Bool.false_eq_true, if_false]
  rfl

theorem armAt_of_no_consume (hq : (s.lnt n).queue = []) (hheld : (s.lnt n).held = []) :
    let e := armEntry (s.lnt n) v
    let f := reachedBy e (v % 2 ^ 32)
    let t := changedHome s n { e with reached := f }
    armAt s n v = if f = true then targetEvent t n else t := by
  intro e f t
  have hsettle : settleHome s n { e with reached := f } = t := settleHome_of_no_consume hq hheld
  rw [← hsettle]
  rfl

/-! ### The frame of a change -/

/-- A lantern that is not of job scope owes no count. -/
theorem owingCount_of_scope (h : e.scope ≠ 4) : owingCount e = e := by
  have hdue : (e.due || (e.scope == 4 && e.root)) = e.due := by simp [h]
  unfold owingCount
  rw [hdue]

theorem changedHome_of_scope (h : e.scope ≠ 4) : changedHome s n e = noteWaits (s.setLnt n e) n := by
  unfold changedHome
  rw [owingCount_of_scope h, flushCount_of_scope]
  simpa using h

theorem changedHome_lnt_same (h : e.scope ≠ 4) : (changedHome s n e).lnt n = e := by simp [changedHome_of_scope h]

theorem changedHome_lnt_ne (h : e.scope ≠ 4) {j : Nat} (hj : j ≠ n) : (changedHome s n e).lnt j = s.lnt j := by
  rw [changedHome_of_scope h, noteWaits_lnt, State.setLnt_lnt_ne _ _ _ hj]

/-- Settles O30: the signal by what it finds, the arm, and the entries that a change leaves. -/
theorem lanternOperations : Obligations.LanternOperations := by
  unfold Obligations.LanternOperations
  intro s n v e settled fired
  refine ⟨fun x => reachedBy_iff, signalEntry_of_zero, signalEntry_of_mirror, ?signal, ?arm, fun x hx _ _ => ?frame⟩
  case signal => exact signalEntry_of_home
  case arm => exact armAt_of_no_consume
  case frame => exact ⟨changedHome_lnt_same hx, fun j => changedHome_lnt_ne hx⟩

end Sys2Proof.Machine
end

section
/-! SUPPORT. Messages to lanterns from outside their module: notifications of a core (R196), the messages of job-scope lanterns
(R207 to R210), and the signals of a host (R210, R214). -/
namespace Sys2Proof.Machine
open Sys2Proof

variable {s u : State} {n p e : Nat} {k : Packet}

/-! ### Notifications (R196, R200) -/

/-- A task whose wait or consume is over goes on. -/
def letOn (t : Task) : Task := if holdOver t.hold then { t with hold := .none } else t

theorem execLanternNotification_of_cmd {m : CoreCmd} (hc : (s.core n).cmd = some m) : execLanternNotification n s =
    .next (refreshMasks (s.setCore n { s.core n with tasks := (s.core n).tasks.map fun t => (t.1, letOn t.2) }) (cmdPart m)) := by
  unfold execLanternNotification
  simp only [hc]
  rfl

/-- Settles O32: the tasks of a core with a command, each by whether its hold is over. -/
theorem lanternNotifications : Obligations.LanternNotifications := by
  unfold Obligations.LanternNotifications
  intro s n c hcmd
  exact execLanternNotification_of_cmd (cmd_of hcmd)

/-! ### What a mirror or a root sends (R208) -/

section send
variable (ha : (s.lnt e).alloc = true) (hs : (s.lnt e).scope = 4)
include ha hs

theorem execLanternDeltaSend_of_unsent {r : Nat} (hroot : (s.lnt e).root = false) (hu : (s.lnt e).unsent ≠ 0)
    (hr : jobParent (s.job (s.lnt e).part) = some r) :
    let x := s.lnt e
    execLanternDeltaSend e s = .next (flushCount (sendFor (s.setLnt e { x with unsent := 0 }) x.part (64 * x.part + x.ctx) r
      (lntMsg 0 x.num x.armGen x.unsent)) e) := by
  simp [execLanternDeltaSend, ha, hs, hroot, hu, hr]

theorem execLanternDeltaSend_of_no_delta (h : (s.lnt e).root = true ∨ (s.lnt e).unsent = 0) :
    execLanternDeltaSend e s = .next (flushCount s e) := by
  simp [execLanternDeltaSend, ha, hs, h]

end send

/-! ### The entry that a message names (R210) -/

theorem withMsg_of_free (hacc : acceptPkt s n k = (some p, u)) (hfind : findLnt u p k.chan = none) (f : Nat → Nat → State → State) :
    withMsg s n k f = lntFault u 3 p 0 k.chan true := by
  simp [withMsg, hacc, hfind]

/-- A message for another's entry is dropped as a fault, and its sender is told. -/
def rejected (u : State) (p e : Nat) (k : Packet) : State :=
  let t := lntFault u 2 p 0 e true
  match rankAt (t.job p) k.src with
  | none => t
  | some r => sendPkt t p r (lntMsg 3 k.chan 2 0)

theorem withMsg_of_foreign (hacc : acceptPkt s n k = (some p, u)) (hfind : findLnt u p k.chan = some e)
    (h : (u.lnt e).scope ≠ 4 ∨ (u.lnt e).ctx ≠ (u.job p).ctx) (f : Nat → Nat → State → State) :
    withMsg s n k f = rejected u p e k := by
  have hno : ((u.lnt e).scope = 4 && (u.lnt e).ctx = (u.job p).ctx : Bool) = false := by
    rw [Bool.and_eq_false_iff, decide_eq_false_iff_not, decide_eq_false_iff_not]
    exact h
  simp only [withMsg, hacc, hfind, hno, rejected] <;> rfl

/-- The job-scope messages that act on an entry. -/
def lanternMessages (n : Nat) (k : Packet) : List Instr := [.lanternDelta n k, .lanternArm n k, .lanternCount n k]

theorem exec_lanternMessages {i : Instr} (h : i ∈ lanternMessages n k) : ∃ f, ∀ s, exec i s = .next (withMsg s n k f) := by
  simp only [lanternMessages, List.mem_cons, List.not_mem_nil, or_false] at h
  obtain rfl | rfl | rfl := h
  · exact ⟨_, fun _ => rfl⟩
  · exact ⟨_, fun _ => rfl⟩
  · exact ⟨_, fun _ => rfl⟩

/-! ### Messages for a lantern of the job's context (R207 to R209) -/

/-- The message is accepted and names a job-scope entry of the job's context. -/
structure NamesOwn (s u : State) (n p e : Nat) (k : Packet) : Prop where
  accepted : acceptPkt s n k = (some p, u)
  found : findLnt u p k.chan = some e
  scope : (u.lnt e).scope = 4
  ctx : (u.lnt e).ctx = (u.job p).ctx

theorem NamesOwn.withMsg (h : NamesOwn s u n p e k) (f : Nat → Nat → State → State) : withMsg s n k f = f p e u := by
  simp [Machine.withMsg, h.accepted, h.found, h.scope, h.ctx]

section own
variable (h : NamesOwn s u n p e k)
include h

theorem execLanternDelta_of_root (hroot : (u.lnt e).root = true) (hgen : newerGen (u.lnt e).armGen k.contrib = false) :
    execLanternDelta n k s = .next (signalEntry u e k.aux) := by
  simp [execLanternDelta, h.withMsg, hroot, hgen]

theorem execLanternDelta_of_stale (hroot : (u.lnt e).root = true) (hgen : newerGen (u.lnt e).armGen k.contrib = true) :
    execLanternDelta n k s =
      .next { u with units := { u.units with lntRegs := { u.units.lntRegs with stale := inc32 u.units.lntRegs.stale } } } := by
  simp [execLanternDelta, h.withMsg, hroot, hgen]

theorem execLanternDelta_of_inner (hroot : (u.lnt e).root = false) :
    execLanternDelta n k s = .next (u.setLnt e { u.lnt e with unsent := ((u.lnt e).unsent + k.aux) % 2 ^ 32 }) := by
  simp [execLanternDelta, h.withMsg, hroot, two32_eq]

theorem execLanternArm_of_root (hroot : (u.lnt e).root = true) : execLanternArm n k s = .next (armAt u e k.aux) := by
  simp [execLanternArm, h.withMsg, hroot]

theorem execLanternArm_of_other (hroot : (u.lnt e).root = false) :
    execLanternArm n k s = .next (sendUp u p none (lntMsg 1 k.chan 0 k.aux)) := by
  simp [execLanternArm, h.withMsg, hroot]

theorem execLanternCount_of_root (hroot : (u.lnt e).root = true) : execLanternCount n k s = .next u := by
  simp [execLanternCount, h.withMsg, hroot]

end own

/-- A mirror's entry with the count and the generation of a COUNT. -/
def mirrored (x : Lantern) (k : Packet) : Lantern := { x with count := k.aux % 2 ^ 32, armGen := k.contrib % 256, due := true }

/-- Whether a COUNT makes a mirror Reached: a new generation opens it first. -/
def countFires (x : Lantern) (k : Packet) (newer : Bool) : Bool := reachedBy (mirrored x k) x.target && (newer || !x.reached)

/-- A COUNT enters a mirror: what awaited the home goes on, the waits are evaluated, and the count goes to the children. -/
def countEntered (u : State) (e : Nat) (k : Packet) (newer : Bool) : State :=
  let x := u.lnt e
  flushCount (homeApplied
    (noteWaits (u.setLnt e { mirrored x k with reached := countFires x k newer || (x.reached && !newer) }) e) e newer) e

theorem execLanternCount_of_later (h : NamesOwn s u n p e k) {newer : Bool} (hn : newerGen k.contrib (u.lnt e).armGen = newer)
    (hlater : newer = true ∨ (k.contrib % 256 = (u.lnt e).armGen ∧ (k.aux + 2 ^ 32 - (u.lnt e).count) % 2 ^ 32 < 2 ^ 31))
    (hroot : (u.lnt e).root = false) :
    execLanternCount n k s = .next (if countFires (u.lnt e) k newer = true then targetEvent (countEntered u e k newer) e
      else countEntered u e k newer) := by
  have htaken : (newer || (k.contrib % 256 = (u.lnt e).armGen &&
      decide ((k.aux + two32 - (u.lnt e).count) % two32 < 2147483648))) = true := by
    rw [Bool.or_eq_true, Bool.and_eq_true, decide_eq_true_iff, decide_eq_true_iff]
    exact hlater
  have henters : ((u.lnt e).root || !(newer || (k.contrib % 256 = (u.lnt e).armGen &&
      decide ((k.aux + two32 - (u.lnt e).count) % two32 < 2147483648)))) = false := by rw [hroot, htaken]; rfl
  unfold execLanternCount
  rw [h.withMsg]
  simp only [hn, henters, Bool.false_eq_true, if_false]
  rfl

/-! ### Rejects (R210, R372) -/

theorem execLanternReject_of_accepted (hacc : acceptPkt s n k = (some p, u)) :
    execLanternReject n k s = .next (teardown u (64 * p + (u.job p).ctx) 0x0B 3 0 0 true) := by
  simp [execLanternReject, hacc, stAborted]

/-- Settles O33: what a lantern sends, and each message by the entry that it names. -/
theorem jobLanterns : Obligations.JobLanterns := by
  unfold Obligations.JobLanterns
  intro s u n p e k x here mine o
  refine ⟨fun ha hs => ⟨fun r => execLanternDeltaSend_of_unsent ha hs, execLanternDeltaSend_of_no_delta ha hs⟩,
    fun ⟨⟨hacc, hfind⟩, hscope, hctx⟩ => ?own, execLanternReject_of_accepted, fun i hi => ?others⟩
  case own =>
    have h : NamesOwn s u n p e k := ⟨hacc, hfind, hscope, hctx⟩
    exact ⟨execLanternDelta_of_root h, execLanternDelta_of_stale h, execLanternDelta_of_inner h, execLanternArm_of_root h,
      execLanternArm_of_other h, execLanternCount_of_root h, fun newer => execLanternCount_of_later h⟩
  case others =>
    obtain ⟨f, hf⟩ := exec_lanternMessages hi
    exact ⟨fun hacc hfind => (hf s).trans (congrArg _ (withMsg_of_free hacc hfind f)),
      fun ⟨hacc, hfind⟩ hno => (hf s).trans (congrArg _ (withMsg_of_foreign hacc hfind hno f))⟩

/-! ### Host signals (R210, R214) -/

section host
variable {port vf v : Nat}

section vf
variable (hp : partOfVf s port vf = some p)
include hp

theorem execLntHsig_vf_of_set (hfind : findLnt s p n = some e) (hh : (s.lnt e).hostSig = true) :
    execLntHsig (.vf port vf) n v s = .next (signalEntry s e v) := by
  simp [execLntHsig, hp, hfind, hh]

theorem execLntHsig_vf_of_clear (hfind : findLnt s p n = some e) (hh : (s.lnt e).hostSig = false) :
    execLntHsig (.vf port vf) n v s = .next (lntFault s 4 p 0 e true) := by
  simp [execLntHsig, hp, hfind, hh]

theorem execLntHsig_vf_of_free (hfind : findLnt s p n = none) : execLntHsig (.vf port vf) n v s = .next (lntFault s 4 p 0 n true) := by
  simp [execLntHsig, hp, hfind]

end vf

theorem execLntHsig_mgmt (hport : bit (hostMask s.var) port = true) (hn : lntPresent s.var n = true) :
    execLntHsig (.mgmt port) n v s =
      .next (if ((s.lnt n).alloc && (s.lnt n).hostSig) = true then signalEntry s n v else lntFault s 4 15 0 n true) := by
  unfold execLntHsig
  simp only [hport, hn]
  exact (apply_ite Host.Outcome.next _ _ _).symm

end host

/-- Settles O34: a VF by the entry that its number names, a management function by the physical entry. -/
theorem hostSignals : Obligations.HostSignals := by
  unfold Obligations.HostSignals
  intro s port vf p n e v
  exact ⟨fun hp => ⟨execLntHsig_vf_of_set hp, execLntHsig_vf_of_clear hp, execLntHsig_vf_of_free hp⟩, execLntHsig_mgmt⟩

end Sys2Proof.Machine
end

section
/-! SUPPORT. Commands of a context (R213, R271, R362): LOAD by what it finds in its order of checks, UNLOAD with the lanterns that it
frees, and RNG_CHECK. -/
namespace Sys2Proof.Machine
open Sys2Proof

variable {s : State} {k : Nat} {m : Cmd} {img : Image}

/-! ### LOAD (R362) -/

@[simp] theorem resetUpd_ctx (s : State) (p c : Nat) : (resetUpd s p).ctx c = s.ctx c := rfl

@[simp] theorem resetProt_ctx (s : State) (p c : Nat) : (resetProt s p).ctx c = s.ctx c := rfl

theorem putImage_image (s : State) (k : Nat) (img : Image) : ((putImage s k img).ctx k).image = some img := by
  unfold putImage
  dsimp only
  split <;> simp

section load
variable (hi : issuable s k opLoad = some m)
include hi

theorem execLoad_of_loaded (himg : (s.ctx k).image.isSome = true) (x : Option Image) :
    execLoad k x s = .next (refuseCmd s k m.id 0x05 0) := by
  simp [execLoad, hi, himg, stMalformed]

section unloaded
variable (hnone : (s.ctx k).image = none)
include hnone

theorem execLoad_of_unmapped (hm : hostMapped s (keyPart k) m.desc.arg0 (m.desc.arg1 % 2 ^ 32) = false) (x : Option Image) :
    execLoad k x s = .next (refuseCmd s k m.id 0x06 0) := by
  rw [← two32_eq] at hm
  simp [execLoad, hi, hnone, hm, stParamUnmapped]

section mapped
variable (hm : hostMapped s (keyPart k) m.desc.arg0 (m.desc.arg1 % 2 ^ 32) = true)
include hm

theorem execLoad_of_no_image : execLoad k none s = .next (refuseCmd s k m.id 0x02 0) := by
  rw [← two32_eq] at hm
  simp [execLoad, hi, hnone, hm, stImageRejected]

theorem execLoad_of_rejected {st r : Nat} (ha : admitImage s k img = some (st, r)) :
    execLoad k (some img) s = .next (refuseCmd s k m.id st r) := by
  rw [← two32_eq] at hm
  simp [execLoad, hi, hnone, hm, ha]

theorem execLoad_of_clash (ha : admitImage s k img = none) (hc : poolClash s k img = true) :
    execLoad k (some img) s = .next (refuseCmd (drawFree s).2 k m.id 0x02 (Config.freeWord s.freeCount).toNat) := by
  rw [← two32_eq] at hm
  simp [execLoad, hi, hnone, hm, ha, hc, stImageRejected, drawFree]

theorem execLoad_of_shortage (ha : admitImage s k img = none) (hc : poolClash s k img = false)
    (ht : allocTable k s img.lnFirst img.lanterns = none) : execLoad k (some img) s = .next (refuseCmd s k m.id 0x04 0) := by
  rw [← two32_eq] at hm
  simp [execLoad, hi, hnone, hm, ha, hc, ht, stLanternShortage]

theorem execLoad_of_fit {t : State} (ha : admitImage s k img = none) (hc : poolClash s k img = false)
    (ht : allocTable k s img.lnFirst img.lanterns = some t) :
    execLoad k (some img) s = .next (complete (putImage t k img) k m.id { status := 0 }) := by
  rw [← two32_eq] at hm
  simp [execLoad, hi, hnone, hm, ha, hc, ht, stOk]

end mapped
end unloaded
end load

/-! ### UNLOAD (R213, R362) -/

section unload
variable (hi : issuable s k opUnload = some m)
include hi

theorem execUnload_of_loaded (himg : (s.ctx k).image.isSome = true) :
    execUnload k s = .next (complete (unloadImage s k) k m.id { status := 0 }) := by
  obtain ⟨img, himg⟩ := Option.isSome_iff_exists.mp himg
  simp [execUnload, hi, himg, stOk]

theorem execUnload_of_no_image (hnone : (s.ctx k).image = none) : execUnload k s = .next (refuseCmd s k m.id 0x05 0) := by
  simp [execUnload, hi, hnone, stMalformed]

end unload

@[simp] theorem freeLanterns_ctx (s : State) (k c : Nat) : (freeLanterns s k).ctx c = s.ctx c := rfl

theorem unloadImage_image (s : State) (k : Nat) : ((unloadImage s k).ctx k).image = none := by
  unfold unloadImage
  dsimp only
  rw [freeLanterns_ctx, State.setCtx_ctx]

/-- No lantern of the context is left in use. -/
theorem freeLanterns_lnt {x : Nat × Lantern} (h : x ∈ (freeLanterns s k).units.lnt) :
    ¬ (x.2.alloc = true ∧ x.2.part = keyPart k ∧ x.2.ctx = keyCtx k) := by
  have hkeep := (List.mem_filter.mp h).2
  rintro ⟨ha, hp, hc⟩
  simp [ha, hp, hc] at hkeep

/-! ### RNG_CHECK (R271) -/

/-- The records among the first `cnt` that differ from their derived position. -/
def strayRecs (recs : List RngRec) (cnt n b : Nat) : List RngRec :=
  (recs.take cnt).filter fun x => (x.2.1, x.2.2.1, x.2.2.2.1, x.2.2.2.2) != derivedPos (x.1 % 256) n b

/-- Stray records are counted in UPD_PT_RNG_DISC, with saturation. -/
def straysCounted (s : State) (p n : Nat) : State := s.setUpd p { s.upd p with rngDisc := satAdd 32 (s.upd p).rngDisc n }

/-- The event of a stray record. -/
def strayEvent (k : Nat) (x : RngRec) : Evt := evtOf 0x012 0 0xFF k (x.1 % 256 * 2 ^ 14 + satDiff x.2.2.2.2)

section rng
variable {recs : List RngRec} (hi : issuable s k opRngCheck = some m)
include hi

theorem execRngCheck_of_long (hc : 256 < m.desc.arg2 % 512) : execRngCheck k recs s = .next (refuseCmd s k m.id 0x05 0) := by
  simp [execRngCheck, hi, hc, stMalformed]

section short
variable (hc : m.desc.arg2 % 512 ≤ 256)
include hc

theorem execRngCheck_of_unmapped (hm : hostMapped s (keyPart k) m.desc.arg0 (32 * (m.desc.arg2 % 512)) = false) :
    execRngCheck k recs s = .next (refuseCmd s k m.id 0x06 0) := by
  simp [execRngCheck, hi, Nat.not_lt.mpr hc, hm, stParamUnmapped]

theorem execRngCheck_of_mapped (hm : hostMapped s (keyPart k) m.desc.arg0 (32 * (m.desc.arg2 % 512)) = true) :
    let bad := strayRecs recs (m.desc.arg2 % 512) (m.desc.arg1 % 2 ^ 32) (m.desc.arg1 / 2 ^ 32 % 2 ^ 32)
    execRngCheck k recs s = .next (complete (bad.foldl (fun s x => report s 55 (strayEvent k x)) (straysCounted s (keyPart k) bad.length))
      k m.id { status := 0, result := bad.length }) := by
  unfold execRngCheck
  simp only [hi, if_neg (Nat.not_lt.mpr hc), hm]
  rfl

end short
end rng

/-- Settles O41: LOAD by the first check that fails, UNLOAD by whether an image is loaded, RNG_CHECK by its list. -/
theorem controlCommands : Obligations.ControlCommands := by
  unfold Obligations.ControlCommands
  intro s k m img recs p
  refine ⟨fun hi => ⟨fun hnone hm => ?load, fun hnone hm => execLoad_of_unmapped hi hnone hm (some img),
      fun himg => execLoad_of_loaded hi himg (some img)⟩,
    fun hi => ⟨fun himg => ?unload, execUnload_of_no_image hi⟩,
    fun hi => ⟨execRngCheck_of_mapped hi, execRngCheck_of_long hi, execRngCheck_of_unmapped hi⟩⟩
  case load =>
    exact ⟨fun t ha hc ht => ⟨execLoad_of_fit hi hnone hm ha hc ht, putImage_image t k img⟩, execLoad_of_shortage hi hnone hm,
      execLoad_of_clash hi hnone hm, fun st r => execLoad_of_rejected hi hnone hm, execLoad_of_no_image hi hnone hm⟩
  case unload => exact ⟨execUnload_of_loaded hi himg, unloadImage_image s k, fun x => freeLanterns_lnt⟩

end Sys2Proof.Machine
end

section
/-! SUPPORT. The map registers (R221 to R223): MAP and UNMAP of a partition's own function, and the end of an UNMAP with what it
invalidates on the partition's cores. -/
namespace Sys2Proof.Machine
open Sys2Proof

variable {s : State} {fn : Fn} {host : Bool} {p va n : Nat}

section registers
variable (hp : partOfFn s fn = some p)
include hp

/-! ### While an UNMAP is under way -/

theorem execMap_of_busy (hb : (s.xlate p).busy = true) : execMap fn host s = .next s := by
  simp [execMap, hp, hb]

theorem execUnmap_of_busy (hb : (s.xlate p).busy = true) : execUnmap fn host s = .next s := by
  simp [execUnmap, hp, hb]

section idle
variable (hb : (s.xlate p).busy = false)
include hb

/-! ### MAP (R222) -/

theorem execMap_of_refused (hr : mapResult (s.xlate p) host (s.entry p).frameCount (s.entry p).tsQuota ≠ 0) :
    execMap fn host s = .next (s.setXlate p { s.xlate p with
      result := mapResult (s.xlate p) host (s.entry p).frameCount (s.entry p).tsQuota }) := by
  simp [execMap, hp, hb, hr]

theorem execMap_of_host (hr : mapResult (s.xlate p) true (s.entry p).frameCount (s.entry p).tsQuota = 0) :
    execMap fn true s = .next (s.setXlate p { s.xlate p with
      result := 0, host := Tbl.set (s.xlate p).host (s.xlate p).mapVa (s.xlate p).mapEnt }) := by
  simp [execMap, hp, hb, hr]

theorem execMap_of_stack (hr : mapResult (s.xlate p) false (s.entry p).frameCount (s.entry p).tsQuota = 0) :
    execMap fn false s = .next (s.setXlate p { s.xlate p with
      result := 0, stack := Tbl.set (s.xlate p).stack (s.xlate p).mapVa (s.xlate p).mapEnt }) := by
  simp [execMap, hp, hb, hr]

/-! ### UNMAP (R222, R223) -/

theorem execUnmap_of_host {e : Nat} (he : Tbl.find (s.xlate p).host (s.xlate p).mapVa = some e) :
    execUnmap fn true s = .next (s.setXlate p { s.xlate p with
      result := 0, busy := true, unmap := some (true, (s.xlate p).mapVa, peSize true e)
      host := Tbl.del (s.xlate p).host (s.xlate p).mapVa }) := by
  simp [execUnmap, pageTab, hp, hb, he]

theorem execUnmap_of_stack {e : Nat} (he : Tbl.find (s.xlate p).stack (s.xlate p).mapVa = some e) :
    execUnmap fn false s = .next (s.setXlate p { s.xlate p with
      result := 0, busy := true, unmap := some (false, (s.xlate p).mapVa, peSize false e)
      stack := Tbl.del (s.xlate p).stack (s.xlate p).mapVa }) := by
  simp [execUnmap, pageTab, hp, hb, he]

theorem execUnmap_of_unmapped (he : Tbl.find (pageTab (s.xlate p) host) (s.xlate p).mapVa = none) :
    execUnmap fn host s = .next (s.setXlate p { s.xlate p with result := 5 }) := by
  simp [execUnmap, hp, hb, he]

end idle
end registers

/-! ### The end of an UNMAP (R223, R249) -/

/-- Whether a removed page still holds its UNMAP: a running update reads or writes it, a request of a core through it is not yet visible,
or an index read through it waits in a sorter. -/
def unmapHeld (s : State) (p : Nat) (host : Bool) (va n : Nat) : Bool :=
  (!host && (s.upd p).xlat.any (fun t => decide (va ≤ t.1 * mib2) && decide (t.1 * mib2 < va + n))) ||
    (logicalCores s p).any (fun c => (s.core c).slots.any (fun y => slotFlies (s.core c) y.2 host va n)) ||
    (!host && idxFlies s p va n)

section ends
variable (hu : (s.xlate p).unmap = some (host, va, n))
include hu

theorem execUnmapComplete_of_held (hh : unmapHeld s p host va n = true) : execUnmapComplete p s = .next s := by
  simp only [execUnmapComplete, hu]
  exact if_pos hh

theorem execUnmapComplete_of_free (hh : unmapHeld s p host va n = false) :
    execUnmapComplete p s = .next ((onCores s p (fun c => unmapCore c host va n)).setXlate p
      { s.xlate p with busy := false, unmap := none }) := by
  simp only [execUnmapComplete, hu]
  exact if_neg (by simpa [unmapHeld] using hh)

end ends

/-- A change of the values under the keys that `mine` picks, read under one of them. -/
theorem Tbl.find_map_mine {α : Type} {mine : Nat → Bool} {c : Nat} (f : α → α) (hc : mine c = true) (t : Tbl α) :
    Tbl.find (t.map (fun y => if mine y.1 then (y.1, f y.2) else y)) c = (Tbl.find t c).map f := by
  induction t with
  | nil => rfl
  | cons y t ih =>
    by_cases hy : c = y.1
    · subst hy
      simp [Tbl.find, hc]
    · by_cases hm : mine y.1 = true <;> simp [Tbl.find, hm, hy, ih]

/-- A core that a partition's change reaches is as the change leaves it, or is listed neither before nor after. -/
theorem onCores_core {f : Core → Core} {c : Nat} (hc : c ∈ logicalCores s p) :
    (onCores s p f).core c = f (s.core c) ∨ (onCores s p f).core c = {} := by
  have hcore : (onCores s p f).core c = ((Tbl.find s.units.cores c).map f).getD {} :=
    congrArg (·.getD {}) (Tbl.find_map_mine f (by simpa using hc) s.units.cores)
  rw [hcore, State.core, Tbl.get]
  cases Tbl.find s.units.cores c with
  | none => exact .inr rfl
  | some y => exact .inl rfl

/-- No translation of a removed page is left in a core's translation cache. -/
theorem unmapCore_tcache {c : Core} {t : TEntry} (ht : t ∈ (unmapCore c host va n).tcache) (hhost : t.host = host) :
    ¬ (va ≤ t.va ∧ t.va < va + n) := by
  have hkeep := (List.mem_filter.mp ht).2
  simpa [hhost, imp_iff_not_or] using hkeep

/-- Settles O35: MAP and UNMAP by BUSY and by what they find, the end of an UNMAP by what still holds the page. -/
theorem mapRegisters : Obligations.MapRegisters := by
  unfold Obligations.MapRegisters
  intro s fn host p va n x r
  refine ⟨fun hp => ⟨fun hb => ⟨execMap_of_busy hp hb, execUnmap_of_busy hp hb⟩, fun hb =>
      ⟨execMap_of_refused hp hb, execMap_of_host hp hb, execMap_of_stack hp hb, fun e => execUnmap_of_host hp hb,
        fun e => execUnmap_of_stack hp hb, execUnmap_of_unmapped hp hb⟩⟩,
    fun hu => ⟨execUnmapComplete_of_held hu, fun hh => ⟨_, execUnmapComplete_of_free hu hh, rfl, fun c hc t ht hhost => ?_⟩⟩⟩
  rw [State.setXlate_core] at ht
  obtain hcore | hcore := onCores_core (f := fun c => unmapCore c host va n) hc
  · exact unmapCore_tcache (hcore ▸ ht) hhost
  · simp [hcore] at ht

end Sys2Proof.Machine
end

section
/-! SUPPORT. Patrol scrub (R225, R226): what a read of a codeword does to the stacks' contents, and what a pass over a list of codewords
leaves damaged, poisoned and correctable. -/
namespace Sys2Proof.Machine
open Sys2Proof

variable {s : State} {k cw : Nat} {m : StackMem}

/-! ### The read of one codeword -/

/-- The stacks' contents after a read of codeword `c` (R225): uncorrectable damage is poisoned, other damage is written back corrected. -/
def treated (m : StackMem) (c : Nat) : StackMem :=
  if m.damaged.contains c then { m with damaged := m.damaged.filter (· != c), poisoned := c :: m.poisoned.filter (· != c) }
  else if m.soft.contains c then { m with soft := m.soft.filter (· != c) }
  else m

@[simp] theorem report_mems (s : State) (line : Nat) (e : Evt) : (report s line e).mems = s.mems := by
  unfold report
  dsimp only
  split <;> rfl

theorem checkCw_stk (s : State) (p c : Nat) : (checkCw s p c).mems.stk = treated s.mems.stk c := by
  unfold checkCw treated
  dsimp only
  split
  · rw [report_mems]
    rfl
  · split <;> rfl

theorem treated_of_damaged (h : cw ∈ m.damaged) :
    treated m cw = { m with damaged := m.damaged.filter (· != cw), poisoned := cw :: m.poisoned.filter (· != cw) } :=
  if_pos (by simpa using h)

theorem treated_of_undamaged (h : cw ∉ m.damaged) : treated m cw = { m with soft := m.soft.filter (· != cw) } := by
  unfold treated
  rw [if_neg (by simpa using h)]
  split
  case isTrue => rfl
  case isFalse hs => rw [List.filter_eq_self.mpr (fun x hx => bne_iff_ne.mpr fun he => hs (by simpa [he] using hx))]

theorem mem_damaged_treated {x : Nat} : x ∈ (treated m cw).damaged ↔ x ∈ m.damaged ∧ x ≠ cw := by
  by_cases h : cw ∈ m.damaged
  · simp [treated_of_damaged h]
  · rw [treated_of_undamaged h]
    exact ⟨fun hx => ⟨hx, fun he => h (he ▸ hx)⟩, And.left⟩

theorem mem_poisoned_treated {x : Nat} : x ∈ (treated m cw).poisoned ↔ x ∈ m.poisoned ∨ x = cw ∧ x ∈ m.damaged := by
  by_cases h : cw ∈ m.damaged
  · rw [treated_of_damaged h]
    by_cases hx : x = cw <;> simp [hx, h]
  · rw [treated_of_undamaged h]
    exact ⟨Or.inl, fun hx => hx.resolve_right fun hc => h (hc.1 ▸ hc.2)⟩

/-! ### A pass over a list of codewords -/

theorem foldl_checkCw_stk (part : State → Nat → Nat) (l : List Nat) (s : State) :
    (l.foldl (fun s c => checkCw s (part s c) c) s).mems.stk = l.foldl treated s.mems.stk := by
  induction l generalizing s with
  | nil => rfl
  | cons c l ih => rw [List.foldl_cons, List.foldl_cons, ih, checkCw_stk]

/-- No codeword that was read is left damaged. -/
theorem mem_damaged_foldl {x : Nat} (l : List Nat) (m : StackMem) :
    x ∈ (l.foldl treated m).damaged ↔ x ∈ m.damaged ∧ x ∉ l := by
  induction l generalizing m with
  | nil => simp
  | cons c l ih => rw [List.foldl_cons, ih, mem_damaged_treated, List.mem_cons, not_or, and_assoc]

/-- Each damaged codeword that was read is poisoned: by the first read of it, after which it stays so. -/
theorem mem_poisoned_foldl {x : Nat} {l : List Nat} {m : StackMem} (h : x ∈ m.poisoned ∨ x ∈ l ∧ x ∈ m.damaged) :
    x ∈ (l.foldl treated m).poisoned := by
  induction l generalizing m with
  | nil => simpa using h
  | cons c l ih =>
    refine ih ?_
    rw [mem_poisoned_treated, mem_damaged_treated]
    rw [List.mem_cons] at h
    tauto

/-- Of a codeword without uncorrectable damage, a read leaves nothing to correct. -/
theorem mem_soft_foldl {x : Nat} {l : List Nat} {m : StackMem} (h : x ∉ m.damaged) :
    x ∈ (l.foldl treated m).soft ↔ x ∈ m.soft ∧ x ∉ l := by
  induction l generalizing m with
  | nil => simp
  | cons c l ih =>
    have hstep : x ∈ (treated m c).soft ↔ x ∈ m.soft ∧ x ≠ c := by
      by_cases hc : c ∈ m.damaged
      · simp [treated_of_damaged hc, show x ≠ c from fun he => h (he ▸ hc)]
      · simp [treated_of_undamaged hc]
    rw [List.foldl_cons, ih fun hx => h (mem_damaged_treated.mp hx).1, hstep, List.mem_cons, not_or, and_assoc]

/-- A codeword with both kinds of damage is read twice in one pass: the first read poisons it, the second corrects the rest. -/
theorem not_mem_soft_patrol {x : Nat} (mine : Nat → Bool) (hx : mine x = true) (hs : x ∈ m.soft) :
    x ∉ (((m.damaged ++ m.soft).filter mine).foldl treated m).soft := by
  have hd : x ∉ ((m.damaged.filter mine).foldl treated m).damaged := by
    simp [mem_damaged_foldl, hx]
  rw [List.filter_append, List.foldl_append, mem_soft_foldl hd]
  exact fun h => h.2 (List.mem_filter.mpr ⟨hs, hx⟩)

/-! ### PATROL_SCRUB -/

/-- The codewords with damage in the stack of controller `k`, in the order a pass reads them. -/
def patrolled (s : State) (k : Nat) : List Nat :=
  (s.mems.stk.damaged ++ s.mems.stk.soft).filter (fun c => ctlOfSpa s.var (64 * c) == k)

theorem execPatrolScrub_of_present (h : bit (stackMask s.var) k = true) :
    let t := (patrolled s k).foldl (fun s c => checkCw s (partOfSpa s (64 * c)) c) s
    execPatrolScrub k s = .next (t.setStkCtl k { t.stkCtl k with scrub := inc32 (t.stkCtl k).scrub }) :=
  if_neg (by simp [h])

/-- Settles O36: the codewords of a pass are treated one after another; with none of them the pass only counts itself. -/
theorem patrolScrubs : Obligations.PatrolScrubs := by
  unfold Obligations.PatrolScrubs
  intro s k hk m cws t u
  have hstk : u.mems.stk = cws.foldl treated m := foldl_checkCw_stk (fun s c => partOfSpa s (64 * c)) cws s
  refine ⟨execPatrolScrub_of_present hk, fun cw hcw => ⟨fun hd => ?damaged, fun hs => ?soft⟩, fun hnil => ?clean⟩
  case damaged =>
    have hin : cw ∈ cws := List.mem_filter.mpr ⟨List.mem_append_left _ hd, by simp [hcw]⟩
    rw [hstk, mem_damaged_foldl]
    exact ⟨mem_poisoned_foldl (Or.inr ⟨hin, hd⟩), fun h => h.2 hin⟩
  case soft =>
    rw [hstk]
    exact not_mem_soft_patrol _ (by simp [hcw]) hs
  case clean => simp only [u, t, hnil, List.foldl_nil]

end Sys2Proof.Machine
end

section
/-! SUPPORT. The gather sorter (R236 to R241): a request that enters, joins or waits, a cycle in which a bank issues, a promotion, and the
return of an entry's data. -/
namespace Sys2Proof.Machine
open Sys2Proof

variable {s u : State} {k p n i b : Nat} {m : CoreCmd} {e : SortEnt}

/-! ### Room in a sorter (R236, R238) -/

theorem sorterRoom_iff {c : StackCtl} : sorterRoom s c p = true ↔
    c.sorter.length < 4096 ∧ (c.sorter.filter (fun e => e.part == p)).length < 256 * bedCount s p := by
  simp [sorterRoom]

section put
variable {gr : Nat} {req : Nat × Nat × Nat}

theorem sorterPut_of_waiting (h : (s.stkCtl k).sorter.any (fun e => e.part == p && e.granule == gr && !e.out) = true) :
    sorterPut s k p gr req = some (s.setStkCtl k { s.stkCtl k with
      sorter := (s.stkCtl k).sorter.map (fun e =>
        if e.part == p && e.granule == gr && !e.out then { e with reqs := e.reqs ++ [req] } else e)
      merge := satAdd 64 (s.stkCtl k).merge 1 }) :=
  if_pos h

variable (h : (s.stkCtl k).sorter.any (fun e => e.part == p && e.granule == gr && !e.out) = false)
include h

theorem sorterPut_of_room (hroom : sorterRoom s (s.stkCtl k) p = true) :
    sorterPut s k p gr req = some (s.setStkCtl k { s.stkCtl k with
      sorter := (s.stkCtl k).sorter ++ [{ part := p, granule := gr, reqs := [req], promoted := false, out := false }] }) := by
  simp only [sorterPut, h, hroom, Bool.false_eq_true, if_false, if_true]

theorem sorterPut_of_full (hroom : sorterRoom s (s.stkCtl k) p = false) : sorterPut s k p gr req = none := by
  simp only [sorterPut, h, hroom, Bool.false_eq_true, if_false]

end put

/-! ### GATHER_SORTER_ENTRY (R27, R236, R238) -/

/-- Whether a slot has no gather request `g` to try: it streams no gather, is halted or walks, or has asked that index read. -/
def gatherBarred (s : State) (n i : Nat) (g : GatherReq) : Bool :=
  let x := (s.core n).slot i
  !x.active || x.halted || x.walking || slotKind x != 4 || idxAsked s n (reqTag x i) g.off

theorem gatherBarred_eq_false {g : GatherReq} (ha : ((s.core n).slot i).active = true) (hh : ((s.core n).slot i).halted = false)
    (hw : ((s.core n).slot i).walking = false) (hk : slotKind ((s.core n).slot i) = 4)
    (hi : idxAsked s n (reqTag ((s.core n).slot i) i) g.off = false) : gatherBarred s n i g = false := by
  simp [gatherBarred, ha, hh, hw, hk, hi]

/-- What a gather's request at stack-physical address `spa` does to that address's sorter, if it can enter. -/
def gatherPut (s : State) (n i : Nat) (m : CoreCmd) (g : GatherReq) (spa : Nat) : Option State :=
  sorterPut s (ctlOfSpa s.var spa) (cmdPart m) (spa / 256) (n, reqTag ((s.core n).slot i) i, g.off)

/-- The slot of a gather whose part of a row has entered a sorter. -/
def rowAsked (x : Slot) (g : GatherReq) (spa : Nat) : Slot :=
  { x with issued := x.issued + g.len
           fly := (upto (g.len / 16)).foldl (fun t j => Tbl.set t (g.off + 16 * j) (spa + 16 * j)) x.fly }

section entry
variable {g : GatherReq} (hc : (s.core n).cmd = some m) (hg : nextGather ((s.core n).slot i) = some g)
  (hb : gatherBarred s n i g = false)
include hc hg hb

theorem execGatherSorterEntry_of_entered {spa : Nat} (ht : target s (cmdPart m) n 4 g.va g.len false = .ok spa)
    (hput : gatherPut s n i m g spa = some u) :
    execGatherSorterEntry n i s =
      .next (if idxMark ≤ g.off then u else u.setCore n ((u.core n).setSlot i (rowAsked ((s.core n).slot i) g spa))) := by
  unfold gatherBarred at hb
  unfold gatherPut at hput
  simp only [execGatherSorterEntry, hc, hg, hb, ht, hput]
  exact (apply_ite Host.Outcome.next _ _ _).symm

theorem execGatherSorterEntry_of_full {spa : Nat} (ht : target s (cmdPart m) n 4 g.va g.len false = .ok spa)
    (hput : gatherPut s n i m g spa = none) : execGatherSorterEntry n i s = .next (streamIdle s n m) := by
  unfold gatherBarred at hb
  unfold gatherPut at hput
  simp only [execGatherSorterEntry, hc, hg, hb, ht, hput]
  rfl

theorem execGatherSorterEntry_of_hold (ht : target s (cmdPart m) n 4 g.va g.len false = .hold) :
    execGatherSorterEntry n i s = .next (streamIdle s n m) := by
  unfold gatherBarred at hb
  simp only [execGatherSorterEntry, hc, hg, hb, ht]
  rfl

theorem execGatherSorterEntry_of_walk {va : Nat} (ht : target s (cmdPart m) n 4 g.va g.len false = .walk va) :
    execGatherSorterEntry n i s = .next (startWalk s (cmdPart m) n i va) := by
  unfold gatherBarred at hb
  simp only [execGatherSorterEntry, hc, hg, hb, ht]
  rfl

end entry

/-! ### GATHER_SORTER_ISSUE (R239, R241) -/

/-- A controller that has counted the cycle if a bank of its sorter is hot. -/
def hotCounted (c : StackCtl) : StackCtl := if (upto 1024).any (bankHot c) then { c with hot := inc32 c.hot } else c

/-- A cycle's count leaves the sorter, and so what the banks may issue, as it is. -/
theorem hotCounted_eq (c : StackCtl) : hotCounted c = { c with hot := (hotCounted c).hot } := by
  unfold hotCounted
  split <;> rfl

@[simp] theorem hotCounted_sorter (c : StackCtl) : (hotCounted c).sorter = c.sorter := by rw [hotCounted_eq]

@[simp] theorem hotCounted_bankPtr (c : StackCtl) : (hotCounted c).bankPtr = c.bankPtr := by rw [hotCounted_eq]

@[simp] theorem hotCounted_openPg (c : StackCtl) : (hotCounted c).openPg = c.openPg := by rw [hotCounted_eq]

@[simp] theorem bankReady_hotCounted (c : StackCtl) : bankReady (hotCounted c) = bankReady c := by
  unfold bankReady bankHot bankOut
  rw [hotCounted_sorter]

@[simp] theorem bankPick_hotCounted (c : StackCtl) (b : Nat) : bankPick (hotCounted c) b = bankPick c b := by
  unfold bankPick
  rw [hotCounted_sorter, hotCounted_openPg]

/-- The bank that the rotating order reaches first of those below the cap with a waiting entry. -/
def readyBank (c : StackCtl) : Option Nat := ((upto 1024).map (fun i => (c.bankPtr + i) % 1024)).find? (bankReady c)

theorem execGatherSorterIssue_of_free (hout : ((s.stkCtl k).sorter.filter (fun e => e.out)).length < 1024)
    (hb : readyBank (s.stkCtl k) = some b) (he : bankPick (s.stkCtl k) b = some e) :
    execGatherSorterIssue k s = .next (s.setStkCtl k { hotCounted (s.stkCtl k) with
      sorter := markOut e (s.stkCtl k).sorter, bankPtr := (b + 1) % 1024
      openPg := Tbl.set (s.stkCtl k).openPg b (Config.dramPage (256 * e.granule)) }) := by
  unfold readyBank at hb
  unfold execGatherSorterIssue
  dsimp only
  rw [← hotCounted]
  simp [-List.find?_map, Nat.not_le.mpr hout, hb, he]

theorem execGatherSorterIssue_of_none (h : 1024 ≤ ((s.stkCtl k).sorter.filter (fun e => e.out)).length ∨ readyBank (s.stkCtl k) = none) :
    execGatherSorterIssue k s = .next (s.setStkCtl k (hotCounted (s.stkCtl k))) := by
  unfold readyBank at h
  unfold execGatherSorterIssue
  dsimp only
  rw [← hotCounted]
  obtain hfull | hnone := h
  · simp [hfull]
  · simp [-List.find?_map, hnone]

/-! ### GATHER_PROMOTION (R240) -/

theorem execGatherPromotion_of_waiting {j : Nat} (hj : (s.stkCtl k).sorter[j]? = some e) (ho : e.out = false) (hp : e.promoted = false) :
    execGatherPromotion k j s = .next (s.setStkCtl k { s.stkCtl k with
      sorter := promoteAt j (s.stkCtl k).sorter, promote := inc32 (s.stkCtl k).promote }) := by
  simp [execGatherPromotion, hj, ho, hp]

/-! ### The return of an entry's data (R238, R239) -/

/-- Whether an issued entry serves the request at sequence offset `off` of slot `i` of core `n`. -/
def serves (n i off : Nat) (e : SortEnt) : Bool := e.out && e.reqs.any (fun r => r.1 == n && r.2.1 % 8 == i && r.2.2 == off)

theorem gatherReturn_of_entry {j : Nat} {d : StackCtl} (hk : s.units.stkCtl.find? (fun c => c.2.sorter.any (serves n i j)) = some (k, d))
    (he : d.sorter.find? (serves n i j) = some e) :
    gatherReturn s n i j =
      e.reqs.foldl (fun s r => gatherTo s e r) (entryRead (s.setStkCtl k { d with sorter := d.sorter.erase e }) e) := by
  unfold serves at hk he
  simp only [gatherReturn, hk, he]

theorem gatherReturn_of_none {j : Nat} (h : s.units.stkCtl.find? (fun c => c.2.sorter.any (serves n i j)) = none) :
    gatherReturn s n i j = s := by
  unfold serves at h
  simp only [gatherReturn, h]

/-- Settles O37: a request by its granule's waiting entry and by room, an attempt by the target of its address, a cycle by the bank that
may issue, then promotion and return. -/
theorem gatherSorter : Obligations.GatherSorter := by
  unfold Obligations.GatherSorter
  intro s u n i k j p spa g e b c x
  refine ⟨fun gr req => ⟨sorterPut_of_waiting, fun hno => ⟨fun hroom => ?enters, fun hfull => ?waits⟩⟩,
    fun hcmd hg ha hh hw hk hi => ?entry, ⟨execGatherSorterIssue_of_free, execGatherSorterIssue_of_none⟩,
    execGatherPromotion_of_waiting, fun d => gatherReturn_of_entry, gatherReturn_of_none⟩
  case enters => exact sorterPut_of_room hno (sorterRoom_iff.mpr hroom)
  case waits =>
    refine sorterPut_of_full hno (Bool.eq_false_iff.mpr fun hroom => ?_)
    obtain ⟨hall, hmine⟩ := sorterRoom_iff.mp hroom
    exact hfull.elim (Nat.not_le.mpr hall) (Nat.not_le.mpr hmine)
  case entry =>
    have hc := cmd_of hcmd
    have hb := gatherBarred_eq_false ha hh hw hk hi
    exact ⟨execGatherSorterEntry_of_entered hc hg hb, execGatherSorterEntry_of_full hc hg hb, execGatherSorterEntry_of_hold hc hg hb,
      fun va => execGatherSorterEntry_of_walk hc hg hb⟩

end Sys2Proof.Machine
end

section
/-! SUPPORT. The steps of an update (R248 to R250, R264 to R266): the checks that refuse a command in their order, what one that begins
leaves, and what a landing block, the time limit, the start of the sweep and an engine's turn do. -/
namespace Sys2Proof.Machine
open Sys2Proof

variable {s : State} {k p d lb cnt e : Nat} {m : Cmd} {img : Image} {block data : Bytes} {r : Bool}

/-! ### UPDATE and UPDATE_RESUME (R248, R249, R266) -/

section turn
variable (heng : (s.sched (keyPart k)).eng = none) (hturn : engTurn s (keyPart k) m = true)
include heng hturn

theorem execUpdate_of_turn (hi : issuable s k opUpdate = some m) :
    execUpdate k block s = .next (beginUpd s k m block false) := by
  simp [execUpdate, hi, heng, hturn]

theorem execUpdateResume_of_turn (hi : issuable s k opUpdateResume = some m) :
    execUpdateResume k block s = .next (beginUpd s k m block true) := by
  simp [execUpdateResume, hi, heng, hturn]

end turn

section loaded
variable (himg : (s.ctx k).image = some img)
include himg

theorem beginUpd_of_bedGone (hb : bedGone s k = true) : beginUpd s k m block r = refuseCmd s k m.id 0x01 0 := by
  simp [beginUpd, himg, hb, stUnitAbsent]

theorem beginUpd_of_unmapped (hb : bedGone s k = false) (hm : hostMapped s (keyPart k) m.desc.arg0 576 = false) :
    beginUpd s k m block r = refuseCmd s k m.id 0x06 0 := by
  simp [beginUpd, himg, hb, hm, stParamUnmapped]

section mapped
variable (hb : bedGone s k = false) (hm : hostMapped s (keyPart k) m.desc.arg0 576 = true)
include hb hm

theorem beginUpd_of_badBlock {o : Nat} (ho : badBlock block = some o) : beginUpd s k m block r = refuseCmd s k m.id 0x02 o := by
  simp [beginUpd, himg, hb, hm, ho, stImageRejected]

theorem beginUpd_of_unmappedPage {pg : Nat} (ho : badBlock block = none) (hpg : unmappedPage s (keyPart k) img.plan = some pg) :
    beginUpd s k m block r = refuseCmd s k m.id 0x14 (pg % 2 ^ 19) := by
  simp [beginUpd, himg, hb, hm, ho, hpg, stUpdUnmapped]

end mapped

end loaded

/-- Changes of the engines' registers leave the schedulers. -/
@[simp] theorem foldl_setUpdReg_sched (x : State → Nat → UpdRegs) (es : List Nat) (s : State) (q : Nat) :
    (es.foldl (fun s e => s.setUpdReg e (x s e)) s).sched q = s.sched q :=
  List.foldlRecOn es _ (motive := fun t : State => t.sched q = s.sched q) rfl fun _ ht _ _ => ht

@[simp] theorem clearUp_sched (s : State) (p q : Nat) : (clearUp s p).sched q = s.sched q :=
  foldl_setUpdReg_sched (fun s e => { s.updReg e with part := p }) ..

@[simp] theorem walkTime_sched (s : State) (n q : Nat) : (walkTime s n).sched q = s.sched q :=
  List.foldlRecOn _ _ (motive := fun t : State => t.sched q = s.sched q) rfl fun _ ht _ _ => ht

/-- R266: an UPDATE_RESUME that no check refuses has its partition's engines, and asks for the credit of its sweep. -/
theorem beginUpd_resumed (himg : (s.ctx k).image = some img) (hb : bedGone s k = false)
    (hm : hostMapped s (keyPart k) m.desc.arg0 576 = true) (ho : badBlock block = none)
    (hpg : unmappedPage s (keyPart k) img.plan = none) :
    let t := beginUpd s k m block true
    (t.upd (keyPart k)).cmd = some (k, m.id) ∧ (t.upd (keyPart k)).phase = .norm ∧ (t.upd (keyPart k)).ask = .asking ∧
      (t.upd (keyPart k)).blk = parseBlock block ∧ (t.sched (keyPart k)).eng = some (k, m.id) := by
  simp [beginUpd, himg, hb, hm, ho, hpg]

/-! ### Landing (R249, R250) -/

section landing
variable {src : Option (Nat × Nat)}

theorem landBlock_of_no_block (h : blockAt (dieSegs (updPlan s p) d) 0 lb = none) : landBlock s p d lb cnt data src = s := by
  simp [landBlock, h]

section planned
variable (h : blockAt (dieSegs (updPlan s p) d) 0 lb ≠ none)
include h

theorem landBlock_of_first (hc : Tbl.find (s.upd p).counts (blockKey d lb) = none) :
    landBlock s p d lb cnt data src = landCheck (landWrite s p d lb cnt data false src) p := by
  simp [landBlock, h, hc]

variable (hc : Tbl.find (s.upd p).counts (blockKey d lb) ≠ none)
include hc

theorem landBlock_of_ahead
    (ha : ((s.upd p).readBlk.contains (blockKey d lb) && (Tbl.find (s.upd p).next (blockKey d lb)).isNone) = true) :
    landBlock s p d lb cnt data src = landWrite s p d lb cnt data true src := by
  simp only [landBlock, Option.isNone_iff_eq_none, if_neg h, if_neg hc, if_pos ha]

theorem landBlock_of_held
    (ha : ((s.upd p).readBlk.contains (blockKey d lb) && (Tbl.find (s.upd p).next (blockKey d lb)).isNone) = false) :
    landBlock s p d lb cnt data src = s.setUpd p { s.upd p with
      held := (s.upd p).held ++ [{ key := blockKey d lb, cnt := cnt, data := data, src := src }] } := by
  simp only [landBlock, Option.isNone_iff_eq_none, if_neg h, if_neg hc, ha, Bool.false_eq_true, if_false]

end planned

end landing

/-- R249: past the time limit the landing ends with the number of its missing blocks. -/
theorem execLandTimeout_of_late {id : Nat} (hcmd : (s.upd p).cmd = some (k, id)) (hph : (s.upd p).phase = .landing)
    (hw : (s.upd p).blk.timeout * 1000000 ≤ (s.upd p).waited) :
    execLandTimeout p s = .next (complete ((s.setUpd p
      { clearAcc (s.upd p) with cmd := none, phase := .idle, xlat := [], ask := .waiting }).setSched p
      { s.sched p with eng := none }) k id
      { status := 0x15, result := planBlocks (updPlan s p) - (s.upd p).counts.length }) := by
  simp [execLandTimeout, hcmd, hph, Nat.not_lt.mpr hw, stGradIncomplete]

/-! ### The sweep (R249, R256, R403) -/

section start
variable (hcmd : (s.upd p).cmd.isSome = true) (hph : (s.upd p).phase = .norm)
include hcmd hph

theorem execSweepStart_of_no_norm (hn : (s.upd p).normSeen = false) : execSweepStart p s = .next (normSignal s p) := by
  simp [execSweepStart, Option.isSome_iff_ne_none.mp hcmd, hph, hn]

theorem execSweepStart_of_granted (hn : (s.upd p).normSeen = true) (ha : (s.upd p).ask = .granted) :
    let t := if (s.upd p).resume = true then s else prePasses s p
    execSweepStart p s = .next (armEngines (t.setUpd p { t.upd p with phase := .sweep, ask := .issued }) p) := by
  simp [execSweepStart, Option.isSome_iff_ne_none.mp hcmd, hph, hn, ha]

theorem execSweepStart_of_no_credit (hn : (s.upd p).normSeen = true) (ha : (s.upd p).ask ≠ .granted) :
    execSweepStart p s = .next s := by
  simp [execSweepStart, Option.isSome_iff_ne_none.mp hcmd, hph, hn, ha]

end start

/-- An engine's turn of a sweep under way: its step, or once it has ended only what is left to settle. -/
theorem execSweepRecord_of_sweep (hcmd : (s.upd p).cmd.isSome = true) (hph : (s.upd p).phase = .sweep ∨ (s.upd p).phase = .acks)
    (he : bit (stackMask s.var) e = true) :
    execSweepRecord p e s = .next (settleUpd (if (updEng s p e).ended = true then s else engBusy (engStep s p e) e) p) := by
  have hgo : ((s.upd p).cmd.isNone || !bit (stackMask s.var) e || ((s.upd p).phase != .sweep && (s.upd p).phase != .acks)) = false := by
    rw [Option.isNone_eq_false_iff.mpr hcmd, he]
    obtain h | h := hph <;> simp [h]
  cases hend : (updEng s p e).ended <;> simp [execSweepRecord, hgo, hend]

/-- Settles O44: a command by the checks in their order, a landing block by the state of its place, then the time limit, the start of the
sweep and the engines' turns. -/
theorem updateSteps : Obligations.UpdateSteps := by
  unfold Obligations.UpdateSteps
  intro s k p d lb cnt e m img block data u
  refine ⟨fun c op r hc hi heng hturn himg => ⟨?begins, beginUpd_of_bedGone himg, beginUpd_of_unmapped himg, fun hb hm =>
      ⟨fun o => beginUpd_of_badBlock himg hb hm, fun pg => beginUpd_of_unmappedPage himg hb hm, fun ho hpg hr => ?resumed⟩⟩,
    ⟨fun hno => ?noBlock, fun hat => ⟨fun hf => ?first, fun hc ha => ?ahead, fun hc ha => ?held⟩⟩,
    fun id => execLandTimeout_of_late,
    fun hcmd hph => ⟨execSweepStart_of_no_norm hcmd hph, execSweepStart_of_granted hcmd hph, execSweepStart_of_no_credit hcmd hph⟩,
    fun hcmd hph he hend => ?record, fun hcmd hph he hend => ?ended⟩
  case begins =>
    simp only [List.mem_cons, Prod.mk.injEq, List.not_mem_nil, or_false] at hc
    obtain ⟨rfl, rfl, rfl⟩ | ⟨rfl, rfl, rfl⟩ := hc
    · exact execUpdate_of_turn heng hturn hi
    · exact execUpdateResume_of_turn heng hturn hi
  case resumed =>
    subst hr
    exact beginUpd_resumed himg hb hm ho hpg
  case noBlock => exact congrArg _ (landBlock_of_no_block hno)
  case first => exact congrArg _ (landBlock_of_first hat hf)
  case ahead => exact congrArg _ (landBlock_of_ahead hat hc ha)
  case held => exact congrArg _ (landBlock_of_held hat hc ha)
  case record =>
    refine (execSweepRecord_of_sweep hcmd hph he).trans ?_
    rw [if_neg (Bool.eq_false_iff.mp hend)]
    rfl
  case ended =>
    refine (execSweepRecord_of_sweep hcmd hph he).trans ?_
    rw [if_pos hend]

end Sys2Proof.Machine
end

section
/-! SUPPORT. Trellis ports (R291 to R300, R319, R323, R422): what a port that trains takes from its good lanes and its neighbour, what holds
it up or takes it down, and what a wire unit and a packet for another module do on it. -/
namespace Sys2Proof.Machine
open Sys2Proof

variable {s : State} {n lanes peer cause : Nat} {jobs : List Nat} {u : WireUnit} {k : Packet}

/-! ### Good lanes and the right neighbour (R292, R458) -/

/-- The good lanes of a port: none without a cable. -/
def goodLanes (s : State) (n lanes : Nat) : Nat := if s.pins.cables.contains (n / 4) then lanes else 0

theorem laneState_eq (lanes : Nat) : laneState lanes =
    if lanes % 256 = 255 then 4 else if lanes % 16 = 15 ∨ lanes / 16 % 16 = 15 then 5 else 2 := by
  simp only [laneState, Bool.or_eq_true, decide_eq_true_eq]

theorem staysUp_iff : staysUp s n lanes peer = true ↔
    laneState (goodLanes s n lanes) ≠ 2 ∧ peer % 1024 = expectedPeer s.trl (dirOfPort s n).1 := by
  simp only [staysUp, goodLanes, Bool.and_eq_true, bne_iff_ne, beq_iff_eq]

/-! ### What sending and reporting leave of a port -/

theorem sendUnits_state (vc units : Nat) (x : Port) : (sendUnits vc units x).2.state = x.state := by
  induction units generalizing x with
  | zero => rfl
  | succ units ih =>
    rw [sendUnits]
    split
    · exact ih _
    · rfl

/-- What waits at a port is sent without a change of the port's state. -/
theorem drainPort_state (os : List Outgoing) (x : Port) : (drainPort os x).state = x.state := by
  induction os generalizing x with
  | nil => rfl
  | cons o os ih =>
    have hrest : (drainPort os (sendUnits o.vc o.units x).2).state = x.state := (ih _).trans (sendUnits_state ..)
    rw [drainPort]
    dsimp only
    split
    · exact hrest
    · exact hrest

@[simp] theorem report_tport (s : State) (line : Nat) (e : Evt) (i : Nat) : (report s line e).tport i = s.tport i := by
  unfold report
  dsimp only
  split <;> rfl

/-! ### A port that is down trains (R292) -/

/-- A port with the lanes, the place and the neighbour that it has found, in a state and with nothing outstanding. -/
def trained (s : State) (n lanes peer state : Nat) : Port :=
  { freshLink (s.tport n) with
    lanes := goodLanes s n lanes % 256, dir := (dirOfPort s n).1, member := (dirOfPort s n).2, peer := peer % 1024, state := state }

theorem trainPort_of_few_lanes (hl : laneState (goodLanes s n lanes) = 2) :
    trainPort s n lanes peer = s.setTport n (trained s n lanes peer 2) :=
  if_pos hl

theorem trainPort_of_wrong_peer (hl : laneState (goodLanes s n lanes) ≠ 2)
    (hp : peer % 1024 ≠ expectedPeer s.trl (dirOfPort s n).1) :
    trainPort s n lanes peer =
      report (s.setTport n (trained s n lanes peer 2)) (32 + n) (evtNone 0x020 2 n (peer % 1024)) :=
  (if_neg hl).trans (if_pos hp)

theorem trainPort_of_right_peer (hl : laneState (goodLanes s n lanes) ≠ 2)
    (hp : peer % 1024 = expectedPeer s.trl (dirOfPort s n).1) :
    trainPort s n lanes peer = s.setTport n
      (drainPort (s.tport n).sendq (trained s n lanes peer (laneState (goodLanes s n lanes)))) :=
  (if_neg hl).trans (if_neg (not_not_intro hp))

theorem trainPort_state_of_right_peer (hp : peer % 1024 = expectedPeer s.trl (dirOfPort s n).1) :
    ((trainPort s n lanes peer).tport n).state = laneState (goodLanes s n lanes) := by
  by_cases hl : laneState (goodLanes s n lanes) = 2
  · rw [trainPort_of_few_lanes hl, State.setTport_tport, hl]; rfl
  · rw [trainPort_of_right_peer hl hp, State.setTport_tport, drainPort_state]; rfl

theorem trainPort_state_of_wrong_peer (hp : peer % 1024 ≠ expectedPeer s.trl (dirOfPort s n).1) :
    ((trainPort s n lanes peer).tport n).state = 2 := by
  by_cases hl : laneState (goodLanes s n lanes) = 2
  · rw [trainPort_of_few_lanes hl, State.setTport_tport]; rfl
  · rw [trainPort_of_wrong_peer hl hp, report_tport, State.setTport_tport]; rfl

/-! ### A port that is up trains again (R292, R321, R323) -/

theorem retrainUp_of_few_lanes (hl : laneState (goodLanes s n lanes) = 2) :
    retrainUp s n lanes peer jobs = report (portDown s n jobs) (32 + n) (evtNone 0x021 2 n 2) :=
  if_pos hl

theorem retrainUp_of_wrong_peer (hl : laneState (goodLanes s n lanes) ≠ 2)
    (hp : peer % 1024 ≠ expectedPeer s.trl (dirOfPort s n).1) :
    retrainUp s n lanes peer jobs = report (portDown s n jobs) (32 + n) (evtNone 0x020 2 n (peer % 1024)) :=
  (if_neg hl).trans (if_pos hp)

theorem retrainUp_of_right_peer (hl : laneState (goodLanes s n lanes) ≠ 2)
    (hp : peer % 1024 = expectedPeer s.trl (dirOfPort s n).1) :
    retrainUp s n lanes peer jobs = s.setTport n { s.tport n with
      lanes := goodLanes s n lanes % 256, peer := peer % 1024, state := laneState (goodLanes s n lanes) } :=
  (if_neg hl).trans (if_neg (not_not_intro hp))

/-! ### PORT_TRAIN and RETRAIN (R292, R319, R422) -/

section trains
variable (hm : mayTrain s n = true)
include hm

section down
variable (hup : portUp (s.tport n) = false)
include hup

theorem execPortTrain_of_down : execPortTrain n lanes peer s = .next (trainPort s n lanes peer) := by
  simp [execPortTrain, hm, hup]

theorem execRetrain_of_down (port : Nat) : execRetrain (.mgmt port) n lanes peer jobs s = .next (trainPort s n lanes peer) := by
  simp [execRetrain, hm, hup]

end down

section up
variable (hup : portUp (s.tport n) = true)
include hup

theorem execRetrain_of_up (port : Nat) : execRetrain (.mgmt port) n lanes peer jobs s = .next (retrainUp s n lanes peer jobs) := by
  simp [execRetrain, hm, hup]

theorem execPortTrain_of_stays (hs : staysUp s n lanes peer = true) :
    execPortTrain n lanes peer s = .next (retrainUp s n lanes peer []) := by
  simp [execPortTrain, hm, hup, hs]

theorem execPortTrain_of_falls (hs : staysUp s n lanes peer = false) : execPortTrain n lanes peer s = .next s := by
  simp [execPortTrain, hm, hup, hs]

end up
end trains

theorem mayTrain_of_fatal (hf : s.blv.fatal = true) : mayTrain s n = false := by simp [mayTrain, hf]

theorem execPortTrain_of_fatal (hf : s.blv.fatal = true) : execPortTrain n lanes peer s = .next s := by
  simp [execPortTrain, mayTrain_of_fatal hf]

/-! ### PORT_DOWN, DISABLE and PACKET_STALL_TIMEOUT (R292, R319, R323) -/

/-- Whether the cause that is given for a port's going down holds of it. -/
def causeHolds (x : Port) (cause : Nat) : Bool :=
  if cause = 0 then decide (16 ≤ x.fails) else if cause = 1 then !x.retry.isEmpty else true

theorem causeHolds_of {x : Port} (h0 : cause = 0 → 16 ≤ x.fails) (h1 : cause = 1 → x.retry ≠ []) : causeHolds x cause = true := by
  unfold causeHolds
  split
  case isTrue hc => exact decide_eq_true (h0 hc)
  case isFalse =>
    split
    case isTrue hc => simp [h1 hc]
    case isFalse => rfl

theorem execPortDown_of_cause (hup : portUp (s.tport n) = true) (h0 : cause = 0 → 16 ≤ (s.tport n).fails)
    (h1 : cause = 1 → (s.tport n).retry ≠ []) (h3 : cause < 3) :
    execPortDown n cause jobs s = .next (report (portDown s n jobs) (32 + n) (evtNone 0x021 2 n cause)) := by
  have hgo : (!portUp (s.tport n) || !causeHolds (s.tport n) cause || decide (3 ≤ cause)) = false := by
    rw [hup, causeHolds_of h0 h1, decide_eq_false (Nat.not_le.mpr h3)]; rfl
  exact if_neg (Bool.eq_false_iff.mp hgo)

section present
variable (hb : bit (trlMask s.var) n = true) (hn : n < 16)
include hb hn

theorem execDisable_of_present (port : Nat) (v : Bool) : execDisable (.mgmt port) n v jobs s =
    .next (if v && portUp (s.tport n) then portDown (s.setTport n { s.tport n with disable := v }) n jobs
      else s.setTport n { s.tport n with disable := v }) := by
  have hgo : (!bit (trlMask s.var) n || decide (16 ≤ n)) = false := by rw [hb, decide_eq_false (Nat.not_le.mpr hn)]; rfl
  have hstate : portUp { s.tport n with disable := v } = portUp (s.tport n) := rfl
  simp only [execDisable, hgo, Bool.false_eq_true, if_false, State.setTport_tport, hstate, apply_ite Host.Outcome.next]

theorem execPacketStallTimeout_of_present (job : Nat) : execPacketStallTimeout n job s = .next (linkDrop s n 1 [job]) := by
  simp [execPacketStallTimeout, hb, hn]

end present

/-! ### Wire units (R298 to R300, R422) -/

theorem execWireUnit_of_fatal (hf : s.blv.fatal = true) : execWireUnit n u s = .next s := by
  simp [execWireUnit, hf]

section unit
variable (hup : portUp (s.tport n) = true) (hf : s.blv.fatal = false)
include hup hf

theorem execWireUnit_of_bad_crc (hc : u.crcOk = false) : execWireUnit n u s = .next (s.setTport n { s.tport n with
    crcErr := inc32 (s.tport n).crcErr, nakSent := true
    fails := if u.idle = false ∧ u.seq % 1024 = (s.tport n).expect then (s.tport n).fails + 1 else (s.tport n).fails }) := by
  simp [execWireUnit, hup, hf, hc]

theorem execWireUnit_of_good_crc (hc : u.crcOk = true) :
    let y := takeUnit (linkWord (s.tport n) u) u
    execWireUnit n u s = .next (s.setTport n (drainPort y.sendq y)) := by
  simp [execWireUnit, hup, hf, hc]

end unit

section numbered
variable {x : Port} (hi : u.idle = false)
include hi

theorem takeUnit_of_in_sequence (hq : u.seq % 1024 = x.expect) : takeUnit x u =
    { x with expect := (x.expect + 1) % 1024, nakSent := false, fails := 0, rxu := satAdd 64 x.rxu 1
             freed := Tbl.upd 0 x.freed u.vc (· + 1) } := by
  simp [takeUnit, hi, hq]

theorem takeUnit_of_out_of_sequence (hq : u.seq % 1024 ≠ x.expect) : takeUnit x u = { x with nakSent := true } := by
  simp [takeUnit, hi, hq]

end numbered

/-! ### PACKET_FORWARD (R294, R295, R422) -/

theorem execPacketForward_of_fatal (hf : s.blv.fatal = true) : execPacketForward n k s = .next s := by
  simp [execPacketForward, hf]

theorem execPacketForward_of_other (hup : portUp (s.tport n) = true) (hf : s.blv.fatal = false) (hd : k.dest ≠ s.trl.pos) :
    execPacketForward n k s = .next (if s.trl.skip.contains s.trl.pos then s else launch s (travelDir (dirOfPort s n).1) k) := by
  simp only [execPacketForward, hup, hf, beq_false_of_ne hd, Bool.not_true, Bool.false_or, apply_ite Host.Outcome.next]

/-- Settles O45: training by the lanes and the neighbour found, then what takes a port down, and what arrives on one. -/
theorem trellisPorts : Obligations.TrellisPorts := by
  unfold Obligations.TrellisPorts
  intro s n m lanes peer cause jobs u k v job x up good state right t
  have hstate : state = laneState (goodLanes s n lanes) := (laneState_eq _).symm
  have hright : right = true ↔ peer % 1024 = expectedPeer s.trl (dirOfPort s n).1 := decide_eq_true_iff
  have hwrong : right = false ↔ peer % 1024 ≠ expectedPeer s.trl (dirOfPort s n).1 := decide_eq_false_iff_not
  rw [hstate, hright, hwrong]
  refine ⟨fun hm => ⟨execPortTrain_of_down hm, trainPort_state_of_right_peer,
      fun hp => ⟨trainPort_state_of_wrong_peer hp, fun hl => ⟨_, trainPort_of_wrong_peer hl hp⟩⟩,
      fun hup => execRetrain_of_down hm hup m,
      fun hup => ⟨fun hl hp => ⟨?retrained, ?trained⟩, fun hl => ?fewLanes, fun hl hp => ?wrongPeer, fun h => ?falls⟩⟩,
    execPortDown_of_cause,
    fun hb hn => ⟨execDisable_of_present hb hn m v, execPacketStallTimeout_of_present hb hn job⟩,
    ⟨rfl, rfl⟩,
    fun hf => ⟨execPortTrain_of_fatal hf, execWireUnit_of_fatal hf, execPacketForward_of_fatal hf⟩,
    fun hup hf => ⟨execWireUnit_of_bad_crc hup hf, execWireUnit_of_good_crc hup hf, fun hi hq => ?inSequence,
      takeUnit_of_out_of_sequence, execPacketForward_of_other hup hf⟩⟩
  case retrained => exact (execRetrain_of_up hm hup m).trans (congrArg _ (retrainUp_of_right_peer hl hp))
  case trained => exact (execPortTrain_of_stays hm hup (staysUp_iff.mpr ⟨hl, hp⟩)).trans (congrArg _ (retrainUp_of_right_peer hl hp))
  case fewLanes => exact (execRetrain_of_up hm hup m).trans (congrArg _ (retrainUp_of_few_lanes hl))
  case wrongPeer => exact (execRetrain_of_up hm hup m).trans (congrArg _ (retrainUp_of_wrong_peer hl hp))
  case falls =>
    refine execPortTrain_of_falls hm hup (Bool.eq_false_iff.mpr fun hs => ?_)
    obtain ⟨hl, hp⟩ := staysUp_iff.mp hs
    exact h.elim hl (· hp)
  case inSequence =>
    rw [takeUnit_of_in_sequence hi hq]
    exact ⟨rfl, rfl⟩

end Sys2Proof.Machine
end

section
/-! SUPPORT. Packets at their destination (R176, R302, R305, R312 to R318): what each type does once it has passed its checks, what a
channel's receiver acknowledges, and what the local slice takes of a kind-0x6 stream. -/
namespace Sys2Proof.Machine
open Sys2Proof

variable {s t : State} {n p r c i : Nat} {k : Packet}

/-! ### A packet that passes its checks (R305) -/

/-- A packet of a type arrives on a port that is up, is for this module, and is accepted for a partition's job from a rank. -/
structure Arrives (s t : State) (n ty p r : Nat) (k : Packet) : Prop where
  up : portUp (s.tport n) = true
  here : k.dest = s.trl.pos
  type : k.ty = ty
  accepted : acceptPkt s n k = (some p, t)
  sender : rankAt (t.job p) k.src = some r

theorem Arrives.withPacket {ty : Nat} (h : Arrives s t n ty p r k) (f : State → Nat → Nat → State) :
    withPacket s n ty k f = f t p r := by
  simp [Machine.withPacket, h.up, h.here, h.type, h.accepted, h.sender]

/-- The entry of a packet's channel in the image of its job's context. -/
abbrev packetColl (t : State) (p : Nat) (k : Packet) : List Nat := collOf t (jobKey t p) k.chan

/-! ### DATA (R284, R302, R312, R317) -/

theorem bodyOf_chan (k : Packet) : (bodyOf k).chan = k.chan := rfl

section data
variable (h : Arrives s t n 1 p r k) (hc : k.chan < 0xFFF0)
include h hc

theorem execDataPacket_of_channel (h0 : colType (packetColl t p k) = 0) :
    execDataPacket n k s = .next (channelData t p (bodyOf k)) := by
  simp only [execDataPacket, h.withPacket, bodyOf_chan, if_neg (Nat.not_le.mpr hc), h0]

theorem execDataPacket_of_stage (h1 : colType (packetColl t p k) = 1) :
    execDataPacket n k s = .next (stageData t p (packetColl t p k) (bodyOf k)) := by
  simp only [execDataPacket, h.withPacket, bodyOf_chan, if_neg (Nat.not_le.mpr hc), h1]

theorem execDataPacket_of_gathered (h34 : colType (packetColl t p k) = 3 ∨ colType (packetColl t p k) = 4) :
    execDataPacket n k s = .next (gatherData t p (packetColl t p k) (bodyOf k)) := by
  obtain h3 | h4 := h34
  · simp only [execDataPacket, h.withPacket, bodyOf_chan, if_neg (Nat.not_le.mpr hc), h3]
  · simp only [execDataPacket, h.withPacket, bodyOf_chan, if_neg (Nat.not_le.mpr hc), h4]

/-- No DATA packet belongs to a reduce-scatter, or to an entry of a type beyond all-reduce. -/
theorem execDataPacket_of_other (hty : colType (packetColl t p k) = 2 ∨ 4 < colType (packetColl t p k)) :
    execDataPacket n k s = .next t := by
  obtain h2 | h4 := hty
  · simp only [execDataPacket, h.withPacket, bodyOf_chan, if_neg (Nat.not_le.mpr hc), h2]
  · obtain ⟨j, hj⟩ : ∃ j, colType (packetColl t p k) = j + 5 := ⟨_, (Nat.sub_add_cancel h4).symm⟩
    simp only [execDataPacket, h.withPacket, bodyOf_chan, if_neg (Nat.not_le.mpr hc), hj]

end data

theorem channelData_of_slot {m : CoreCmd} (hs : channelSlot t p k.chan = some (c, i, m)) :
    let u := deliverAt t c i m (4096 * k.pidx + k.off) (k.body.take (k.body.length / 16 * 16))
    channelData t p k = if (u.core c).cmd = some m then ackTailed u c i m else u := by
  simp only [channelData, hs, beq_iff_eq]

theorem channelData_of_none (hs : channelSlot t p k.chan = none) : channelData t p k = t := by
  simp only [channelData, hs]

/-! ### What a channel's receiver acknowledges (R176, R317) -/

theorem ackTailed_of_acked {m : CoreCmd}
    (ht : tailedBytes ((t.core c).slot i) ((t.core c).region ((t.core c).slot i).task (stReg ((t.core c).slot i).word)) ≤
      ((t.core c).slot i).acked) : ackTailed t c i m = t := by
  simp [ackTailed, ht]

theorem ackTailed_of_tailed {m : CoreCmd} (hop : ((t.core c).slot i).op = .stIn) (hk : slotKind ((t.core c).slot i) = 5)
    (ht : ((t.core c).slot i).acked <
      tailedBytes ((t.core c).slot i) ((t.core c).region ((t.core c).slot i).task (stReg ((t.core c).slot i).word))) :
    let x := (t.core c).slot i
    let tail := tailedBytes x ((t.core c).region x.task (stReg x.word))
    let e := collOf t m.key (slotChan x)
    ackTailed t c i m = sendPkt (t.setCore c ((t.core c).setSlot i { x with acked := tail })) (cmdPart m) (colRank e (colPeer e))
      { ty := 3, chan := slotChan x, pidx := x.acked / 4096, aux := tail - x.acked } := by
  simp [ackTailed, hop, hk, Nat.not_le.mpr ht]

/-! ### REDUCE (R302, R314, R316) -/

/-- The block that a packet of a partial is of. -/
def partialBlock (t : State) (p : Nat) (k : Packet) : Nat := k.pidx / partialPkts (packetColl t p k)

/-- The packet's place in its partial. -/
def partialPlace (t : State) (p : Nat) (k : Packet) : Nat := k.pidx % partialPkts (packetColl t p k)

/-- The work of a packet's block. -/
def partialWork (t : State) (p : Nat) (k : Packet) : BlockWork := blockWork t p k.chan (partialBlock t p k)

section reduce
variable (h : Arrives s t n 2 p r k)
include h

theorem execReducePacket_of_new (hd : (partialWork t p k).drop.contains (r, k.aux % 65536) = false) :
    execReducePacket n k s = .next (blockTry (setWork t p k.chan (partialBlock t p k) { partialWork t p k with
      kids := putKid (partialWork t p k).kids r (k.contrib % 65536) (partialPlace t p k) (bodyOf k).body
      step := k.aux % 65536 }) p k.chan (partialBlock t p k)) :=
  congrArg Host.Outcome.next ((h.withPacket _).trans (if_neg (Bool.eq_false_iff.mp hd)))

variable (hd : (partialWork t p k).drop.contains (r, k.aux % 65536) = true)
include hd

theorem execReducePacket_of_resent
    (hl : 4096 * (partialPlace t p k + 1) < partialLen (packetColl t p k) (partialWork t p k)) :
    execReducePacket n k s = .next t :=
  congrArg Host.Outcome.next ((h.withPacket _).trans ((if_pos hd).trans (if_pos hl)))

theorem execReducePacket_of_resent_last
    (hl : partialLen (packetColl t p k) (partialWork t p k) ≤ 4096 * (partialPlace t p k + 1)) :
    let w := partialWork t p k
    let step := k.aux % 65536
    let u := setWork (dupDrop t p) p k.chan (partialBlock t p k) { w with drop := w.drop.erase (r, step) }
    execReducePacket n k s =
      .next (if w.kept.isNone && w.lastStep == step then ackDown u p k.chan (partialBlock t p k) [r] else u) :=
  congrArg Host.Outcome.next ((h.withPacket _).trans ((if_pos hd).trans (if_neg (Nat.not_lt.mpr hl))))

end reduce

/-! ### ACK (R176, R316) -/

/-- An acknowledgement is of a block where its channel has no entry of a point-to-point channel. -/
theorem not_point_to_point {e : List Nat} (he : colType e ≠ 0 ∨ e = []) : ¬(colType e = 0 ∧ e ≠ []) := by tauto

section ack
variable (h : Arrives s t n 3 p r k)
include h

theorem execAckPacket_of_channel (h0 : colType (packetColl t p k) = 0) (he : packetColl t p k ≠ []) :
    execAckPacket n k s = .next (channelAck t p k) := by
  simp [execAckPacket, h.withPacket, h0, he]

section block
variable (he : colType (packetColl t p k) ≠ 0 ∨ packetColl t p k = [])
include he

/-- R316: with its parent's acknowledgement a module lets go what it kept of a block, and acknowledges its children. -/
theorem execAckPacket_of_parent (hk : (blockWork t p k.chan k.pidx).kept.isSome = true)
    (hp : blockParent t p (packetColl t p k) k.pidx = some r) :
    let u := setWork t p k.chan k.pidx { blockWork t p k.chan k.pidx with kept := none }
    execAckPacket n k s = .next (blockTry
      (ackDown u p k.chan k.pidx (blockKids u p (packetColl t p k) k.pidx)) p k.chan k.pidx) := by
  simp [execAckPacket, h.withPacket, not_point_to_point he, Option.isSome_iff_ne_none.mp hk, hp]

theorem execAckPacket_of_no_parent (hp : (blockWork t p k.chan k.pidx).kept = none ∨
    blockParent t p (packetColl t p k) k.pidx ≠ some r) : execAckPacket n k s = .next t := by
  obtain hk | hk := hp
  · simp [execAckPacket, h.withPacket, not_point_to_point he, hk]
  · simp [execAckPacket, h.withPacket, not_point_to_point he, hk]

end block
end ack

theorem channelAck_of_slot (hs : senderSlot t p k.chan = some (c, i)) :
    let x := (t.core c).slot i
    channelAck t p k = t.setCore c ((t.core c).setSlot i { x with acked := min x.issued (x.acked + k.aux % 2 ^ 32) }) := by
  simp only [channelAck, hs, two32_eq]

theorem channelAck_of_none (hs : senderSlot t p k.chan = none) : channelAck t p k = t := by
  simp only [channelAck, hs]

/-! ### SCALAR and CREDIT (R314, R318) -/

section scalar
variable (h : Arrives s t n 5 p r k)
include h

theorem execScalarPacket_of_partial (h0 : k.pidx = 0) :
    execScalarPacket n k s = .next (scalarTry (setScalarWork t p k.chan { scalarOf t p k.chan with
      kids := Tbl.set (scalarOf t p k.chan).kids r (k.aux % 2 ^ 32) }) p k.chan) := by
  simp only [execScalarPacket, h.withPacket, if_pos h0, two32_eq]

theorem execScalarPacket_of_result (h0 : k.pidx ≠ 0) :
    execScalarPacket n k s = .next (scalarResult t p k.chan (k.aux % 2 ^ 32)) := by
  simp only [execScalarPacket, h.withPacket, if_neg h0, two32_eq]

end scalar

theorem execCreditPacket_of_arrives (h : Arrives s t n 6 p r k) : execCreditPacket n k s = .next (t.setJob p { t.job p with
    credit := Tbl.upd 0 (t.job p).credit k.chan (fun v => v + k.aux % 2 ^ 32) }) := by
  simp only [execCreditPacket, h.withPacket, two32_eq]

/-! ### LOCAL_CONTRIBUTION (R315 to R317) -/

/-- Where the next bytes of a kind-0x6 stream lie. -/
def localPos (c : Core) (x : Slot) : Nat := outPos x (c.region x.task (stReg x.word)) x.issued

/-- The word with bad parity among the next bytes of a kind-0x6 stream, where there is one. -/
def localBadWord (c : Core) (x : Slot) : Option Nat :=
  badWord c x.task (c.region x.task (stReg x.word)) (localPos c x) (wordsOf (packetLen x.issued x.begun))

/-- The state once the local slice has taken the next bytes of a kind-0x6 stream, in a cycle of the stream engine. -/
def localTaken (s : State) (c i : Nat) (m : CoreCmd) : State :=
  let co := s.core c
  let x := co.slot i
  let len := packetLen x.issued x.begun
  takeLocal (s.setCore c ((co.setSlot i { x with issued := x.issued + len }).busyCycle 3)) (cmdPart m) m (c, i, m.cmd)
    (slotChan x) (collOf s m.key (slotChan x)) x.issued (regionBytes co x.task (co.region x.task (stReg x.word)) (localPos co x) len)
    (x.issued + len == slotLen x)

section localSlice
variable {m : CoreCmd} (hcmd : (s.core c).cmd = some m) (ha : ((s.core c).slot i).active = true)
  (hop : ((s.core c).slot i).op = .stOut) (hk : slotKind ((s.core c).slot i) = 6) (hh : ((s.core c).slot i).halted = false)
  (hb : ((s.core c).slot i).issued < ((s.core c).slot i).begun)
include hcmd ha hop hk hh hb

theorem execLocalContribution_of_left (hin : streamIn (s.core c) ((s.core c).slot i) = false) :
    execLocalContribution c i s = .next (refusedStream s c i m (localPos (s.core c) ((s.core c).slot i))) := by
  simp [execLocalContribution, localPos, hcmd, ha, hop, hk, hh, Nat.not_le.mpr hb, hin]

variable (hin : streamIn (s.core c) ((s.core c).slot i) = true)
include hin

theorem execLocalContribution_of_held
    (hl : localHeld s (cmdPart m) (slotChan ((s.core c).slot i)) ((s.core c).slot i).issued
      (collOf s m.key (slotChan ((s.core c).slot i))) = true) :
    execLocalContribution c i s = .next (streamIdle s c m) := by
  simp [execLocalContribution, hcmd, ha, hop, hk, hh, Nat.not_le.mpr hb, hin, hl]

variable (hl : localHeld s (cmdPart m) (slotChan ((s.core c).slot i)) ((s.core c).slot i).issued
  (collOf s m.key (slotChan ((s.core c).slot i))) = false)
include hl

theorem execLocalContribution_of_good (hw : localBadWord (s.core c) ((s.core c).slot i) = none) :
    execLocalContribution c i s = .next (localTaken s c i m) := by
  rw [localBadWord, localPos] at hw
  simp [execLocalContribution, localTaken, localPos, hcmd, ha, hop, hk, hh, Nat.not_le.mpr hb, hin, hl, hw]

theorem execLocalContribution_of_parity {w : Nat} (hw : localBadWord (s.core c) ((s.core c).slot i) = some w) :
    execLocalContribution c i s = .next (parityAbort s c m 2 w w) := by
  rw [localBadWord, localPos] at hw
  simp [execLocalContribution, hcmd, ha, hop, hk, hh, Nat.not_le.mpr hb, hin, hl, hw]

end localSlice

/-- Settles O46: each type of packet by the collective it names, the receiver's acknowledgement by its tail, and the local slice by the
window, the room and the parity of its stream. -/
theorem packets : Obligations.Packets := by
  unfold Obligations.Packets
  intro s t n p r c i k ok e y bs
  have arrives {ty : Nat} : ok ty → Arrives s t n ty p r k := fun ⟨hup, hd, hty, hacc, hr⟩ => ⟨hup, hd, hty, hacc, hr⟩
  refine ⟨fun h hc => ⟨fun m h0 hs => ?slot, fun h0 hs => ?noSlot, execDataPacket_of_stage (arrives h) hc,
      execDataPacket_of_gathered (arrives h) hc, execDataPacket_of_other (arrives h) hc⟩,
    fun hop hk => ⟨ackTailed_of_acked, ackTailed_of_tailed hop hk⟩,
    fun h => ⟨execReducePacket_of_new (arrives h), execReducePacket_of_resent (arrives h),
      execReducePacket_of_resent_last (arrives h)⟩,
    fun h => ⟨fun h0 he => ⟨fun hs => ?sender, fun hs => ?noSender⟩, execAckPacket_of_parent (arrives h),
      execAckPacket_of_no_parent (arrives h)⟩,
    fun h => execScalarPacket_of_partial (arrives h), fun h => execScalarPacket_of_result (arrives h),
    fun h => execCreditPacket_of_arrives (arrives h), fun hcmd ha hop hk hh hb => ?localSlice⟩
  case slot => exact (execDataPacket_of_channel (arrives h) hc h0).trans (congrArg _ (channelData_of_slot hs))
  case noSlot => exact (execDataPacket_of_channel (arrives h) hc h0).trans (congrArg _ (channelData_of_none hs))
  case sender => exact (execAckPacket_of_channel (arrives h) h0 he).trans (congrArg _ (channelAck_of_slot hs))
  case noSender => exact (execAckPacket_of_channel (arrives h) h0 he).trans (congrArg _ (channelAck_of_none hs))
  case localSlice =>
    have hm := cmd_of hcmd
    exact ⟨fun hin => ⟨execLocalContribution_of_held hm ha hop hk hh hb hin, fun hl =>
        ⟨execLocalContribution_of_good hm ha hop hk hh hb hin hl,
          fun w => execLocalContribution_of_parity hm ha hop hk hh hb hin hl⟩⟩,
      execLocalContribution_of_left hm ha hop hk hh hb⟩

end Sys2Proof.Machine
end

section
/-! SUPPORT. The queue of waiting commands: what a step takes from it, and that no command touches it. -/
namespace Sys2Proof.Machine
open Sys2Proof

/-- A step runs the front command with the queue's rest. -/
theorem step_of_cons (c : Instr) (l : List Instr) (s : State) :
    step { s with pending := c :: l } = exec c { s with pending := l } := by
  simp only [step]

/-- With no command waiting a step leaves the state. -/
theorem step_of_empty {s : State} (h : s.pending = []) : step s = .next s := by
  simp only [step, h]

/-- A command's answer has the same commands waiting. -/
theorem exec_pending {c : Instr} {s t : State} (h : exec c s = .next t) : t.pending = s.pending :=
  congrArg Prod.fst (exec_ident h)

/-- Settles O1, by the equation of a step with a command waiting. -/
theorem stepRunsFront : Obligations.StepRunsFront := by
  unfold Obligations.StepRunsFront
  exact step_of_cons

/-- Settles O2, by the equation of a step with none. -/
theorem emptyQueueIdles : Obligations.EmptyQueueIdles := by
  unfold Obligations.EmptyQueueIdles
  exact fun s => step_of_empty

/-- Settles O4: the queue is part of what every arm of `exec` keeps. -/
theorem commandsKeepTheQueue : Obligations.CommandsKeepTheQueue := by
  unfold Obligations.CommandsKeepTheQueue
  exact fun c s t => exec_pending

end Sys2Proof.Machine
end

section
/-! SUPPORT. The state and events of a context (R355, R373) and what a completion writes and changes (R360, R369 to R371). -/
namespace Sys2Proof.Machine
open Sys2Proof

/-- What each step of a fold keeps, the fold keeps. -/
theorem foldl_keeps {α β : Type} {f : State → α → State} (g : State → β) (hf : ∀ t x, g (f t x) = g t) (xs : List α) (t : State) :
    g (xs.foldl f t) = g t :=
  List.foldlRecOn xs f (motive := fun u => g u = g t) rfl fun u hu x _ => (hf u x).trans hu

/-! ### Bytes of a memory -/

theorem Mem.wrN_append (xs ys : Bytes) (m : Mem) (a : Nat) :
    Mem.wrN m a (xs ++ ys) = Mem.wrN (Mem.wrN m a xs) (a + xs.length) ys := by
  induction xs generalizing m a with
  | nil => rfl
  | cons x xs ih =>
    rw [List.cons_append, Mem.wrN, Mem.wrN, ih, List.length_cons, Nat.add_assoc, Nat.add_comm 1]

theorem Mem.rdN_congr {m m' : Mem} {a n : Nat} (h : ∀ b, a ≤ b → b < a + n → Mem.rd m b = Mem.rd m' b) :
    Mem.rdN m a n = Mem.rdN m' a n := by
  induction n generalizing a with
  | zero => rfl
  | succ n ih =>
    rw [Mem.rdN, Mem.rdN, h a (by omega) (by omega), ih fun b h1 h2 => h b (by omega) (by omega)]

/-- Of two strings written one after the other the first is read back. -/
theorem Mem.rdN_wrN_append_left (xs ys : Bytes) (m : Mem) (a : Nat) : Mem.rdN (Mem.wrN m a (xs ++ ys)) a xs.length = xs := by
  calc Mem.rdN (Mem.wrN m a (xs ++ ys)) a xs.length
      = Mem.rdN (Mem.wrN m a xs) a xs.length := by
        rw [Mem.wrN_append]
        exact Mem.rdN_congr fun b _ hb => Mem.rd_wrN_out ys _ (.inl hb)
    _ = xs := Mem.rdN_wrN xs m a

/-- And the second behind it. -/
theorem Mem.rdN_wrN_append_right (xs ys : Bytes) (m : Mem) (a : Nat) :
    Mem.rdN (Mem.wrN m a (xs ++ ys)) (a + xs.length) ys.length = ys := by
  rw [Mem.wrN_append, Mem.rdN_wrN]

@[simp] theorem natBe_length (n v : Nat) : (natBe n v).length = n := by simp [natBe]

theorem State.hostWrite_host (s : State) (n a : Nat) (bs : Bytes) :
    Tbl.get [] (s.hostWrite n a bs).mems.host n = Mem.wrN (Tbl.get [] s.mems.host n) a bs := by
  simp [State.hostWrite, Tbl.upd]

/-! ### The state and the events of a context (R355, R373) -/

section
variable (s : State) (k : Nat)

/-- An event of a context changes its event bits, and sends interrupts. -/
theorem ctxEvent_eq (b : Nat) : ∃ e l, ctxEvent s k b = { s.setCtx k { s.ctx k with event := e } with irqs := l } ∨ ctxEvent s k b = s := by
  unfold ctxEvent sendIrq
  by_cases h : bit (s.ctx k).event b = true
  · exact ⟨0, [], .inr (if_pos h)⟩
  · simp only [if_neg h]
    split
    · split <;> exact ⟨_, _, .inl rfl⟩
    · exact ⟨_, _, .inl rfl⟩

theorem ctxEvent_ctx (b : Nat) : ∃ e, (ctxEvent s k b).ctx k = { s.ctx k with event := e } := by
  obtain ⟨e, l, h | h⟩ := ctxEvent_eq s k b
  · exact ⟨e, by rw [h]; exact State.setCtx_ctx ..⟩
  · exact ⟨(s.ctx k).event, by rw [h]⟩

theorem ctxEvent_ctx_ne {j : Nat} (b : Nat) (hj : j ≠ k) : (ctxEvent s k b).ctx j = s.ctx j := by
  obtain ⟨e, l, h | h⟩ := ctxEvent_eq s k b <;> rw [h]
  exact State.setCtx_ctx_ne s k _ hj

@[simp] theorem ctxEvent_mems (b : Nat) : (ctxEvent s k b).mems = s.mems := by
  obtain ⟨e, l, h | h⟩ := ctxEvent_eq s k b <;> rw [h]
  rfl

/-- A context moved to a state is in it; of the rest only its event bits can change. -/
theorem setCtxState_ctx (st : CtxState) : ∃ e, (setCtxState s k st).ctx k = { s.ctx k with state := st, event := e } := by
  unfold setCtxState
  dsimp only
  split
  next h => exact ⟨(s.ctx k).event, by rw [← h]⟩
  next =>
    obtain ⟨e, he⟩ := ctxEvent_ctx (s.setCtx k { s.ctx k with state := st }) k 4
    exact ⟨e, by rw [he, State.setCtx_ctx]⟩

theorem setCtxState_ctx_ne {j : Nat} (st : CtxState) (hj : j ≠ k) : (setCtxState s k st).ctx j = s.ctx j := by
  unfold setCtxState
  dsimp only
  split
  · rfl
  · rw [ctxEvent_ctx_ne _ _ _ hj, State.setCtx_ctx_ne _ _ _ hj]

@[simp] theorem setCtxState_mems (st : CtxState) : (setCtxState s k st).mems = s.mems := by
  unfold setCtxState
  dsimp only
  split
  · rfl
  · rw [ctxEvent_mems, State.setCtx_mems]

end

/-! ### What is settled and charged with a completion (R389, R403, R407) -/

theorem settleGrant_eq (s : State) (k id : Nat) : settleGrant s k id = { s with alm := (settleGrant s k id).alm } := by
  unfold settleGrant
  dsimp only
  split <;> rfl

theorem meter_eq (s : State) (k : Nat) (f : UseCtr → UseCtr) : meter s k f = { s with gth := (meter s k f).gth } := by
  unfold meter setUse
  dsimp only
  split <;> rfl

theorem chargeEst_eq (s : State) (k : Nat) (m : Cmd) (b : Bool) : chargeEst s k m b = { s with gth := (chargeEst s k m b).gth } := by
  unfold chargeEst useEnergy
  split
  · rfl
  · exact meter_eq ..

theorem endEligible_eq (s : State) (k : Nat) (m : Cmd) : endEligible s k m = { s with alm := (endEligible s k m).alm } := by
  unfold endEligible notEligible
  repeat' split
  all_goals rfl

/-- The state in which a command's grant is settled and its energy charged. -/
def settledFor (s : State) (k id : Nat) (m : Cmd) (x : Compl) : State :=
  let t := settleGrant s k id
  endEligible (chargeEst { t with alm := { t.alm with dueQ := t.alm.dueQ.filter (· != (k, id)) } } k m x.notStarted) k m

theorem settledFor_eq (s : State) (k id : Nat) (m : Cmd) (x : Compl) :
    settledFor s k id m x = { s with gth := (settledFor s k id m x).gth, alm := (settledFor s k id m x).alm } := by
  unfold settledFor
  dsimp only
  rw [endEligible_eq, chargeEst_eq, settleGrant_eq]

section
variable {s : State} {k id : Nat} {m : Cmd} (x : Compl)

theorem settledFor_mems : (settledFor s k id m x).mems = s.mems := by rw [settledFor_eq]

theorem settledFor_hostWrite_mems (n a : Nat) (bs : Bytes) :
    ((settledFor s k id m x).hostWrite n a bs).mems = (s.hostWrite n a bs).mems := by
  rw [settledFor_eq]; rfl

/-! ### The record (R360, R369) -/

@[simp] theorem recordHead_length (m : Cmd) (phase : Bool) (x : Compl) : (recordHead m phase x).length = 24 := by simp [recordHead]

@[simp] theorem recordTag_length (q : Queue) (keyed : Bool) (key : Nat) (head : Bytes) : (recordTag q keyed key head).length = 8 := by
  simp [recordTag]

theorem cqPush_tail (q : Queue) : (cqPush q).tail = if q.tail + 1 = cqSize q then 0 else q.tail + 1 := by
  unfold cqPush
  split <;> rfl

theorem cqPush_phase (q : Queue) : (cqPush q).phase = if q.tail + 1 = cqSize q then !q.phase else q.phase := by
  unfold cqPush
  split <;> rfl

theorem cqPush_cmds (q : Queue) : (cqPush q).cmds = q.cmds := by
  unfold cqPush
  split <;> rfl

/-- The queue without one of its outstanding commands. -/
def withoutCmd (q : Queue) (id : Nat) : Queue := { q with cmds := q.cmds.filter (fun n => n.id != id) }

/-- The 32 bytes that the completion of a command of a context writes. -/
def recordOf (c : Ctx) (m : Cmd) (x : Compl) : Bytes :=
  recordHead m c.q.phase x ++ recordTag c.q c.keyed c.key (recordHead m c.q.phase x)

@[simp] theorem recordOf_length (c : Ctx) (m : Cmd) (x : Compl) : (recordOf c m x).length = 32 := by simp [recordOf]

/-- The context behind the record of a command. -/
def recordedCtx (c : Ctx) (m : Cmd) (id : Nat) : Ctx :=
  { c with q := cqPush (withoutCmd c.q id), flags := orFlags c.flags m.flags
           stage := if (m.desc.opcode == 0x11 || m.desc.opcode == 0x12) && m.phase == .issued
             then { c.stage with run := false, ask := .waiting } else c.stage }

/-- The event of a completed command that asks for an interrupt. -/
def completionEvent (s : State) (k : Nat) (m : Cmd) : State := if m.desc.irq then ctxEvent s k 0 else s

/-- A status of R371 stops an open context. -/
def stoppedBy (s : State) (k status : Nat) (st : CtxState) : State :=
  if stops status && (st == .open || st == .stopped) then
    setCtxState (s.setCtx k { s.ctx k with stopStat := status }) k .stopped
  else s

theorem completionEvent_mems : (completionEvent s k m).mems = s.mems := by
  unfold completionEvent
  split
  · exact ctxEvent_mems ..
  · rfl

theorem completionEvent_ctx : ∃ e, (completionEvent s k m).ctx k = { s.ctx k with event := e } := by
  unfold completionEvent
  split
  · exact ctxEvent_ctx ..
  · exact ⟨(s.ctx k).event, rfl⟩

theorem stoppedBy_mems (status : Nat) (st : CtxState) : (stoppedBy s k status st).mems = s.mems := by
  unfold stoppedBy
  split
  · rw [setCtxState_mems, State.setCtx_mems]
  · rfl

theorem stoppedBy_ctx (status : Nat) : ∃ e z, (stoppedBy s k status (s.ctx k).state).ctx k = { s.ctx k with
    event := e, stopStat := z
    state := if stops status = true ∧ ((s.ctx k).state = .open ∨ (s.ctx k).state = .stopped) then .stopped else (s.ctx k).state } := by
  unfold stoppedBy
  by_cases h : stops status = true ∧ ((s.ctx k).state = .open ∨ (s.ctx k).state = .stopped)
  · obtain ⟨e, he⟩ := setCtxState_ctx (s.setCtx k { s.ctx k with stopStat := status }) k .stopped
    refine ⟨e, status, ?_⟩
    rw [if_pos (by simpa using h), if_pos h, he, State.setCtx_ctx]
  · refine ⟨(s.ctx k).event, (s.ctx k).stopStat, ?_⟩
    rw [if_neg (by simpa using h), if_neg h]

section
variable (hm : (s.ctx k).q.cmds.find? (fun m => m.id == id) = some m)
include hm

/-- The completion of an outstanding command: no record in a context that a reset tears down, or while a warm restart stops it (R351, R446). -/
theorem complete_of_found : complete s k id x =
    if (s.ctx k).td.any Teardown.reset || s.boot.warming then
      (settledFor s k id m x).setCtx k { s.ctx k with q := withoutCmd (s.ctx k).q id }
    else stoppedBy (completionEvent (((settledFor s k id m x).hostWrite (s.entry (keyPart k)).port
        ((s.ctx k).q.cqBase + 32 * (s.ctx k).q.tail) (recordOf (s.ctx k) m x)).setCtx k (recordedCtx (s.ctx k) m id)) k m)
        k x.status (s.ctx k).state := by
  have hctx : State.ctx { settleGrant s k id with alm :=
      { (settleGrant s k id).alm with dueQ := (settleGrant s k id).alm.dueQ.filter (· != (k, id)) } } k = s.ctx k := by
    rw [settleGrant_eq]; rfl
  have hboot : (settledFor s k id m x).boot = s.boot := by rw [settledFor_eq]
  have hentry : (settledFor s k id m x).entry (keyPart k) = s.entry (keyPart k) := by rw [settledFor_eq]; rfl
  rw [← hboot, ← hentry]
  simp only [complete, hctx, hm]
  rfl

theorem complete_of_silent (h : ((s.ctx k).td.any Teardown.reset || s.boot.warming) = true) :
    complete s k id x = (settledFor s k id m x).setCtx k { s.ctx k with q := withoutCmd (s.ctx k).q id } :=
  (complete_of_found x hm).trans (if_pos h)

section recorded
variable (h : ((s.ctx k).td.any Teardown.reset || s.boot.warming) = false)
include h

theorem complete_mems : (complete s k id x).mems =
    (s.hostWrite (s.entry (keyPart k)).port ((s.ctx k).q.cqBase + 32 * (s.ctx k).q.tail) (recordOf (s.ctx k) m x)).mems := by
  rw [complete_of_found x hm, if_neg (by simp [h]), stoppedBy_mems, completionEvent_mems, State.setCtx_mems, settledFor_hostWrite_mems]

theorem complete_ctx : ∃ e z, (complete s k id x).ctx k = { recordedCtx (s.ctx k) m id with
    event := e, stopStat := z
    state := if stops x.status = true ∧ ((s.ctx k).state = .open ∨ (s.ctx k).state = .stopped) then .stopped else (s.ctx k).state } := by
  rw [complete_of_found x hm, if_neg (by simp [h])]
  generalize (settledFor s k id m x).hostWrite _ _ _ = t
  obtain ⟨e, he⟩ := completionEvent_ctx (s := t.setCtx k (recordedCtx (s.ctx k) m id)) (k := k) (m := m)
  rw [State.setCtx_ctx] at he
  have hst : (s.ctx k).state = ((completionEvent (t.setCtx k (recordedCtx (s.ctx k) m id)) k m).ctx k).state := by rw [he]; rfl
  rw [hst]
  obtain ⟨e', z, hz⟩ := stoppedBy_ctx (s := completionEvent (t.setCtx k (recordedCtx (s.ctx k) m id)) k m) (k := k) x.status
  exact ⟨e', z, by rw [hz, he]⟩

end recorded

end

end

/-- Settles O40: an outstanding command's completion, without a record or with its 32 bytes at the ring's tail. -/
theorem completions : Obligations.Completions := by
  unfold Obligations.Completions
  intro s k id x m c hm u a port head silent
  refine ⟨fun h => ?silent, fun h => ?recorded⟩
  case silent =>
    simp only [u, complete_of_silent x hm h]
    exact ⟨settledFor_mems x, State.setCtx_ctx ..⟩
  case recorded =>
    have hmem : Tbl.get [] u.mems.host port = Mem.wrN (Tbl.get [] s.mems.host port) a (recordOf c m x) := by
      simp only [u, complete_mems x hm h]
      exact State.hostWrite_host ..
    have hhead : head.length = 24 := recordHead_length ..
    have htag : (recordTag c.q c.keyed c.key head).length = 8 := recordTag_length ..
    obtain ⟨e, z, hctx⟩ := complete_ctx x hm h
    refine ⟨?_, ?_, fun b hb => ?_, ?_, ?_, ?_, ?_, ?_⟩
    · rw [hmem, ← hhead]
      exact Mem.rdN_wrN_append_left ..
    · rw [hmem, ← hhead, ← htag]
      exact Mem.rdN_wrN_append_right ..
    · rw [hmem, Mem.rd_wrN_out _ _ (by rwa [recordOf_length])]
    all_goals simp only [u, hctx, recordedCtx]
    · exact cqPush_tail _
    · exact cqPush_phase _
    · exact cqPush_cmds _
    · rfl
    · rfl

end Sys2Proof.Machine
end

section
/-! SUPPORT. Context states (R355, R356, R390): what OPEN leaves, and what a context that is left reads. -/
namespace Sys2Proof.Machine
open Sys2Proof

variable {s : State} {fn : Fn} {k port v : Nat}

/-! ### Usage records at OPEN and at the end (R390, R391) -/

theorem usageOpen_eq (s : State) (k tenant : Nat) : usageOpen s k tenant = { s with gth := (usageOpen s k tenant).gth } := by
  unfold usageOpen
  dsimp only
  split <;> rfl

/-- The opening of a usage interval changes the records and their counts alone. -/
theorem usageOpen_gth (s : State) (k tenant : Nat) : { (usageOpen s k tenant).gth with
    store := s.gth.store, seq := s.gth.seq, opens := s.gth.opens, uses := s.gth.uses, skips := s.gth.skips } = s.gth := by
  unfold usageOpen
  dsimp only
  split <;> rfl

/-- The usage interval that an OPEN begins, before its record. -/
def withInterval (s : State) (k tenant : Nat) : State :=
  setUse { s with gth := { s.gth with opens := s.gth.opens + 1 } } k
    { isOpen := true, serial := s.gth.opens + 1, tenant := tenant, t0 := s.alm.time }

theorem unreserved_congr {t : State} (h : t.gth.store = s.gth.store) : unreserved t = unreserved s := by
  unfold unreserved
  rw [h]

theorem storeFull_congr {t : State} (h : t.gth.store = s.gth.store) : storeFull t = storeFull s := by
  unfold storeFull
  rw [unreserved_congr h]

theorem storeFull_withInterval (s : State) (k tenant : Nat) : storeFull (withInterval s k tenant) = storeFull s :=
  storeFull_congr (by simp only [withInterval, setUse])

theorem usageOpen_of_room {tenant : Nat} (hf : storeFull s = false) :
    usageOpen s k tenant = useEmit (withInterval s k tenant) k 1 0 s.alm.time s.alm.time false := by
  have h := storeFull_withInterval s k tenant
  rw [hf] at h
  unfold withInterval at h ⊢
  simp only [usageOpen, h]
  rfl

theorem usageOpen_of_full {tenant : Nat} (hf : storeFull s = true) :
    usageOpen s k tenant = skipRecord (withInterval s k tenant) k := by
  have h := storeFull_withInterval s k tenant
  rw [hf] at h
  unfold withInterval at h ⊢
  simp only [usageOpen, h]
  rfl

theorem useEmit_store_length {kind flags t1 t2 : Nat} {stepped : Bool} (hl : s.gth.store.length < 4096) :
    (useEmit s k kind flags t1 t2 stepped).gth.store.length = s.gth.store.length + 1 := by simp [useEmit, setUse, hl]

theorem usageOpen_store_of_room {tenant : Nat} (hf : storeFull s = false) (hl : s.gth.store.length < 4096) :
    (usageOpen s k tenant).gth.store.length = s.gth.store.length + 1 := by
  rw [usageOpen_of_room hf]
  exact useEmit_store_length (s := withInterval s k tenant) hl

theorem usageOpen_store_of_full {tenant : Nat} (hf : storeFull s = true) : (usageOpen s k tenant).gth.store = s.gth.store := by
  rw [usageOpen_of_full hf]
  rfl

theorem usageClose_eq (s : State) (k flags : Nat) : usageClose s k flags = { s with gth := (usageClose s k flags).gth } := by
  unfold usageClose
  split <;> rfl

@[simp] theorem usageClose_ctx (s : State) (k flags j : Nat) : (usageClose s k flags).ctx j = s.ctx j := by
  rw [usageClose_eq, State.ctx, State.ctx]

/-! ### OPEN (R355) -/

/-- Moving a context to a state changes contexts and interrupts alone. -/
theorem setCtxState_eq (s : State) (k : Nat) (st : CtxState) :
    ∃ t l, setCtxState s k st = { s with parts := { s.parts with ctxs := t }, irqs := l } := by
  unfold setCtxState
  dsimp only
  split
  · exact ⟨_, _, rfl⟩
  · obtain ⟨e, l, h | h⟩ := ctxEvent_eq (s.setCtx k { s.ctx k with state := st }) k 4 <;> rw [h] <;> exact ⟨_, _, rfl⟩

/-- The context that OPEN finds CLOSED, as it opens it for a VF (R355). -/
def openedCtx (c : Ctx) (v : Nat) : Ctx :=
  { c with vf := v, q := freshQueue c.q, fltValid := false, fltCause := 0, fltCore := 0, fltCmd := 0, runNs := 0
           keyed := false, key := 0, cut := [], td := none, opening := c.opening + 1
           stage := { step := shownStep c.stage, entry := shownEntry c.stage, idleNs := c.stage.idleNs } }

/-- The state with that context OPEN. -/
def withOpened (s : State) (k v : Nat) : State := setCtxState (s.setCtx k (openedCtx (s.ctx k) v)) k .open

theorem execOpen_of_switching (hw : slotSwitching s (keyPart k) = true) : execOpen fn k s = .next s := by
  cases fn with
  | mgmt port => rfl
  | vf port v => simp [execOpen, hw]

theorem execOpen_of_closed (he : ctxExists s k = true) (hv : vfOfPart s (.vf port v) (keyPart k) = true) (hc : (s.ctx k).state = .closed)
    (hs : sqOk (s.ctx k).q = true) (hq : cqOk (s.ctx k).q = true) (hw : slotSwitching s (keyPart k) = false) :
    execOpen (.vf port v) k s = .next (usageOpen (withOpened s k v) k (s.ctx k).tenant) := by
  simp [execOpen, he, hv, hc, hs, hq, hw, withOpened, openedCtx]

theorem withOpened_eq (s : State) (k v : Nat) :
    ∃ t l, withOpened s k v = { s with parts := { s.parts with ctxs := t }, irqs := l } := by
  obtain ⟨t, l, h⟩ := setCtxState_eq (s.setCtx k (openedCtx (s.ctx k) v)) k .open
  refine ⟨t, l, ?_⟩
  rw [withOpened, h]
  rfl

theorem withOpened_gth (s : State) (k v : Nat) : (withOpened s k v).gth = s.gth := by
  obtain ⟨t, l, h⟩ := withOpened_eq s k v
  rw [h]

theorem withOpened_ctx (s : State) (k v : Nat) : ∃ e, (withOpened s k v).ctx k = { openedCtx (s.ctx k) v with state := .open, event := e } := by
  obtain ⟨e, he⟩ := setCtxState_ctx (s.setCtx k (openedCtx (s.ctx k) v)) k .open
  exact ⟨e, by rw [withOpened, he, State.setCtx_ctx]⟩

theorem withOpened_ctx_ne {j : Nat} (hj : j ≠ k) : (withOpened s k v).ctx j = s.ctx j := by
  rw [withOpened, setCtxState_ctx_ne _ _ _ hj, State.setCtx_ctx_ne _ _ _ hj]

@[simp] theorem usageOpen_ctx (s : State) (k tenant j : Nat) : (usageOpen s k tenant).ctx j = s.ctx j := by
  rw [usageOpen_eq, State.ctx, State.ctx]

/-! ### RESUME, FLUSH, TEARDOWN, CLOSE and the end of a teardown (R355, R356) -/

theorem execResume_of_stopped (ho : owns s fn k = true) (hc : (s.ctx k).state = .stopped) :
    execResume fn k s = .next (setCtxState s k .open) := by simp [execResume, ho, hc]

theorem execFlush_of_stopped (ho : owns s fn k = true) (hc : (s.ctx k).state = .stopped) :
    execFlush fn k s = .next (endCmds (cutRest s k 0x0A) k 0x0A (fun m => m.phase != CmdPhase.issued)) := by
  simp [execFlush, ho, hc, stCancelled]

theorem execTeardown_of_owner (he : ctxExists s k = true) (hc : (s.ctx k).state = .open ∨ (s.ctx k).state = .stopped)
    (ho : owns s fn k = true) : execTeardown fn k s = .next (teardown s k 0x0A 0 0 0 false) := by
  have hst : ((s.ctx k).state == .open || (s.ctx k).state == .stopped) = true := by simpa using hc
  simp [execTeardown, he, hst, ho, stCancelled]

theorem owns_mgmt (s : State) (n k : Nat) : owns s (.mgmt n) k = false := by simp [owns, vfOfPart, partOfFn]

theorem execTeardown_of_mgmt (he : ctxExists s k = true) (hc : (s.ctx k).state = .open ∨ (s.ctx k).state = .stopped)
    (hg : mgmtOfPart s (.mgmt port) (keyPart k) = true) : execTeardown (.mgmt port) k s =
      .next (tdiError (teardown s k 0x0B 6 0 0 true) (s.entry (keyPart k)).port (s.ctx k).vf) := by
  have hst : ((s.ctx k).state == .open || (s.ctx k).state == .stopped) = true := by simpa using hc
  simp [execTeardown, he, hst, owns_mgmt, hg, stAborted]

theorem execClose_of_idle (ho : owns s fn k = true)
    (hc : ((s.ctx k).state = .open ∨ (s.ctx k).state = .stopped) ∧ (s.ctx k).q.cmds = [] ∧ unfetched (s.ctx k).q = 0 ∨
      (s.ctx k).state = .faulted) : execClose fn k s = .next (leaveCtx s k .closed 0) := by
  simp only [execClose, ho, Bool.true_and]
  rw [if_pos]
  simpa [and_assoc] using hc

section teardownEnd
variable {t : Teardown} (ht : (s.ctx k).td = some t) (hc : (s.ctx k).state = .tearingDown) (hq : (s.ctx k).q.cmds = [])
  (hu : ((s.upd (keyPart k)).cmd.map Prod.fst == some k) = false)
include ht hc hq hu

theorem execTeardownEnd_of_fetched (hr : t.reset = false) (hf : unfetched (s.ctx k).q = 0) :
    execTeardownEnd k s = .next (leaveCtx s k (if t.fault then .faulted else .closed) (if t.fault then 4 else 0)) := by
  simp only [execTeardownEnd, ht, hc, hq, hu, hr, hf]
  rfl

theorem execTeardownEnd_of_reset (hr : t.reset = true) : execTeardownEnd k s = .next (endContext s k 8) := by
  simp only [execTeardownEnd, ht, hc, hq, hu, hr]
  rfl

end teardownEnd

/-- A context that is left has no image and no command key (R355, R374, R390). -/
theorem leaveCtx_ctx (s : State) (k : Nat) (st : CtxState) (flags : Nat) :
    ((leaveCtx s k st flags).ctx k).state = st ∧ ((leaveCtx s k st flags).ctx k).image = none ∧
      ((leaveCtx s k st flags).ctx k).keyed = false := by
  unfold leaveCtx
  dsimp only
  generalize hu : usageClose (unloadImage (dropSets s k) k) k flags = u
  have himg : (u.ctx k).image = none := by rw [← hu, usageClose_ctx]; exact unloadImage_image ..
  obtain ⟨e, he⟩ := setCtxState_ctx (u.setCtx k { u.ctx k with keyed := false, key := 0, td := none, cut := [] }) k st
  rw [he, State.setCtx_ctx]
  exact ⟨rfl, himg, rfl⟩

/-- Settles O38: OPEN by its frame, then the writes of PT_CTX_CTL and the end of a teardown, each by its lemma above. -/
theorem contextStates : Obligations.ContextStates := by
  unfold Obligations.ContextStates
  intro s port v k c fn
  refine ⟨execOpen_of_switching (s := s) (fn := fn) (k := k), fun he hv hc hs hq hw => ⟨_, execOpen_of_closed he hv hc hs hq hw, ?opened⟩,
    fun ho hc => ⟨execResume_of_stopped ho hc, ?resumed, execFlush_of_stopped ho hc⟩,
    fun he hc => ⟨execTeardown_of_owner he hc, execTeardown_of_mgmt he hc⟩,
    fun ho hc => ⟨_, execClose_of_idle ho hc, rfl, leaveCtx_ctx s k .closed 0⟩,
    fun t ht hc hq hu => ⟨fun hr hf => ⟨_, execTeardownEnd_of_fetched ht hc hq hu hr hf, rfl, ?left⟩,
      fun hr => ⟨_, execTeardownEnd_of_reset ht hc hq hu hr, rfl⟩⟩⟩
  case resumed =>
    obtain ⟨e, he⟩ := setCtxState_ctx s k .open
    rw [he]
  case left =>
    obtain ⟨hst, himg, _⟩ := leaveCtx_ctx s k (if t.fault then .faulted else .closed) (if t.fault then 4 else 0)
    exact ⟨hst, himg⟩
  case opened =>
    obtain ⟨e, hopened⟩ := withOpened_ctx s k v
    obtain ⟨l, irqs, heq⟩ := withOpened_eq s k v
    have hgth := withOpened_gth s k v
    simp only [usageOpen_ctx, hopened]
    refine ⟨trivial, rfl, rfl, rfl, rfl, rfl, fun hf hl => ?_, fun hf => ?_, ?_, ?_, fun j hj => withOpened_ctx_ne hj⟩
    · rw [usageOpen_store_of_room (by rwa [storeFull_congr (congrArg Gatehouse.store hgth)]) (by rw [hgth]; exact hl), hgth]
    · rw [usageOpen_store_of_full (by rwa [storeFull_congr (congrArg Gatehouse.store hgth)]), hgth]
    · rw [usageOpen_eq, heq]
    · have h := usageOpen_gth (withOpened s k v) k (s.ctx k).tenant
      rwa [hgth] at h

end Sys2Proof.Machine
end

section
/-! SUPPORT. Queues (R357 to R362, R364, R368, R373): doorbells and heads, what a fetch of a context and of a management queue does, the
event mask and the watchdog. -/
namespace Sys2Proof.Machine
open Sys2Proof

variable {s : State} {fn : Fn} {q : QRef} {v k p : Nat} {b : Bytes}

/-! ### Doorbells and heads (R357, R358, R360) -/

theorem execSqDoorbell_of_ring (hr : mayRing s fn q = true) (hs : sqOk (hostQueue s q) = true)
    (hv : (hostQueue s q).sqFmt = 1 → v % 2 ^ 32 < 2 ^ (hostQueue s q).sqLog2) :
    execSqDoorbell fn q v s =
      .next (setHostQueue (nextRing s q).2 q (submit (hostQueue s q) (v % 2 ^ 32) (nextRing s q).1)) := by
  have hin : ¬ ((hostQueue s q).sqFmt = 1 && decide (2 ^ (hostQueue s q).sqLog2 ≤ v % two32)) = true := by
    rw [Bool.and_eq_true, decide_eq_true_eq, decide_eq_true_eq, two32_eq]
    exact fun ⟨h1, hle⟩ => absurd (hv h1) (Nat.not_lt.mpr hle)
  simp only [execSqDoorbell, hr, hs, if_neg hin]
  rfl

/-- A doorbell write changes what is submitted, and its runs, alone. -/
theorem submit_frame (x : Queue) (v no : Nat) : { submit x v no with sub := x.sub, subs := x.subs } = x := rfl

theorem execCqHeadWrite_of_run (hr : mayRing s fn q = true) (hv : v % 2 ^ 32 < cqSize (hostQueue s q))
    (hu : (v % 2 ^ 32 + cqSize (hostQueue s q) - (hostQueue s q).head) % cqSize (hostQueue s q) ≤ cqUnread (hostQueue s q)) :
    execCqHeadWrite fn q v s = .next (setHostQueue s q { hostQueue s q with head := v % 2 ^ 32 }) := by
  rw [← two32_eq] at hv hu ⊢
  simp only [execCqHeadWrite, hr, decide_eq_false (Nat.not_le.mpr hv), decide_eq_false (Nat.not_lt.mpr hu)]
  rfl

/-! ### A fetch of a context (R359 to R361) -/

theorem exec_fetch_ctx (data : Option Bytes) (next : Option Nat) :
    exec (.descriptorFetch (.ctx (k / 64) (k % 64)) data next) s = .next (fetchCtx s k data next) := by
  rw [exec, execDescriptorFetch, Nat.div_add_mod]

theorem fetchCtx_of_full (data : Option Bytes) (next : Option Nat) (h : cqFree (s.ctx k).q ≤ (s.ctx k).q.cmds.length) :
    fetchCtx s k data next = s := by
  simp [fetchCtx, h]

/-- The state that has counted a fetch of a partition. -/
def fetchCounted (s : State) (p : Nat) : State := s.setSched p { s.sched p with fetches := (s.sched p).fetches + 1 }

/-- The state in which a context has fetched one more descriptor. -/
def ctxFetched (s : State) (k addr : Nat) (d : Desc) : State :=
  (fetchCounted s (keyPart k)).setCtx k { s.ctx k with q := fetched (s.ctx k).q addr (s.sched (keyPart k)).fetches d }

section openContext
variable (hc : (s.ctx k).state = .open) (hw : s.boot.warming = false) (hu : unfetched (s.ctx k).q ≠ 0)
  (hf : (s.ctx k).q.cmds.length < cqFree (s.ctx k).q) (hcut : (s.ctx k).cut = [])
  (he : tdiOf s (s.entry (keyPart k)).port (s.ctx k).vf ≠ .error)
include hc hw hu hf hcut he

theorem fetchCtx_of_good {next a : Nat} (htd : (s.ctx k).td = none) (ha : nextDesc (s.ctx k).q next = some a)
    (hd : descFails (s.ctx k) b = none) :
    fetchCtx s k (some b) (some next) = ctxFetched s k a (parseDesc (s.ctx k).q.sqFmt b) := by
  simp [fetchCtx, hc, hw, hu, hf, hcut, htd, he, ha, hd, ctxFetched, fetchCounted, cutNext]

theorem fetchCtx_of_bad {next a st : Nat} (htd : (s.ctx k).td = none) (ha : nextDesc (s.ctx k).q next = some a)
    (hd : descFails (s.ctx k) b = some st) :
    fetchCtx s k (some b) (some next) = complete (ctxFetched s k a (parseDesc (s.ctx k).q.sqFmt b)) k (s.ctx k).q.fetch
      { status := st, notStarted := true } := by
  simp [fetchCtx, hc, hw, hu, hf, hcut, htd, he, ha, hd, ctxFetched, fetchCounted, cutNext]

theorem fetchCtx_of_no_data : fetchCtx s k none none =
    teardown (complete (ctxFetched s k (s.ctx k).q.lastDesc noDesc) k (s.ctx k).q.fetch
      { status := 0x09, result := (s.ctx k).q.fetch % 2 ^ 32, notStarted := true }) k 0x0B 4 0 0xFFFF true := by
  simp [fetchCtx, hc, hw, hu, hf, hcut, he, ctxFetched, fetchCounted, cutNext, stFetchError, stAborted, two32]

end openContext

/-! ### A fetch of a management queue (R361, R362) -/

theorem execDescriptorFetch_mgmt_of_good (hn : bit (hostMask s.var) v = true) (hs : sqOk (s.mq v) = true) (hq : cqOk (s.mq v) = true)
    (hu : unfetched (s.mq v) ≠ 0) (hf : (s.mq v).cmds.length < cqFree (s.mq v)) (hshut : s.shut = false) (hw : s.boot.warming = false)
    (hd : descOk (s.mq v).sqFmt false true b = true) {next a : Nat} (ha : nextDesc (s.mq v) next = some a) :
    execDescriptorFetch (.mgmt v) (some b) (some next) s =
      .next (({ s with gth := { s.gth with fetches := s.gth.fetches + 1 } }).setMq v
        (fetched (s.mq v) a s.gth.fetches (parseDesc (s.mq v).sqFmt b))) := by
  have hshut' (x : Queue) : (({ s with gth := { s.gth with fetches := s.gth.fetches + 1 } } : State).setMq v x).shut = false := hshut
  simp only [execDescriptorFetch, fetchMgmt, hn, hw, hs, hq, beq_eq_false_iff_ne.mpr hu, decide_eq_false (Nat.not_le.mpr hf), ha, hshut', hd]
  rfl

/-! ### The event mask and the watchdog (R368, R373) -/

theorem execEvmaskWrite_of (h : mayWriteCtx s fn k = true) : execEvmaskWrite fn k v s =
    let u := s.setCtx k { s.ctx k with evmask := v % 32 }
    .next (if (upto 5).any (fun e => bit (v % 32) e && !bit (s.ctx k).evmask e && bit (s.ctx k).event e)
      then sendIrq u (s.entry (keyPart k)).port (s.ctx k).vf (s.ctx k).q.cqVec else u) := by
  rw [execEvmaskWrite, if_neg (by simp [h]), apply_ite Host.Outcome.next]
  rfl

theorem execWatchdogExpired_of_reached {r : Running} {m : Cmd} (hr : (s.sched p).run = some r)
    (hm : (s.ctx r.key).q.cmds.find? (fun m => m.id == r.cmd) = some m) (ht : 100000000 ≤ m.runNs) :
    execWatchdogExpired p s = .next (stopRun (report s 55 (evtOf 0x006 1 0xFF r.key 0)) p 0x10 0) := by
  simp only [execWatchdogExpired, hr, hm, if_neg (Nat.not_lt.mpr ht), stWatchdog]

/-- Settles O39: doorbells and heads, the fetches of a context and of a management queue, the mask and the watchdog, each by its lemma. -/
theorem queues : Obligations.Queues := by
  unfold Obligations.Queues
  intro s fn q v k p b x c d fetch t
  refine ⟨fun hr hs hv => ⟨execSqDoorbell_of_ring hr hs hv, submit_frame .., rfl⟩, execCqHeadWrite_of_run,
    fun hc hw hu hf hcut htd he => ⟨fun next a ha => ⟨fun hd => ?good, fun st hd => ?bad⟩, ?noData⟩,
    fun hfull => (exec_fetch_ctx ..).trans (by rw [fetchCtx_of_full _ _ hfull]),
    fun hn hs hq hu hf hshut hw hd next a ha => execDescriptorFetch_mgmt_of_good hn hs hq hu hf hshut hw hd ha,
    execEvmaskWrite_of, fun r m => execWatchdogExpired_of_reached⟩
  case good =>
    rw [exec_fetch_ctx, fetchCtx_of_good hc hw hu hf hcut he htd ha hd]
    rfl
  case bad =>
    rw [exec_fetch_ctx, fetchCtx_of_bad hc hw hu hf hcut he htd ha hd]
    rfl
  case noData =>
    rw [exec_fetch_ctx, fetchCtx_of_no_data hc hw hu hf hcut he]
    rfl

end Sys2Proof.Machine
end

section
/-! SUPPORT. Functions and layouts (R350, R351, R354, R447): the messages of TDISP, and a LAYOUT_SWITCH before and after its switch point. -/
namespace Sys2Proof.Machine
open Sys2Proof

variable {s : State} {port vf id n : Nat} {block : Bytes} {sigOk devOk : Bool} {m : Cmd} {l : Layout}

/-! ### TDISP (R350, R382) -/

theorem partOfVf_setTdi (t : Tdisp) : partOfVf (setTdi s port vf t) port vf = partOfVf s port vf := rfl

section tdisp
variable (hup : sessionUp s (.fn (.mgmt port)) id = true) (h1 : 1 ≤ vf) (h64 : vf ≤ 64)
include hup h1 h64

theorem execTdispRequest_lock (ht : tdiOf s port vf = .unlocked) (hw : (partOfVf s port vf).any (slotSwitching s) = false) :
    execTdispRequest port vf .lock id s = .next (setTdi s port vf .locked) := by
  simp [execTdispRequest, hup, Nat.ne_of_gt h1, Nat.not_lt.mpr h64, ht, hw]

theorem execTdispRequest_lock_of_switching (ht : tdiOf s port vf = .unlocked)
    (hw : (partOfVf s port vf).any (slotSwitching s) = true) :
    execTdispRequest port vf .lock id s = .next (answer s 0xFE tdispError [] false) := by
  simp [execTdispRequest, hup, Nat.ne_of_gt h1, Nat.not_lt.mpr h64, ht, hw]

theorem execTdispRequest_start (ht : tdiOf s port vf = .locked) :
    execTdispRequest port vf .start id s = .next (setTdi s port vf .run) := by
  simp [execTdispRequest, hup, Nat.ne_of_gt h1, Nat.not_lt.mpr h64, ht]

theorem execTdispRequest_stop_of_none (ht : tdiOf s port vf ≠ .unlocked) (hp : partOfVf s port vf = none) :
    execTdispRequest port vf .stop id s = .next (setTdi s port vf .unlocked) := by
  simp [execTdispRequest, hup, Nat.ne_of_gt h1, Nat.not_lt.mpr h64, partOfVf_setTdi, hp]

theorem execTdispRequest_stop_of_part {p : Nat} (ht : tdiOf s port vf ≠ .unlocked) (hp : partOfVf s port vf = some p) :
    execTdispRequest port vf .stop id s = .next (cryptoErase (setTdi s port vf .unlocked) p) := by
  simp [execTdispRequest, hup, Nat.ne_of_gt h1, Nat.not_lt.mpr h64, partOfVf_setTdi, hp]

end tdisp

/-! ### LAYOUT_SWITCH (R354, R447) -/

/-- The layout in force after its selection is the new one; the rest of the layouts stays as the tear-down of the changed slots left it. -/
theorem applyLayout_active (s : State) (new : Layout) (changed : List Nat) : (applyLayout s new changed).lay.active = new := by
  unfold applyLayout
  rw [foldl_keeps State.lay fun t p => by split <;> rfl]

theorem finishSwitch_lay {w : Switching} (hs : s.lay.switch = some w) :
    (finishSwitch s).lay.active = w.layout ∧ (finishSwitch s).lay.switch = none ∧ (finishSwitch s).lay.switchCtr = w.counter := by
  simp [finishSwitch, hs, applyLayout_active]

/-- A switch as its switch point leaves it: it changes the slots that differ between the layout in force and the new one. -/
def switchTo (s : State) (n : Nat) (m : Cmd) (l : Layout) (block : Bytes) : Switching :=
  { port := n, cmd := some m.id, layout := l, counter := sbCounter block, changed := (upto 16).filter (slotChanged s.lay.active l) }

section under_way
variable {w : Switching} (hs : s.lay.switch = some w) (hn : w.port = n)
include hs hn

theorem execLayoutSwitch_of_command (hc : w.cmd = some id) : execLayoutSwitch n block sigOk devOk s =
    .next (completeMgmt (finishSwitch s) n id { status := 0 }) := by
  simp [execLayoutSwitch, hs, hn, hc, stOk]

theorem execLayoutSwitch_of_no_command (hc : w.cmd = none) : execLayoutSwitch n block sigOk devOk s = .next (finishSwitch s) := by
  simp [execLayoutSwitch, hs, hn, hc]

end under_way

section switch_point
variable (hs : s.lay.switch = none) (hm : mgmtHead s n opLayoutSwitch = some m)
include hs hm

theorem execLayoutSwitch_of_other_turn (ht : switchTurn s m = false) : execLayoutSwitch n block sigOk devOk s = .next s := by
  simp [execLayoutSwitch, hs, hm, ht]

variable (ht : switchTurn s m = true)
include ht

theorem execLayoutSwitch_of_unverified (hf : sbFails s block opLayoutSwitch 3 s.lay.switchCtr sigOk devOk = true) :
    execLayoutSwitch n block sigOk devOk s = .next (completeMgmt s n m.id { status := 0x23 }) := by
  simp [execLayoutSwitch, hs, hm, ht, hf, stSignature]

variable (hf : sbFails s block opLayoutSwitch 3 s.lay.switchCtr sigOk devOk = false)
include hf

theorem execLayoutSwitch_of_unknown (hl : s.lay.stored.find? (fun l => l.number == sbPayload block % 8) = none) :
    execLayoutSwitch n block sigOk devOk s = .next (completeMgmt s n m.id { status := 0x05 }) := by
  simp only [execLayoutSwitch, hs, hm, ht, hf, hl]
  rfl

variable (hl : s.lay.stored.find? (fun l => l.number == sbPayload block % 8) = some l)
include hl

theorem execLayoutSwitch_of_busy {p : Nat} (hp : ((upto 16).filter (slotChanged s.lay.active l)).find?
    (fun p => !(openKeys s p).isEmpty || tdiHeld s p) = some p) :
    execLayoutSwitch n block sigOk devOk s = .next (completeMgmt s n m.id { status := 0x22, result := p }) := by
  simp only [execLayoutSwitch, hs, hm, ht, hf, hl, hp]
  rfl

theorem execLayoutSwitch_of_idle
    (hp : ∀ p ∈ (upto 16).filter (slotChanged s.lay.active l), openKeys s p = [] ∧ tdiHeld s p = false) :
    execLayoutSwitch n block sigOk devOk s = .next { s with lay := { s.lay with switch := some (switchTo s n m l block) } } := by
  have hnone : ((upto 16).filter (slotChanged s.lay.active l)).find? (fun p => !(openKeys s p).isEmpty || tdiHeld s p) = none := by
    refine List.find?_eq_none.mpr fun p hmem => ?_
    obtain ⟨hk, hd⟩ := hp p hmem
    simp [hk, hd]
  simp only [execLayoutSwitch, hs, hm, ht, hf, hl, hnone]
  rfl

end switch_point

/-- Settles O43: the two resets are their definitions; TDISP by the state of the TDI, LAYOUT_SWITCH by whether one is past its switch
point and by its checks in order. -/
theorem functionsAndLayouts : Obligations.FunctionsAndLayouts := by
  unfold Obligations.FunctionsAndLayouts
  intro s port vf id n block sigOk devOk m l
  refine ⟨rfl, rfl, fun hup h1 h64 => ⟨fun ht => ⟨execTdispRequest_lock hup h1 h64 ht, execTdispRequest_lock_of_switching hup h1 h64 ht⟩,
      execTdispRequest_start hup h1 h64,
      fun ht => ⟨execTdispRequest_stop_of_none hup h1 h64 ht, fun p => execTdispRequest_stop_of_part hup h1 h64 ht⟩⟩,
    fun w hs hn => ?underWay, fun hs hm => execLayoutSwitch_of_other_turn hs hm,
    fun hs hm ht => ⟨execLayoutSwitch_of_unverified hs hm ht, execLayoutSwitch_of_unknown hs hm ht, fun hf hl =>
      ⟨execLayoutSwitch_of_idle hs hm ht hf hl, fun p => execLayoutSwitch_of_busy hs hm ht hf hl⟩⟩⟩
  case underWay =>
    obtain ⟨hactive, hswitch, hctr⟩ := finishSwitch_lay hs
    exact ⟨hactive, hswitch, hctr, fun id => execLayoutSwitch_of_command hs hn, execLayoutSwitch_of_no_command hs hn⟩

end Sys2Proof.Machine
end

section
/-! SUPPORT. Protection transfers at their receiver (R328 to R332, R338): what each kind does once it has passed its checks. -/
namespace Sys2Proof.Machine
open Sys2Proof

variable {s t : State} {n p r i kind : Nat} {k : Packet} {pt : ProtTable}

/-- A whole protection transfer of a kind arrives and is accepted for a partition's job from a rank (R305, R328). -/
structure ProtArrives (s t : State) (n kind p r : Nat) (k : Packet) : Prop extends Arrives s t n 1 p r k where
  chan : 0xFFF0 ≤ k.chan
  kind : phKind k.body = kind

theorem ProtArrives.withProt (h : ProtArrives s t n kind p r k) (f : State → Nat → Nat → Bytes → State) :
    withProt s n kind k f = f t p r k.body := by
  simp [Machine.withProt, h.withPacket, Nat.not_lt.mpr h.chan, h.kind]

/-! ### DELTA and DACK (R329) -/

/-- Whether this module is the P-holder of a transfer's stripe in a shard. -/
def isPHolder (t : State) (p : Nat) (x : Shard) (b : Bytes) : Bool := x.members.getD (posP (phIndex b)) 1024 == (t.job p).rank

/-- Whether it is the Q-holder. -/
def isQHolder (t : State) (p : Nat) (x : Shard) (b : Bytes) : Bool := x.members.getD (posQ (phIndex b)) 1024 == (t.job p).rank

theorem not_no_holder {x : Shard} {b : Bytes} (h : isPHolder t p x b = true ∨ isQHolder t p x b = true) :
    (!isPHolder t p x b && !isQHolder t p x b) = false := by
  obtain h | h := h <;> simp [h]

theorem execProtectionDelta_of_holder (h : ProtArrives s t n 1 p r k) (htab : protTab t p = some pt)
    (hg : groupShard pt (phGroup k.body) = some i)
    (hh : isPHolder t p (pt.shards.getD i {}) k.body = true ∨ isQHolder t p (pt.shards.getD i {}) k.body = true) :
    execProtectionDelta n k s = .next (sendProt (if (t.prot p).spare then t
      else applyDelta t p r i (pt.shards.getD i {}) (isQHolder t p (pt.shards.getD i {}) k.body) k.body) p (replyTx 2 r k.body)) := by
  have hno := not_no_holder hh
  unfold isPHolder isQHolder at hno
  simp only [execProtectionDelta, h.withProt, htab, hg, hno]
  rfl

/-- A delta that has been applied is not applied again (R329). -/
theorem applyDelta_of_seen {x : Shard} {q : Bool} {b : Bytes}
    (h : deltaSeen (t.prot p) (phStep b) (mapKey i (phIndex b) (phSlot b) q) r (phIndex b) (phPass b) = true) :
    applyDelta t p r i x q b = t := if_pos h

theorem execDack_of_arrives (h : ProtArrives s t n 2 p r k) : execDack n k s =
    let t1 := dropTx t p 1 (phGroup k.body) (phIndex k.body) r
    .next (settleUpd (t1.setUpd p { t1.upd p with eng := (t1.upd p).eng.map (fun e => (e.1, { e.2 with
      unacked := e.2.unacked.filter (· != (phGroup k.body, phIndex k.body, r)) })) }) p) := by
  rw [execDack, h.withProt]

/-! ### MIRROR and MACK (R330) -/

theorem execMirror_of_arrives (h : ProtArrives s t n 3 p r k) (htab : protTab t p = some pt) :
    execMirror n k s = .next (if r = pt.mirrorFrom
      then sendProt (engWrite t p (pt.mirrorVa + 65538 * phIndex k.body) ((phData k.body).take 65538)) p (replyTx 4 r k.body)
      else t) := by
  by_cases hr : r = pt.mirrorFrom <;> simp [execMirror, h.withProt, htab, hr]

theorem execMack_of_arrives (h : ProtArrives s t n 4 p r k) :
    execMack n k s = .next (landCheck (dropTx t p 3 0 (phIndex k.body) r) p) := by
  rw [execMack, h.withProt]

/-! ### SAG and RB_REQ (R326, R332, R338) -/

theorem execSag_of_arrives (h : ProtArrives s t n 5 p r k) :
    let hit := (sharedGroups t p r).filter (sagMatches t p r)
    let y := { t.prot p with
      sags := inc32 (t.prot p).sags, sagAt := Tbl.set (t.prot p).sagAt r t.now, suspect := ((t.prot p).suspect ++ hit).eraseDups }
    let u := t.setProt p (if y.sagV then y else { y with sagV := true, sagCorr := !hit.isEmpty, sagPos := k.src % 1024 })
    execSag n k s = .next (if hit.isEmpty then u else report u 55 (evtPart 0x026 0 0xFF p (k.src % 1024))) := by
  rw [execSag, h.withProt]

theorem execRbReq_of_holder {units : StripeRead} (h : ProtArrives s t n 6 p r k) (htab : protTab t p = some pt)
    (hg : groupShard pt (phGroup k.body) = some i)
    (hh : isPHolder t p (pt.shards.getD i {}) k.body = true ∨ isQHolder t p (pt.shards.getD i {}) k.body = true) :
    let b := k.body
    let sh := pt.shards.getD i {}
    let isQ := isQHolder t p sh b
    let rd := engRead t p (parityVa sh (phIndex b) isQ) sh.unitBytes
    let unit := if 8 ≤ phSlot b then formParity sh.unitBytes (phSlot b == 9) units.units
      else if rd.1 then none else formData sh.unitBytes (phSlot b) isQ rd.2.1 units.units
    let own := (mapOf (rd.2.2.prot p) (phStep b)).contains (mapKey i (phIndex b) (phSlot b) isQ)
    execRbReq n k units s = .next (sendProt rd.2.2 p { replyTx 7 r b with data := rbPayload (mapBits own units.other isQ) unit }) := by
  have hno := not_no_holder hh
  unfold isPHolder isQHolder at hno
  simp only [execRbReq, h.withProt, htab, hg, hno]
  rfl

theorem execProtectionResend_of_waiting {x : ProtTx} (h : (s.prot p).tx[i]? = some x) :
    execProtectionResend p i s = .next (sendTx s p x) := by
  simp only [execProtectionResend, h]

/-- Settles O48: each kind of transfer by its receiver, and the one that is sent again. -/
theorem protectionTransfers : Obligations.ProtectionTransfers := by
  unfold Obligations.ProtectionTransfers
  intro s t n p r i j k pt units x ok b sh isQ isP
  have arrives {kind : Nat} : ok kind → ProtArrives s t n kind p r k :=
    fun ⟨hup, hd, hty, hacc, hr, hc, hk⟩ => ⟨⟨hup, hd, hty, hacc, hr⟩, hc, hk⟩
  exact ⟨fun h htab hg hh => ⟨execProtectionDelta_of_holder (arrives h) htab hg hh, applyDelta_of_seen⟩,
    fun h => execDack_of_arrives (arrives h), fun h htab => execMirror_of_arrives (arrives h) htab,
    fun h => execMack_of_arrives (arrives h), fun h => execSag_of_arrives (arrives h),
    fun h htab hg hh => execRbReq_of_holder (arrives h) htab hg hh, execProtectionResend_of_waiting⟩

end Sys2Proof.Machine
end

section
/-! SUPPORT. REBUILD (R338 to R340): its three modes by the checks in their order, one that runs, and the units that arrive. -/
namespace Sys2Proof.Machine
open Sys2Proof

variable {s t : State} {k n p r mode : Nat} {m : Cmd} {block list : Bytes} {peers : PeerRead} {rb : Rebuild}

/-! ### What leaves the protection state -/

@[simp] theorem report_prot (s : State) (line : Nat) (e : Evt) (p : Nat) : (report s line e).prot p = s.prot p := by
  unfold report
  dsimp only
  split <;> rfl

@[simp] theorem checkCw_prot (s : State) (q cw p : Nat) : (checkCw s q cw).prot p = s.prot p := by
  unfold checkCw
  dsimp only
  split
  · rw [report_prot]; rfl
  · split <;> rfl

@[simp] theorem uncache_prot (s : State) (q spa n p : Nat) : (uncache s q spa n).prot p = s.prot p := by
  unfold uncache
  split <;> rfl

@[simp] theorem stkWrite_prot (s : State) (q spa : Nat) (bs : Bytes) (p : Nat) : (stkWrite s q spa bs).prot p = s.prot p := by
  unfold stkWrite
  dsimp only
  rw [uncache_prot]
  exact foldl_keeps (State.prot · p) (fun t cw => checkCw_prot t q cw p) _ s

@[simp] theorem pageWrite_prot (s : State) (q va : Nat) (bs : Bytes) (p : Nat) : (pageWrite s q va bs).prot p = s.prot p := by
  unfold pageWrite
  split
  · rfl
  · split
    · rfl
    · exact stkWrite_prot ..

@[simp] theorem engWrite_prot (s : State) (q va : Nat) (bs : Bytes) (p : Nat) : (engWrite s q va bs).prot p = s.prot p := by
  unfold engWrite
  generalize pageFuel bs.length = f
  induction f generalizing s va bs with
  | zero => rfl
  | succ f ih =>
    rw [writePages]
    split
    · exact pageWrite_prot ..
    · rw [ih, pageWrite_prot]

@[simp] theorem meter_prot (s : State) (k : Nat) (f : UseCtr → UseCtr) (p : Nat) : (meter s k f).prot p = s.prot p := by
  unfold meter
  dsimp only
  split <;> rfl

@[simp] theorem engMeter_prot (s : State) (q n p : Nat) : (engMeter s q n).prot p = s.prot p := by
  unfold engMeter
  split
  · exact meter_prot ..
  · rfl

/-- Landing blocks put in their place leave the rebuild as it stands. -/
theorem takeMirror_prot (s : State) (q : Nat) (x : Nat × Nat × Bytes) (p : Nat) : (takeMirror s q x).prot p = s.prot p := by
  unfold takeMirror
  dsimp only
  split
  · rfl
  · rw [State.setUpd_prot, engMeter_prot, engWrite_prot]

/-! ### The checks of a REBUILD that begins (R10, R338, R339, R364) -/

/-- Whether the list of records that REBUILD RECORDS names is mapped. -/
def listMapped (s : State) (k : Nat) (m : Cmd) : Bool :=
  hostMapped s (keyPart k) (m.desc.params.getD 0 0 + m.desc.params.getD 1 0 * 2 ^ 32) (8 * m.desc.params.getD 2 0)

/-- The records that the list names, by die, segment and number. -/
def listedRecs (m : Cmd) (list : Bytes) : List (Nat × Nat × Nat) :=
  (upto (m.desc.params.getD 2 0)).map (fun i => (bits (le64 list (8 * i)) 62 2, bits (le64 list (8 * i)) 48 14, bits (le64 list (8 * i)) 0 48))

/-- Whether one of them lies on an absent die. -/
def namesAbsentDie (s : State) (recs : List (Nat × Nat × Nat)) : Bool := recs.any (fun x => decide (dieCount s.var ≤ x.1))

/-- The row of each mode, with what it hands to the step that the modes share. -/
def rebuildRows (k : Nat) (m : Cmd) (block list : Bytes) (peers : PeerRead) : List (Instr × Nat × Bool × List (Nat × Nat × Nat)) :=
  [(.rebuildMember k block peers, 1, m.desc.arg0 / 2 ^ 32 == peers.step + 1, []),
   (.rebuildRecords k block list, 2, false, listedRecs m list), (.rebuildParity k block, 3, false, [])]

section begins
variable (hi : issuable s k opRebuild = some m) (heng : (s.sched (keyPart k)).eng = none) (ht : engTurn s (keyPart k) m = true)
include hi heng ht

theorem execRebuildRecords_of_two (h2 : m.desc.arg0 % 4 = 2) : execRebuildRecords k block list s =
    if (s.ctx k).image.isSome && !bedGone s k && !listMapped s k m then .next (refuseCmd s k m.id 0x06 0)
    else if (s.ctx k).image.isSome && !bedGone s k && namesAbsentDie s (listedRecs m list) then .next (refuseCmd s k m.id 0x01 0)
    else .next (rebuildStep s k 2 false block (listedRecs m list)) := by
  have hdue : listDue s k m = ((s.ctx k).image.isSome && !bedGone s k) := by simp [listDue, heng, ht]
  simp only [execRebuildRecords, hi, h2, hdue, two32_eq]
  rfl

section rows
variable {c : Instr} {roll : Bool} {recs : List (Nat × Nat × Nat)} (hc : (c, mode, roll, recs) ∈ rebuildRows k m block list peers)
  (hmode : m.desc.arg0 % 4 = mode)
include hc hmode

theorem exec_rebuildRows_of_unmapped_list (h2 : mode = 2) (himg : (s.ctx k).image.isSome = true) (hb : bedGone s k = false)
    (hl : listMapped s k m = false) : exec c s = .next (refuseCmd s k m.id 0x06 0) := by
  simp only [rebuildRows, List.mem_cons, List.not_mem_nil, or_false, Prod.mk.injEq] at hc
  obtain ⟨rfl, hm, -, -⟩ | ⟨rfl, -, -, -⟩ | ⟨rfl, hm, -, -⟩ := hc
  · omega
  · refine (execRebuildRecords_of_two hi heng ht (hmode.trans h2)).trans (if_pos ?_)
    simp [himg, hb, hl]
  · omega

theorem exec_rebuildRows_of_absent_die (h2 : mode = 2) (himg : (s.ctx k).image.isSome = true) (hb : bedGone s k = false)
    (hl : listMapped s k m = true) (ha : namesAbsentDie s recs = true) : exec c s = .next (refuseCmd s k m.id 0x01 0) := by
  simp only [rebuildRows, List.mem_cons, List.not_mem_nil, or_false, Prod.mk.injEq] at hc
  obtain ⟨rfl, hm, -, -⟩ | ⟨rfl, -, -, rfl⟩ | ⟨rfl, hm, -, -⟩ := hc
  · omega
  · refine (execRebuildRecords_of_two hi heng ht (hmode.trans h2)).trans ?_
    simp [himg, hb, hl, ha]
  · omega

end rows

variable (hrb : (s.prot (keyPart k)).rb = none)
include hrb

section step
variable {roll : Bool} {recs : List (Nat × Nat × Nat)} (hmode : m.desc.arg0 % 4 = mode) (h0 : mode ≠ 0)
include hmode h0

theorem rebuildStep_of_no_image (himg : (s.ctx k).image = none) :
    rebuildStep s k mode roll block recs = refuseCmd s k m.id 0x05 0 := by
  simp [rebuildStep, hi, hrb, heng, ht, hmode, h0, himg, stMalformed]

section image
variable (himg : (s.ctx k).image.isSome = true)
include himg

theorem rebuildStep_of_bedGone (hb : bedGone s k = true) : rebuildStep s k mode roll block recs = refuseCmd s k m.id 0x01 0 := by
  obtain ⟨img, himg⟩ := Option.isSome_iff_exists.mp himg
  simp [rebuildStep, hi, hrb, heng, ht, hmode, h0, himg, hb, stUnitAbsent]

variable (hb : bedGone s k = false)
include hb

theorem rebuildStep_of_unmapped (hmap : hostMapped s (keyPart k) m.desc.arg1 576 = false) :
    rebuildStep s k mode roll block recs = refuseCmd s k m.id 0x06 0 := by
  obtain ⟨img, himg⟩ := Option.isSome_iff_exists.mp himg
  simp [rebuildStep, hi, hrb, heng, ht, hmode, h0, himg, hb, hmap, stParamUnmapped]

variable (hmap : hostMapped s (keyPart k) m.desc.arg1 576 = true)
include hmap

theorem rebuildStep_of_waiting (hph : m.phase = .waiting) : rebuildStep s k mode roll block recs = setPhase s k m.id .asking := by
  obtain ⟨img, himg⟩ := Option.isSome_iff_exists.mp himg
  simp [rebuildStep, hi, hrb, heng, ht, hmode, h0, himg, hb, hmap, hph]

theorem rebuildStep_of_granted (hph : m.phase = .granted) :
    rebuildStep s k mode roll block recs = beginRebuild s k m mode roll block recs := by
  obtain ⟨img, himg⟩ := Option.isSome_iff_exists.mp himg
  simp [rebuildStep, hi, hrb, heng, ht, hmode, h0, himg, hb, hmap, hph]

end image

end step

section rows
variable {c : Instr} {roll : Bool} {recs : List (Nat × Nat × Nat)} (hc : (c, mode, roll, recs) ∈ rebuildRows k m block list peers)
  (hmode : m.desc.arg0 % 4 = mode)
include hc hmode

/-- With a list that passes its checks, or none that is due, a row takes the step of its mode. -/
theorem exec_rebuildRows (hlist : mode = 2 → (s.ctx k).image.isSome = true → bedGone s k = false →
    listMapped s k m = true ∧ namesAbsentDie s recs = false) : exec c s = .next (rebuildStep s k mode roll block recs) := by
  simp only [rebuildRows, List.mem_cons, List.not_mem_nil, or_false, Prod.mk.injEq] at hc
  obtain ⟨rfl, rfl, rfl, rfl⟩ | ⟨rfl, rfl, rfl, rfl⟩ | ⟨rfl, rfl, rfl, rfl⟩ := hc
  · rw [← two32_eq]
    simp only [exec, execRebuildMember, hi, hrb]
  · refine (execRebuildRecords_of_two hi heng ht hmode).trans ?_
    cases himg : (s.ctx k).image.isSome with
    | false => rfl
    | true =>
      cases hb : bedGone s k with
      | true => rfl
      | false =>
        obtain ⟨hl, ha⟩ := hlist rfl himg hb
        simp [hl, ha]
  · rfl

end rows

end begins

theorem mode_ne_zero_of_mem {c : Instr} {roll : Bool} {recs : List (Nat × Nat × Nat)}
    (hc : (c, mode, roll, recs) ∈ rebuildRows k m block list peers) : mode ≠ 0 := by
  simp only [rebuildRows, List.mem_cons, List.not_mem_nil, or_false, Prod.mk.injEq] at hc
  omega

/-! ### One that runs, and mode 0 (R338, R339) -/

theorem rebuildStep_of_running {roll : Bool} {recs : List (Nat × Nat × Nat)} (hrb : (s.prot (keyPart k)).rb = some rb) (hk : rb.cmd.1 = k)
    (hm : rb.mode = mode) : rebuildStep s k mode roll block recs = rebuildTry s (keyPart k) := by
  simp [rebuildStep, hrb, hk, hm]

theorem execRebuildMember_of_running (hrb : (s.prot (keyPart k)).rb = some rb) (hk : rb.cmd.1 = k) (hm : rb.mode = 1) :
    execRebuildMember k block peers s = .next (rebuildTry (if rb.roll
      then peers.landings.foldl (fun s x => takeMirror s (keyPart k) x) s else s) (keyPart k)) := by
  have hcond : (rb.roll && decide (rb.cmd.1 = k) && decide (rb.mode = 1)) = rb.roll := by simp [hk, hm]
  simp only [execRebuildMember, hrb, hcond]
  refine congrArg _ (rebuildStep_of_running ?_ hk hm)
  split
  · rw [foldl_keeps (State.prot · (keyPart k)) fun t x => takeMirror_prot t _ x _, hrb]
  · exact hrb

theorem execRebuildRecords_of_running (hrb : (s.prot (keyPart k)).rb = some rb) (hk : rb.cmd.1 = k) (hm : rb.mode = 2)
    (hi : issuable s k opRebuild = none) : execRebuildRecords k block list s = .next (rebuildTry s (keyPart k)) := by
  simp only [execRebuildRecords, hi, rebuildStep_of_running hrb hk hm]

theorem execRebuildParity_of_running (hrb : (s.prot (keyPart k)).rb = some rb) (hk : rb.cmd.1 = k) (hm : rb.mode = 3) :
    execRebuildParity k block s = .next (rebuildTry s (keyPart k)) := by
  simp only [execRebuildParity, rebuildStep_of_running hrb hk hm]

theorem execRebuildParity_of_mode_zero (hi : issuable s k opRebuild = some m) (hrb : (s.prot (keyPart k)).rb = none)
    (h0 : m.desc.arg0 % 4 = 0) : execRebuildParity k block s = .next (refuseCmd s k m.id 0x05 0) := by
  simp [execRebuildParity, rebuildStep, hi, hrb, h0, stMalformed]

/-! ### A unit that arrives (R338 to R340) -/

theorem checks_pass {checksOk : Bool} (hc : rb.mode = 3 → checksOk = true) : (decide (rb.mode = 3) && !checksOk) = false := by
  simpa [imp_iff_not_or] using hc

section data
variable {pk : Packet} {pt : ProtTable} {u : RbUnit} {checksOk : Bool} (h : ProtArrives s t n 7 p r pk)
  (hrb : (t.prot p).rb = some rb) (htab : protTab t p = some pt)
  (hu : rb.todo.find? (fun z => (pt.shards.getD z.shard {}).group == phGroup pk.body && z.sigma == phIndex pk.body &&
    z.role == phSlot pk.body) = some u)
include h hrb htab hu

theorem execRbData_of_disagreement (hm : rb.mode = 3) (hc : checksOk = false) : execRbData n pk checksOk s =
    .next (endRebuild (dropTx t p 6 (pt.shards.getD u.shard {}).group u.sigma r) p 0x1F [u.shard]) := by
  simp only [execRbData, h.withProt, hrb, htab, hu, hm, hc]
  rfl

variable (hc : rb.mode = 3 → checksOk = true)
include hc

theorem execRbData_of_lost (hbs : (phData pk.body).drop 16 = []) (hl : 8 ≤ u.role ∨ u.askQ = true) : execRbData n pk checksOk s =
    .next (endRebuild (dropTx t p 6 (pt.shards.getD u.shard {}).group u.sigma r) p 0x1E [u.shard]) := by
  have hlost : (decide (8 ≤ u.role) || u.askQ) = true := by simpa using hl
  simp only [execRbData, h.withProt, hrb, htab, hu, checks_pass hc, hbs, hlost]
  rfl

theorem execRbData_of_retry (hbs : (phData pk.body).drop 16 = []) (hr : u.role < 8) (hq : u.askQ = false) :
    let t0 := dropTx t p 6 (pt.shards.getD u.shard {}).group u.sigma r
    let v := { u with askQ := true }
    execRbData n pk checksOk s = .next (askUnit (t0.setProt p { t0.prot p with rb := some { rb with
      todo := rb.todo.map (fun z => if z = u then v else z) } }) p pt rb.nc v) := by
  have hlost : (decide (8 ≤ u.role) || u.askQ) = false := by simp [hr, hq]
  simp only [execRbData, h.withProt, hrb, htab, hu, checks_pass hc, hbs, hlost]
  rfl

theorem execRbData_of_formed (hbs : (phData pk.body).drop 16 ≠ []) :
    let x := pt.shards.getD u.shard {}
    let t1 := storeUnit (dropTx t p 6 x.group u.sigma r) p rb x u ((phData pk.body).drop 16)
    execRbData n pk checksOk s = .next (rebuildTry (t1.setProt p { t1.prot p with
      rb := some { (t1.prot p).rb.getD rb with
        todo := rb.todo.filter (· != u)
        maps := if 8 ≤ u.role then rb.maps
                else rb.maps ++ [(x.firstUnit + 8 * (u.sigma / 10) + u.role, leNat (((phData pk.body).drop 8).take 1))] }
      rbDone := satAdd 64 (t1.prot p).rbDone 1 }) p) := by
  have hbs' : ((phData pk.body).drop 16).isEmpty = false := by simpa using hbs
  simp only [execRbData, h.withProt, hrb, htab, hu, checks_pass hc, hbs']
  rfl

end data

/-- Settles O49: a row that begins by the first check that fails, one that runs, and a unit by what it brings. -/
theorem rebuilds : Obligations.Rebuilds := by
  unfold Obligations.Rebuilds
  intro s t k n p r pk m block list peers pt rb u checksOk
  refine ⟨fun c mode roll recs hc hi hrb heng ht hmode => ?begins, execRebuildMember_of_running, execRebuildRecords_of_running,
    execRebuildParity_of_running, execRebuildParity_of_mode_zero,
    fun hup hd hty hacc hr hch hk hrb htab hu => ?data⟩
  case begins =>
    replace hc : (c, mode, roll, recs) ∈ rebuildRows k m block list peers := hc
    have h0 := mode_ne_zero_of_mem hc
    refine ⟨fun himg => ?_, fun himg hb => ?_, fun himg hb h2 hl => exec_rebuildRows_of_unmapped_list hi heng ht hc hmode h2 himg hb hl,
      fun himg hb hlist => ⟨fun h2 ha => exec_rebuildRows_of_absent_die hi heng ht hc hmode h2 himg hb (hlist h2) ha,
        fun habs => ?_⟩⟩
    · rw [exec_rebuildRows hi heng ht hrb hc hmode fun _ h => by simp [himg] at h,
        rebuildStep_of_no_image hi heng ht hrb hmode h0 himg]
    · rw [exec_rebuildRows hi heng ht hrb hc hmode fun _ _ h => by simp [hb] at h,
        rebuildStep_of_bedGone hi heng ht hrb hmode h0 himg hb]
    · have hstep := exec_rebuildRows hi heng ht hrb hc hmode fun h2 _ _ => ⟨hlist h2, habs h2⟩
      rw [hstep]
      exact ⟨fun hmap => congrArg _ (rebuildStep_of_unmapped hi heng ht hrb hmode h0 himg hb hmap),
        fun hmap hph => congrArg _ (rebuildStep_of_waiting hi heng ht hrb hmode h0 himg hb hmap hph),
        fun hmap hph => congrArg _ (rebuildStep_of_granted hi heng ht hrb hmode h0 himg hb hmap hph)⟩
  case data =>
    have h : ProtArrives s t n 7 p r pk := ⟨⟨hup, hd, hty, hacc, hr⟩, hch, hk⟩
    exact ⟨execRbData_of_disagreement h hrb htab hu, execRbData_of_lost h hrb htab hu, execRbData_of_retry h hrb htab hu,
      execRbData_of_formed h hrb htab hu⟩

end Sys2Proof.Machine
end

section
/-! SUPPORT. Attestation and sessions (R377, R378, R387): what a responder answers, in its order and out of it. -/
namespace Sys2Proof.Machine
open Sys2Proof

variable {s : State} {e : Endpoint} {slot index id : Nat}

/-! ### What a responder has negotiated -/

@[simp] theorem spdmOf_setSpdm (s : State) (e : Endpoint) (x : Spdm) : spdmOf (setSpdm s e x) e = x := by simp [spdmOf, setSpdm]

/-- The blocks of indices 1 to 6 are there once each (R378). -/
theorem measurements_of_index (h1 : 1 ≤ index) (h6 : index ≤ 6) :
    ∃ m, (measurements s e).filter (fun m => m.1 == index) = [(index, m)] := by
  unfold measurements
  extract_lets num part five imgs
  have himgs : imgs.filter (fun m => m.1 == index) = [] := by
    refine List.filter_eq_nil_iff.mpr fun m hm => ?_
    simp only [imgs] at hm
    generalize part = o at hm
    split at hm
    · obtain ⟨k, -, rfl⟩ := List.mem_map.mp hm
      rw [beq_iff_eq]
      omega
    · exact absurd hm (List.not_mem_nil)
  rw [List.filter_append, himgs, List.append_nil]
  obtain rfl | rfl | rfl | rfl | rfl | rfl : index = 1 ∨ index = 2 ∨ index = 3 ∨ index = 4 ∨ index = 5 ∨ index = 6 := by omega
  all_goals exact ⟨_, rfl⟩

/-! ### Requests at a responder that is reached (R377, R378) -/

section reached
variable (hr : hasResponder s e = true)
include hr

theorem execGetVersion_of_reached : execGetVersion e s =
    .next (answer (setSpdm s e { version := true }) 0x84 0 [(0, natLe 2 0x1300)] false) := by simp [execGetVersion, hr]

theorem execGetCapabilities_of_version (hv : (spdmOf s e).version = true) : execGetCapabilities e s =
    .next (answer (setSpdm s e { spdmOf s e with caps := true }) 0xE1 0 capBlocks false) := by simp [execGetCapabilities, hr, hv]

theorem execGetCapabilities_of_early (hv : (spdmOf s e).version = false) :
    execGetCapabilities e s = .next (spdmError s 0xE1 4) := by simp [execGetCapabilities, hr, hv, errUnexpected]

theorem execNegotiateAlgorithms_of_caps (hc : (spdmOf s e).caps = true) : execNegotiateAlgorithms e s =
    .next (answer (setSpdm s e { spdmOf s e with algs := true }) 0xE3 0 algBlocks false) := by simp [execNegotiateAlgorithms, hr, hc]

theorem execNegotiateAlgorithms_of_early (hc : (spdmOf s e).caps = false) :
    execNegotiateAlgorithms e s = .next (spdmError s 0xE3 4) := by simp [execNegotiateAlgorithms, hr, hc, errUnexpected]

section negotiated
variable (ha : (spdmOf s e).algs = true)
include ha

theorem execGetDigests_of_algs : execGetDigests e s =
    .next (answer s 0x81 0 [(0, digest (chain s 0)), (1, digest (chain s 1))] false) := by simp [execGetDigests, hr, ha]

theorem execGetCertificate_of_slot (hs : slot < 2) :
    execGetCertificate e slot s = .next (answer s 0x82 0 [(slot, chain s slot)] false) := by
  simp [execGetCertificate, hr, ha, Nat.not_le.mpr hs]

theorem execGetCertificate_of_no_slot (hs : 2 ≤ slot) : execGetCertificate e slot s = .next (spdmError s 0x82 1) := by
  simp [execGetCertificate, hr, ha, hs, errInvalid]

theorem execChallenge_of_slot (hs : slot < 2) :
    execChallenge e slot s = .next (answer s 0x83 0 [(slot, digest (chain s slot))] true) := by
  simp [execChallenge, hr, ha, Nat.not_le.mpr hs]

theorem execChallenge_of_no_slot (hs : 2 ≤ slot) : execChallenge e slot s = .next (spdmError s 0x83 1) := by
  simp [execChallenge, hr, ha, hs, errInvalid]

theorem execGetMeasurements_count :
    execGetMeasurements e 0 s = .next (answer s 0xE0 0 [(0, natLe 1 (measurements s e).length)] true) := by
  simp [execGetMeasurements, hr, ha]

theorem execGetMeasurements_all : execGetMeasurements e 0xFF s = .next (answer s 0xE0 0 (measurements s e) true) := by
  simp [execGetMeasurements, hr, ha]

section index
variable (h0 : index ≠ 0) (hff : index ≠ 0xFF)
include h0 hff

theorem execGetMeasurements_of_index (hb : (measurements s e).filter (fun m => m.1 == index) ≠ []) : execGetMeasurements e index s =
    .next (answer s 0xE0 0 ((measurements s e).filter (fun m => m.1 == index)) true) := by
  obtain ⟨b, bs, hbs⟩ := List.exists_cons_of_ne_nil hb
  simp only [execGetMeasurements, hr, ha, if_neg h0, if_neg hff, hbs]
  rfl

theorem execGetMeasurements_of_no_index (hb : (measurements s e).filter (fun m => m.1 == index) = []) :
    execGetMeasurements e index s = .next (spdmError s 0xE0 1) := by
  simp only [execGetMeasurements, hr, ha, if_neg h0, if_neg hff, hb]
  rfl

end index

section exchange
variable (hl : s.lockedLike = false)
include hl

/-- The state with a session of a new number, whose handshake has not finished. -/
def withSession (s : State) (e : Endpoint) : State :=
  let t := setSpdm s e { spdmOf s e with sessions := { id := s.gth.sessGen + 1, up := false, beat := s.now } :: (spdmOf s e).sessions }
  { t with gth := { t.gth with sessGen := s.gth.sessGen + 1 } }

theorem execKeyExchange_of_room (hn : (spdmOf s e).sessions.length < 4) : execKeyExchange e s =
    .next (answer (withSession s e) 0xE4 0 [(0, natLe 4 (s.gth.sessGen + 1)), (1, natLe 1 60)] true) := by
  simp [execKeyExchange, hr, hl, ha, Nat.not_le.mpr hn, withSession]

theorem execKeyExchange_of_full (hn : 4 ≤ (spdmOf s e).sessions.length) : execKeyExchange e s = .next (spdmError s 0xE4 0x0A) := by
  simp [execKeyExchange, hr, hl, ha, hn, errSessions]

end exchange

end negotiated

theorem execKeyExchange_of_locked (hl : s.lockedLike = true) : execKeyExchange e s = .next (spdmError s 0xE4 4) := by
  simp [execKeyExchange, hr, hl, errUnexpected]

/-- Before the algorithms are negotiated the requests that need them are unexpected. -/
theorem exec_of_no_algs (ha : (spdmOf s e).algs = false) :
    execGetDigests e s = .next (spdmError s 0x81 4) ∧ execGetCertificate e slot s = .next (spdmError s 0x82 4) ∧
      execChallenge e slot s = .next (spdmError s 0x83 4) ∧ execGetMeasurements e index s = .next (spdmError s 0xE0 4) ∧
      execKeyExchange e s = .next (spdmError s 0xE4 4) := by
  simp [execGetDigests, execGetCertificate, execChallenge, execGetMeasurements, execKeyExchange, hr, ha, errUnexpected]

/-! ### Sessions (R377) -/

theorem execFinish_of_pending (h : sessionIn s e id false = true) :
    execFinish e id true s = .next (answer (updSession s e id (fun y => { y with up := true })) 0xE5 0 [] false) ∧
      execFinish e id false s = .next (spdmError (dropSession s e id) 0xE5 1) := by
  simp [execFinish, hr, h, errInvalid]

section up
variable (h : sessionIn s e id true = true)
include h

theorem execHeartbeat_of_up : execHeartbeat e id s =
    .next (answer (updSession s e id (fun y => { y with beat := s.now })) 0xE8 0 [] false) := by simp [execHeartbeat, hr, h]

theorem execKeyUpdate_of_up : execKeyUpdate e id s =
    .next (answer (updSession s e id (fun y => { y with keys := y.keys + 1 })) 0xE9 0 [] false) := by simp [execKeyUpdate, hr, h]

theorem execEndSession_of_up : execEndSession e id s = .next (answer (dropSession s e id) 0xEC 0 [] false) := by
  simp [execEndSession, hr, h]

end up

end reached

/-- Settles O51: each request by what the endpoint has negotiated, and what is in a session by the state of its handshake. -/
theorem attestation : Obligations.Attestation := by
  unfold Obligations.Attestation
  intro s e slot index id x bad hr
  refine ⟨execGetVersion_of_reached hr, execGetCapabilities_of_version hr, execGetCapabilities_of_early hr,
    execNegotiateAlgorithms_of_caps hr, execNegotiateAlgorithms_of_early hr,
    fun ha => ⟨execGetDigests_of_algs hr ha, fun hs => ⟨execGetCertificate_of_slot hr ha hs, execChallenge_of_slot hr ha hs⟩,
      fun hs => ⟨execGetCertificate_of_no_slot hr ha hs, execChallenge_of_no_slot hr ha hs⟩,
      execGetMeasurements_count hr ha, execGetMeasurements_all hr ha,
      fun h0 hff => ⟨execGetMeasurements_of_index hr ha h0 hff, execGetMeasurements_of_no_index hr ha h0 hff⟩,
      measurements_of_index,
      fun hl hn => ⟨_, execKeyExchange_of_room hr ha hl hn, ?opened⟩, execKeyExchange_of_full hr ha⟩,
    execKeyExchange_of_locked hr, exec_of_no_algs hr, execFinish_of_pending hr,
    fun h => ⟨execHeartbeat_of_up hr h, execKeyUpdate_of_up hr h, execEndSession_of_up hr h⟩⟩
  case opened =>
    refine ⟨?_, rfl, rfl, rfl, rfl⟩
    exact congrArg Spdm.sessions (spdmOf_setSpdm s e _)

end Sys2Proof.Machine
end

section
/-! SUPPORT. What a crypto-erase leaves of its partition (R381, R432): the job, the maps, the stack contents and the check units. -/
namespace Sys2Proof.Machine
open Sys2Proof

variable (s : State) (p : Nat)

/-! ### The steps and what they leave -/

@[simp] theorem zeroShare_parts : (zeroShare s p).parts = s.parts :=
  foldl_keeps State.parts (fun t d => by dsimp only; split <;> rfl) _ s

@[simp] theorem zeroShare_units : (zeroShare s p).units = s.units :=
  foldl_keeps State.units (fun t d => by dsimp only; split <;> rfl) _ s

@[simp] theorem zeroShare_stk : (zeroShare s p).mems.stk = s.mems.stk :=
  foldl_keeps (fun t => t.mems.stk) (fun t d => by dsimp only; split <;> rfl) _ s

@[simp] theorem clearPads_parts : (clearPads s p).parts = s.parts := foldl_keeps State.parts (by intros; rfl) _ s

@[simp] theorem clearPads_mems : (clearPads s p).mems = s.mems := foldl_keeps State.mems (by intros; rfl) _ s

@[simp] theorem clearPads_chk : (clearPads s p).units.chk = s.units.chk := foldl_keeps (fun t => t.units.chk) (by intros; rfl) _ s

theorem clearMaps_job (j : Nat) : (clearMaps s p).job j = s.job j := by
  rw [State.job, clearMaps, zeroShare_parts]
  rfl

theorem clearMaps_xlate : ((clearMaps s p).xlate p).stack = [] ∧ ((clearMaps s p).xlate p).host = [] := by
  rw [State.xlate, clearMaps, zeroShare_parts]
  simp [State.setXlate]

theorem clearMaps_stk : (clearMaps s p).mems.stk = s.mems.stk := by
  rw [clearMaps, zeroShare_stk]
  rfl

theorem clearMaps_units : (clearMaps s p).units = s.units := by
  rw [clearMaps, zeroShare_units]
  rfl

/-- The contexts of a partition without their command keys. -/
def withoutCmdKeys : State := (partKeys s p).foldl (fun s k => s.setCtx k { s.ctx k with keyed := false, key := 0 }) s

theorem withoutCmdKeys_keeps {β : Type} (g : State → β) (hg : ∀ t k c, g (State.setCtx t k c) = g t) : g (withoutCmdKeys s p) = g s :=
  foldl_keeps g (by intros; exact hg ..) _ s

theorem dropKeys_eq : ∃ gth, dropKeys s p = { withoutCmdKeys (dropJob s p) p with gth := gth } := ⟨_, rfl⟩

theorem dropKeys_job_valid : ((dropKeys s p).job p).valid = false := by
  obtain ⟨gth, h⟩ := dropKeys_eq s p
  rw [h]
  show ((withoutCmdKeys (dropJob s p) p).job p).valid = false
  rw [withoutCmdKeys_keeps (dropJob s p) p (State.job · p) fun _ _ _ => rfl]
  simp [dropJob]

theorem dropKeys_entry (j : Nat) : (dropKeys s p).entry j = s.entry j := by
  obtain ⟨gth, h⟩ := dropKeys_eq s p
  rw [h]
  exact withoutCmdKeys_keeps (dropJob s p) p (State.entry · j) fun _ _ _ => rfl

theorem dropKeys_mems : (dropKeys s p).mems = s.mems := by
  obtain ⟨gth, h⟩ := dropKeys_eq s p
  rw [h]
  exact withoutCmdKeys_keeps (dropJob s p) p State.mems fun _ _ _ => rfl

theorem dropKeys_units : (dropKeys s p).units = s.units := by
  obtain ⟨gth, h⟩ := dropKeys_eq s p
  rw [h]
  exact withoutCmdKeys_keeps (dropJob s p) p State.units fun _ _ _ => rfl

/-! ### The erase -/

/-- The state of an erase before the scratchpads and the check units of the partition. -/
def erasedMaps : State := clearMaps (keySlot (loseStack (dropKeys s p) p) p) p

theorem cryptoErase_parts : (cryptoErase s p).parts = (erasedMaps s p).parts := clearPads_parts ..

theorem cryptoErase_job_valid : ((cryptoErase s p).job p).valid = false := by
  rw [State.job, cryptoErase_parts]
  show ((erasedMaps s p).job p).valid = false
  rw [erasedMaps, clearMaps_job]
  exact dropKeys_job_valid s p

theorem cryptoErase_xlate : ((cryptoErase s p).xlate p).stack = [] ∧ ((cryptoErase s p).xlate p).host = [] := by
  rw [State.xlate, cryptoErase_parts]
  exact clearMaps_xlate ..

theorem cryptoErase_stk_bytes : (cryptoErase s p).mems.stk.bytes = s.mems.stk.bytes.filter (fun c => !inFrames (s.entry p) c.1) := by
  have hmems : (cryptoErase s p).mems = (erasedMaps s p).mems := clearPads_mems ..
  rw [hmems, erasedMaps, clearMaps_stk]
  show (loseStack (dropKeys s p) p).mems.stk.bytes = _
  simp only [loseStack, State.setStk, dropKeys_mems, dropKeys_entry]

/-- No byte of the partition's frames is left. -/
theorem not_mem_cryptoErase_stk {a : Host.Cell} (h : inFrames (s.entry p) a.1 = true) : a ∉ (cryptoErase s p).mems.stk.bytes := by
  rw [cryptoErase_stk_bytes, List.mem_filter]
  simp [h]

/-- The check units of the partition are reset; the others stay. -/
theorem cryptoErase_chk : (cryptoErase s p).units.chk =
    s.units.chk.map (fun x => if x.2.toPart && x.2.part == p then (x.1, chkReset x.2 false) else x) := by
  have hunits : (clearPads (erasedMaps s p) p).units.chk = s.units.chk := by
    rw [clearPads_chk, erasedMaps, clearMaps_units]
    exact congrArg Units.chk (dropKeys_units s p)
  rw [← hunits]
  rfl

end Sys2Proof.Machine
end

section
/-! SUPPORT. Requests inside a session: IDE_KM (R379) and the vendor-defined requests (R380, R381, R447). -/
namespace Sys2Proof.Machine
open Sys2Proof

variable {s : State} {fn : Fn} {port id st ks vf key p q c : Nat} {pl : Bytes}

/-! ### IDE_KM (R379) -/

/-- Whether a VF has another stream, or another VF this one: the refusal of KEY_PROG for a second stream (R379). -/
def secondStream (s : State) (port st vf : Nat) : Bool := s.gth.ide.any (fun i => i.port == port && ((i.vf == vf) != (i.stream == st)))

/-- The key sets of the function once KEY_PROG has programmed one (R379): the new set stands in the place of the old. -/
def progKeys (s : State) (port st ks vf key : Nat) : List IdeKey :=
  { port := port, stream := st, kset := ks, vf := vf, key := key, active := false } :: s.gth.ide.filter (fun i => !sameSet port st ks i)

section ide
variable (h : ideSession s port id = true)
include h

theorem execKeyProg_of_first (hv : vf ≤ 64) (hk : ks < 2) (h2 : secondStream s port st vf = false) : execKeyProg port id st ks vf key s =
    .next (answer { s with gth := { s.gth with ide := progKeys s port st ks vf key } } 0xFE 0 [] false) := by
  unfold secondStream at h2
  simp only [execKeyProg, h, decide_eq_false (Nat.not_lt.mpr hv), decide_eq_false (Nat.not_le.mpr hk), h2]
  rfl

theorem execKeyProg_of_refused (hr : 64 < vf ∨ 2 ≤ ks ∨ secondStream s port st vf = true) :
    execKeyProg port id st ks vf key s = .next (answer s 0xFE 4 [] false) := by
  have hr' : (decide (64 < vf) || decide (2 ≤ ks) || secondStream s port st vf) = true := by simpa [or_assoc] using hr
  unfold secondStream at hr'
  simp only [execKeyProg, h, hr']
  rfl

theorem execKSetGo_of_programmed (hp : s.gth.ide.any (sameSet port st ks) = true) : execKSetGo port id st ks s =
    .next (answer { s with gth := { s.gth with ide := s.gth.ide.map (fun i => if sameSet port st ks i then { i with active := true } else i) } }
      0xFE 0 [] false) := by
  simp only [execKSetGo, h, hp]
  rfl

theorem execKSetGo_of_unprogrammed (hp : s.gth.ide.any (sameSet port st ks) = false) :
    execKSetGo port id st ks s = .next (answer s 0xFE 1 [] false) := by
  simp only [execKSetGo, h, hp]
  rfl

theorem execKSetStop_of_session : execKSetStop port id st ks s =
    .next (answer { s with gth := { s.gth with ide := s.gth.ide.filter (fun i => !sameSet port st ks i) } } 0xFE 0 [] false) := by
  simp only [execKSetStop, h]
  rfl

theorem execQuery_of_session : execQuery port id s =
    .next (answer s 0xFE 0 ((s.gth.ide.filter (fun i => i.port == port)).map (fun i =>
      (i.stream, natLe 1 i.kset ++ natLe 1 i.vf ++ natLe 1 (b2n i.active)))) false) := by
  simp only [execQuery, h]
  rfl

end ide

/-! ### TENANT_SETUP, BIND_CONTEXT and GET_USAGE_HEAD (R380, R447) -/

theorem bindable (hc : leNat (pl.take 1) < 64)
    (hst : (s.ctx (64 * p + leNat (pl.take 1))).state = .open ∨ (s.ctx (64 * p + leNat (pl.take 1))).state = .stopped)
    (hf : (s.ctx (64 * p + leNat (pl.take 1))).q.sqFmt = 2) (hv : (s.ctx (64 * p + leNat (pl.take 1))).vf = vf) :
    (decide (64 ≤ leNat (pl.take 1)) || !((s.ctx (64 * p + leNat (pl.take 1))).state == .open ||
    (s.ctx (64 * p + leNat (pl.take 1))).state == .stopped) || (s.ctx (64 * p + leNat (pl.take 1))).q.sqFmt != 2 ||
    (s.ctx (64 * p + leNat (pl.take 1))).vf != vf) = false := by
  have hopen : ((s.ctx (64 * p + leNat (pl.take 1))).state == .open || (s.ctx (64 * p + leNat (pl.take 1))).state == .stopped) = true := by
    simpa using hst
  simp [hc, hopen, hf, hv]

section vendor
variable (hp : vendorPart s port vf id = some p)
include hp

section tenant
variable (hl : pl.length = 129) (h4 : (pl.drop 32).getD 0 0 = 4)
include hl h4

theorem execTenantSetup_of_switching (hw : slotSwitching s p = true) :
    execTenantSetup port vf id pl s = .next (answer s 0xFE 1 [] false) := by
  simp only [execTenantSetup, hp, hl, h4, hw]
  rfl

variable (hw : slotSwitching s p = false)
include hw

theorem execTenantSetup_of_none (hk : (slotKeys s p).ptk = none) : execTenantSetup port vf id pl s =
    .next (answer { s with gth := { s.gth with
      slots := Tbl.set s.gth.slots p { slotKeys s p with ptk := some (leNat (pl.take 32)), jck := some (pl.drop 32) } } } 0xFE 0 [] false) := by
  simp only [execTenantSetup, hp, hl, h4, hw, hk]
  rfl

theorem execTenantSetup_of_set (hk : (slotKeys s p).ptk.isSome = true) : execTenantSetup port vf id pl s = .next (answer s 0xFE
    (if (slotKeys s p).ptk = some (leNat (pl.take 32)) ∧ (slotKeys s p).jck = some (pl.drop 32) then 0 else 2) [] false) := by
  simp only [execTenantSetup, hp, hl, h4, hw, hk, Bool.and_eq_true, decide_eq_true_eq]
  rfl

end tenant

section bind
variable (hl : pl.length = 33)
include hl

theorem execBindContext_of_switching (hw : slotSwitching s p = true) :
    execBindContext port vf id pl s = .next (answer s 0xFE 1 [] false) := by
  simp only [execBindContext, hp, hl, hw]
  rfl

variable (hw : slotSwitching s p = false) (hc : leNat (pl.take 1) < 64)
  (hst : (s.ctx (64 * p + leNat (pl.take 1))).state = .open ∨ (s.ctx (64 * p + leNat (pl.take 1))).state = .stopped)
  (hf : (s.ctx (64 * p + leNat (pl.take 1))).q.sqFmt = 2) (hv : (s.ctx (64 * p + leNat (pl.take 1))).vf = vf)
include hw hc hst hf hv

theorem execBindContext_of_unkeyed (hk : (s.ctx (64 * p + leNat (pl.take 1))).keyed = false) : execBindContext port vf id pl s =
    .next (answer (s.setCtx (64 * p + leNat (pl.take 1))
      { s.ctx (64 * p + leNat (pl.take 1)) with keyed := true, key := leNat (pl.drop 1) }) 0xFE 0 [] false) := by
  simp only [execBindContext, hp, hl, hw, bindable hc hst hf hv, hk]
  rfl

theorem execBindContext_of_keyed (hk : (s.ctx (64 * p + leNat (pl.take 1))).keyed = true) :
    execBindContext port vf id pl s = .next (answer s 0xFE 2 [] false) := by
  simp only [execBindContext, hp, hl, hw, bindable hc hst hf hv, hk]
  rfl

end bind

section usage
variable (hl : pl.length = 1) (hc : leNat (pl.take 1) < 64)
include hl hc

theorem execGetUsageHead_of_record {r : UseRec} (hu : (useOf s (64 * p + leNat (pl.take 1))).last = some r) :
    execGetUsageHead port vf id pl s = .next (answer s 0xFE 0 [(0, useBytes r)] false) := by
  simp only [execGetUsageHead, hp, hl, decide_eq_false (Nat.not_le.mpr hc), hu]
  rfl

theorem execGetUsageHead_of_none (hu : (useOf s (64 * p + leNat (pl.take 1))).last = none) :
    execGetUsageHead port vf id pl s = .next (answer s 0xFE 4 [] false) := by
  simp only [execGetUsageHead, hp, hl, decide_eq_false (Nat.not_le.mpr hc), hu]
  rfl

end usage

end vendor

/-! ### PARTITION_ERASE (R380, R381) -/

section erase
variable (hp : erasePart s fn id q = some p)
include hp

theorem execPartitionErase_of_idle (hk : openKeys s p = []) (hd : tdiHeld s p = false) :
    execPartitionErase fn id q s = .next (answer (cryptoErase s p) 0xFE 0 [] false) := by
  simp only [execPartitionErase, hp, hk, hd]
  rfl

theorem execPartitionErase_of_busy (h : openKeys s p ≠ [] ∨ tdiHeld s p = true) :
    execPartitionErase fn id q s = .next (answer s 0xFE 3 [] false) := by
  have hbusy : (!(openKeys s p).isEmpty || tdiHeld s p) = true := by simpa using h
  simp only [execPartitionErase, hp, hbusy]
  rfl

end erase

/-- Settles O52: IDE_KM by its session, the vendor-defined requests by what they find of the slot and the context, and the erase. -/
theorem sessionRequests : Obligations.SessionRequests := by
  unfold Obligations.SessionRequests
  intro s fn port id st ks vf key p q pl c k reply done key1 second
  refine ⟨fun h => ⟨execKeyProg_of_first h, execKeyProg_of_refused h, execKSetGo_of_programmed h, execKSetGo_of_unprogrammed h,
      execKSetStop_of_session h, execQuery_of_session h⟩,
    fun hp => ⟨execTenantSetup_of_switching hp, execBindContext_of_switching hp,
      fun hl h4 hw => ⟨execTenantSetup_of_none hp hl h4 hw, execTenantSetup_of_set hp hl h4 hw⟩,
      fun hl hw hc hst hf hv => ⟨execBindContext_of_unkeyed hp hl hw hc hst hf hv, execBindContext_of_keyed hp hl hw hc hst hf hv⟩,
      fun hl hc => ⟨fun r => execGetUsageHead_of_record hp hl hc, execGetUsageHead_of_none hp hl hc⟩⟩,
    fun hp => ⟨fun hk hd => ⟨_, execPartitionErase_of_idle hp hk hd, rfl, ?erased⟩, execPartitionErase_of_busy hp⟩⟩
  case erased =>
    obtain ⟨hstack, hhost⟩ := cryptoErase_xlate s p
    exact ⟨cryptoErase_job_valid s p, hstack, hhost, fun a ha => not_mem_cryptoErase_stk s p ha⟩

end Sys2Proof.Machine
end

section
/-! SUPPORT. Starts, resets and the loss of the backup cell (R5, R438, R443, R444, R446, R455). -/
namespace Sys2Proof.Machine
open Sys2Proof

variable {s : State} {b : BootIn}

/-! ### Daybreak under way -/

theorem bootOn_of_done (h : b.upTo ≤ s.boot.step) : bootOn b s = s := by
  have hnone : (upto 8).filter (fun n => decide (s.boot.step < n) && decide (n ≤ b.upTo)) = [] := by
    rw [List.filter_eq_nil_iff]
    intro n _
    simp only [Bool.and_eq_true, decide_eq_true_eq]
    omega
  rw [bootOn, hnone]
  rfl

theorem booting_of_down {warm : Bool} (h : s.boot.rails = false) : booting s warm = false := by simp [booting, h]

theorem booting_of_resetLow {warm : Bool} (h : s.pins.resetLow = true) : booting s warm = false := by simp [booting, h]

theorem booting_of_warmOk {warm : Bool} (h : warmOk s = true) : booting s warm = false := by
  simp only [warmOk, Bool.and_eq_true] at h
  simp [booting, h]

/-! ### Cold starts (R438) -/

section cold
variable (hr : s.boot.rails = false) (hq : 100000 ≤ s.alm.inp.okUs)
include hr hq

/-- With the rails down and 48 V qualified the start begins; what follows hangs on RESET_N alone. -/
theorem execInputQualifies_of_down :
    execInputQualifies b s = .next (if (railsUp s).pins.resetLow then railsUp s else bootOn b (railsUp s)) := by
  have hin : (s.boot.rails || decide (s.alm.inp.okUs < 100000)) = false := by simp [hr, hq]
  rw [execInputQualifies, booting_of_down hr, if_neg Bool.false_ne_true, hin, if_neg Bool.false_ne_true]

theorem execInputQualifies_of_held (h : s.pins.resetLow = true) : execInputQualifies b s = .next (railsUp s) := by
  have hl : (railsUp s).pins.resetLow = true := h
  rw [execInputQualifies_of_down hr hq, hl, if_pos rfl]

theorem execInputQualifies_of_released (h : s.pins.resetLow = false) : execInputQualifies b s = .next (bootOn b (railsUp s)) := by
  have hl : (railsUp s).pins.resetLow = false := h
  rw [execInputQualifies_of_down hr hq, hl, if_neg Bool.false_ne_true]

end cold

theorem execInputQualifies_of_booting (h : booting s false = true) : execInputQualifies b s = .next (bootOn b s) := by
  rw [execInputQualifies, h, if_pos rfl]

/-! ### RESET_N (R444, R455) -/

theorem execResetNRelease_of_booting (h : booting s false = true) : execResetNRelease b s = .next (bootOn b s) := by
  rw [execResetNRelease, h, if_pos rfl]

theorem execResetNRelease_of_up (hr : s.boot.rails = true) (hl : s.pins.resetLow = true) : execResetNRelease b s =
    .next (bootOn b (bootOne b (railsUp { s with pins := { s.pins with resetLow := false } }) 2)) := by
  simp only [execResetNRelease, booting_of_resetLow hl, hl, hr]
  rfl

/-- What RESET_N leaves while it is held (R455): the state of a cold start with the rails up and the Almanac's model as it was. -/
def resetHeld (s : State) : State :=
  let x := coldState s
  { x with alm := { s.alm with grants := [], dueQ := [], eligible := [] }, boot := { x.boot with rails := true }
           pins := { x.pins with resetLow := true } }

theorem execResetNAssert_of_up (hr : s.boot.rails = true) : execResetNAssert s = .next (resetHeld s) := by
  simp only [execResetNAssert, hr]
  rfl

/-! ### The warm restart (R446) -/

theorem execWarmRestart_of_booting (h : booting s true = true) : execWarmRestart b s = .next (bootOn b s) := by
  rw [execWarmRestart, h, if_pos rfl]

theorem execWarmRestart_of_ok (h : warmOk s = true) :
    let t := if s.boot.warming = true then s else warmStop s
    execWarmRestart b s = .next (if (upto 16).any (exempt t) then t else warmBoot t b) := by
  simp only [execWarmRestart, booting_of_warmOk h, h]
  rfl

theorem execWarmRestart_of_not_ok (h : warmOk s = false) (hb : booting s true = false) : execWarmRestart b s = .next s := by
  simp only [execWarmRestart, hb, h]
  rfl

/-! ### The backup cell (R5, R413) -/

theorem execBackupCellExhausted_of_early (h : s.boot.rails = true ∨ s.alm.spent < minBackupNs) : execBackupCellExhausted s = .next s := by
  have hearly : (s.boot.rails || decide (s.alm.spent < minBackupNs)) = true := by simpa using h
  rw [execBackupCellExhausted, hearly, if_pos rfl]

theorem execBackupCellExhausted_of_late (hr : s.boot.rails = false) (h : minBackupNs ≤ s.alm.spent) :
    execBackupCellExhausted s = .next { lockModule s with alm := { s.alm with unset := true, spent := backupNs } } := by
  have hlate : (s.boot.rails || decide (s.alm.spent < minBackupNs)) = false := by simp [hr, h]
  rw [execBackupCellExhausted, hlate, if_neg Bool.false_ne_true]

/-- Settles O58: each start and reset by the power, the pins and the Daybreak that it finds. -/
theorem startsAndResets : Obligations.StartsAndResets := by
  unfold Obligations.StartsAndResets
  intro s b
  refine ⟨fun hr hq hl => ⟨execInputQualifies_of_held hr hq hl, rfl, rfl⟩, execInputQualifies_of_released,
    fun h => ⟨execInputQualifies_of_booting h, execResetNRelease_of_booting h⟩, execWarmRestart_of_booting, bootOn_of_done,
    fun hr => ⟨_, execResetNAssert_of_up hr, rfl, rfl, rfl, rfl, rfl, rfl, rfl⟩, execResetNRelease_of_up, execWarmRestart_of_ok,
    execWarmRestart_of_not_ok, execBackupCellExhausted_of_early, execBackupCellExhausted_of_late⟩

end Sys2Proof.Machine
end

section
/-! SUPPORT. Events of the Belvedere (R419 to R426): what taking one leaves as it was. -/
namespace Sys2Proof.Machine
open Sys2Proof

variable (s : State)

theorem sendIrq_irqs_only (port vf vec : Nat) : { sendIrq s port vf vec with irqs := s.irqs } = s := by
  unfold sendIrq
  split <;> rfl

/-- The interrupts of an event change the list of interrupts alone. -/
theorem eventIrqs_irqs_only (sev : Nat) : { eventIrqs s sev with irqs := s.irqs } = s := by
  refine foldl_keeps (fun t : State => { t with irqs := s.irqs }) (fun t n => ?_) (hostPorts s) s
  dsimp only
  split
  · exact congrArg (fun x : State => { x with irqs := s.irqs }) (sendIrq_irqs_only t n 0 _)
  · rfl

/-- What the Belvedere holds once it has taken an event. -/
def notedBlv (line : Nat) (e : Evt) : Belvedere :=
  { s.blv with
    fault := s.blv.fault ||| 2 ^ line, hist := Tbl.set s.blv.hist s.blv.head (histEntry s line e), head := (s.blv.head + 1) % 16
    events := satAdd 64 s.blv.events 1, lastFatal := if e.sev = 3 then histEntry s line e else s.blv.lastFatal
    fatal := s.blv.fatal || e.sev == 3 }

theorem noteEvent_irqs_only (line : Nat) (e : Evt) : { noteEvent s line e with irqs := s.irqs } = { s with blv := notedBlv s line e } :=
  eventIrqs_irqs_only { s with blv := notedBlv s line e } e.sev

theorem noteEvent_blv (line : Nat) (e : Evt) : (noteEvent s line e).blv = notedBlv s line e :=
  congrArg State.blv (noteEvent_irqs_only s line e)

theorem noteEvent_blv_irqs_only (line : Nat) (e : Evt) : { noteEvent s line e with blv := s.blv, irqs := s.irqs } = s :=
  congrArg (fun x : State => { x with blv := s.blv }) (noteEvent_irqs_only s line e)

theorem noteEvent_fatal (line : Nat) {e : Evt} (h : e.sev = 3) :
    (noteEvent s line e).blv.fatal = true ∧ (noteEvent s line e).blv.lastFatal = histEntry s line e := by
  simp [noteEvent_blv, notedBlv, h]

variable {s}

theorem execBelvedereEvent_of_buffered {line : Nat} {e : Evt} {es : List Evt} (h : Tbl.get [] s.blv.bufs line = e :: es) :
    execBelvedereEvent line s = .next (takeEvent { s with blv := { s.blv with bufs := Tbl.set s.blv.bufs line es } } line e) := by
  simp only [execBelvedereEvent, h]

/-- The line of the lowest silent hub unit: schedulers, Almanac or Gatehouse. -/
def silentLine (m : Nat) : Nat := if bit m 0 then 55 else if bit m 1 then 53 else 52

theorem silentLine_mem (m : Nat) : silentLine m ∈ [52, 53, 55] := by
  unfold silentLine
  split
  · simp
  · split <;> simp

theorem execHeartbeatLost_of_silent {n : Nat} (hn : n % 8 ≠ 0) (hr : s.boot.rails = true) (hl : s.pins.resetLow = false) :
    execHeartbeatLost n s = .next (takeEvent s (silentLine (n % 8)) (evtNone 0x050 3 0xFF (n % 8))) := by
  simp [execHeartbeatLost, hn, hr, hl, silentLine]

theorem execAliveToggle_of_ok (h : aliveOk s = true) :
    execAliveToggle s = .next { s with blv := { s.blv with alive := !s.blv.alive } } := by
  rw [execAliveToggle, if_pos h]

/-- Settles O56: what taking an event changes is the Belvedere's record of it and its interrupts. -/
theorem events : Obligations.Events := by
  unfold Obligations.Events
  intro s line n e es
  refine ⟨execBelvedereEvent_of_buffered, ?noted, rfl, fun hn hr hl => ?lost, execAliveToggle_of_ok⟩
  case noted =>
    refine ⟨?_, ?_, ?_, ?_, noteEvent_fatal s line, noteEvent_blv_irqs_only s line e⟩ <;> rw [noteEvent_blv]
    · rfl
    · exact Tbl.get_set_same ..
    · rfl
    · rfl
  case lost =>
    obtain ⟨hfatal, -⟩ := noteEvent_fatal s (silentLine (n % 8)) (e := evtNone 0x050 3 0xFF (n % 8)) rfl
    exact ⟨_, _, silentLine_mem _, execHeartbeatLost_of_silent hn hr hl, rfl, hfatal⟩

end Sys2Proof.Machine
end

section
/-! SUPPORT. The check units (R432 to R435, R437). -/
namespace Sys2Proof.Machine
open Sys2Proof

variable {s t v : State} {c : ChkUnit} {fn : Fn} {u : Nat}

/-! ### What an operation on a unit leaves -/

/-- From `s` to `t` no unit but `u` changes, and nothing else but the Belvedere's buffers and the interrupts. -/
def TouchesUnit (u : Nat) (s t : State) : Prop :=
  { t with units := { t.units with chk := s.units.chk }, blv := s.blv, irqs := s.irqs } = s ∧ ∀ w, w ≠ u → t.chk w = s.chk w

theorem TouchesUnit.refl (u : Nat) (s : State) : TouchesUnit u s s := ⟨rfl, fun _ _ => rfl⟩

theorem TouchesUnit.trans (h : TouchesUnit u s t) (h' : TouchesUnit u t v) : TouchesUnit u s v := by
  obtain ⟨hrest, hunits⟩ := h
  obtain ⟨hrest', hunits'⟩ := h'
  refine ⟨?_, fun w hw => (hunits' w hw).trans (hunits w hw)⟩
  exact (congrArg (fun x : State => { x with units := { x.units with chk := s.units.chk }, blv := s.blv, irqs := s.irqs }) hrest').trans hrest

theorem touchesUnit_setChk (u : Nat) (s : State) (c : ChkUnit) : TouchesUnit u s (s.setChk u c) :=
  ⟨rfl, fun _ => s.setChk_chk_ne u c⟩

theorem touchesUnit_sendIrq (port vf vec : Nat) : TouchesUnit u s (sendIrq s port vf vec) := by
  unfold sendIrq
  split
  · exact .refl u s
  · exact ⟨rfl, fun _ _ => rfl⟩

theorem touchesUnit_unitIrq : TouchesUnit u s (unitIrq s c) := by
  unfold unitIrq
  split
  · exact .refl u s
  · split <;> exact touchesUnit_sendIrq ..

theorem touchesUnit_report (line : Nat) (e : Evt) : TouchesUnit u s (report s line e) := by
  unfold report
  dsimp only
  split <;> exact ⟨rfl, fun _ _ => rfl⟩

/-! ### Error bits (R434) -/

theorem bit_add_self {e b : Nat} (h : bit e b = false) : bit (e + 2 ^ b) b = true := by
  simp only [bit, beq_eq_false_iff_ne, beq_iff_eq, Nat.add_div_right _ (Nat.two_pow_pos b)] at h ⊢
  omega

theorem bit_zero_add {e b : Nat} (hb : b ≠ 0) : bit (e + 2 ^ b) 0 = bit e 0 := by
  obtain ⟨n, rfl⟩ := Nat.exists_eq_succ_of_ne_zero hb
  simp [bit, Nat.pow_succ]

/-- A unit once error bit `b` of it is set. -/
def raised (c : ChkUnit) (b : Nat) : ChkUnit :=
  { c with errs6 := if bit c.errs6 b then c.errs6 else c.errs6 + 2 ^ b, setBits := if c.isOpen then c.setBits ||| 2 ^ b else c.setBits }

theorem bit_raised_self (c : ChkUnit) (b : Nat) : bit (raised c b).errs6 b = true := by
  unfold raised
  dsimp only
  split
  · assumption
  · exact bit_add_self (Bool.eq_false_of_not_eq_true ‹_›)

theorem bit_zero_raised (c : ChkUnit) {b : Nat} (hb : b ≠ 0) : bit (raised c b).errs6 0 = bit c.errs6 0 := by
  unfold raised
  dsimp only
  split
  · rfl
  · exact bit_zero_add hb

theorem setErr_eq (s : State) (u b : Nat) : setErr s u b =
    if bit (s.chk u).errs6 b then s.setChk u (raised (s.chk u) b)
    else report (unitIrq (s.setChk u (raised (s.chk u) b)) (raised (s.chk u) b)) 57 (evtNone 0x070 0 u (raised (s.chk u) b).errs6) := rfl

theorem touchesUnit_setErr (s : State) (u b : Nat) : TouchesUnit u s (setErr s u b) := by
  rw [setErr_eq]
  split
  · exact touchesUnit_setChk ..
  · exact ((touchesUnit_setChk ..).trans touchesUnit_unitIrq).trans (touchesUnit_report ..)

theorem unitIrq_chk (w : Nat) : (unitIrq s c).chk w = s.chk w := by
  unfold unitIrq
  simp only [State.chk]
  split
  · rfl
  · split <;> rw [sendIrq_units]

theorem setErr_chk (s : State) (u b : Nat) : (setErr s u b).chk u = raised (s.chk u) b := by
  rw [setErr_eq]
  split
  · exact State.setChk_chk ..
  · rw [State.chk, report_units, ← State.chk, unitIrq_chk]
    exact State.setChk_chk ..

/-! ### Operations of the owner -/

theorem drain_none (c : ChkUnit) : drain c 0 = c := rfl

/-- An operation with no entry fed on the way runs on the unit as it stands. -/
theorem withUnit_of_owner {f : State → ChkUnit → State} (h : ownsUnit s fn u = true) :
    withUnit s fn u 0 f = .next (f (s.setChk u (s.chk u)) (s.chk u)) := by
  simp only [withUnit, h, drain_none]
  rfl

/-- Setting the unit again after it was put back as it stood. -/
theorem setChk_again (s : State) (u : Nat) (c d : ChkUnit) :
    let t := (s.setChk u c).setChk u d
    t.chk u = d ∧ { t with units := { t.units with chk := s.units.chk } } = s ∧ ∀ w, w ≠ u → t.chk w = s.chk w := by
  refine ⟨State.setChk_chk .., rfl, fun w hw => ?_⟩
  rw [State.setChk_chk_ne _ _ _ hw, State.setChk_chk_ne _ _ _ hw]

section owner
variable (h : ownsUnit s fn u = true)
include h

theorem execChkStart_of_closed {alive : Nat} (hc : (s.chk u).isOpen = false) : execChkStart fn u alive 0 s =
    .next ((s.setChk u (s.chk u)).setChk u { s.chk u with
      isOpen := true, crc := crcInit (s.chk u).alg, rcv := alive % 256, setBits := 0
      queue := if (s.chk u).alvIn then [natLe 1 (alive % 256)] else [] }) := by
  simp only [execChkStart, withUnit_of_owner h, hc]
  rfl

theorem feedWrite_of_open {v n : Nat} (hc : (s.chk u).isOpen = true) (hq : (s.chk u).queue.length < 16) : feedWrite s fn u v 0 n =
    .next ((s.setChk u (s.chk u)).setChk u { s.chk u with queue := (s.chk u).queue ++ [natLe n (v % 2 ^ (8 * n))] }) := by
  simp only [feedWrite, withUnit_of_owner h, hc, if_neg (Nat.not_le.mpr hq)]
  rfl

theorem execChkReset_of_owner : execChkReset fn u s =
    .next ((s.setChk u (s.chk u)).setChk u (chkReset (s.chk u) true)) := by
  rw [execChkReset, withUnit_of_owner h]

end owner

/-! ### END (R434) -/

/-- The unit of an open record once its feeds have entered the CRC and its result stands. -/
def withResult (c : ChkUnit) : ChkUnit := { drain c 16 with res := crcOut c.alg (drain c 16).crc }

/-- And once its result and its alive counter are checked. -/
def checkedUnit (c : ChkUnit) : ChkUnit :=
  let d := if mismatch (drain c 16) (withResult c).res then raised (withResult c) 0 else withResult c
  match aliveErr c with
  | some b => raised d b
  | none => d

/-- And once its record is closed. -/
def closedUnit (c : ChkUnit) : ChkUnit :=
  let d := checkedUnit c
  { d with isOpen := false, base := true, last := if aliveErr c = some 1 then d.last else d.rcv
           recs := inc32 d.recs, errCnt := if d.setBits = 0 then d.errCnt else inc32 d.errCnt, setBits := 0 }

/-- The errors of END on the state: the result's, then the alive counter's. -/
def endErrs (s : State) (u : Nat) (c : ChkUnit) : State :=
  let t := if mismatch (drain c 16) (withResult c).res then setErr s u 0 else s
  match aliveErr c with
  | some b => setErr t u b
  | none => t

theorem endErrs_unit (hu : s.chk u = withResult c) : TouchesUnit u s (endErrs s u c) ∧ (endErrs s u c).chk u = checkedUnit c := by
  have hres : ∀ m : Bool, TouchesUnit u s (if m then setErr s u 0 else s) ∧
      (if m then setErr s u 0 else s).chk u = if m then raised (withResult c) 0 else withResult c
    | true => ⟨touchesUnit_setErr .., by rw [← hu]; exact setErr_chk ..⟩
    | false => ⟨.refl u s, hu⟩
  obtain ⟨htouch, hchk⟩ := hres (mismatch (drain c 16) (withResult c).res)
  unfold endErrs checkedUnit
  cases aliveErr c with
  | none => exact ⟨htouch, hchk⟩
  | some b => exact ⟨htouch.trans (touchesUnit_setErr ..), by rw [← hchk]; exact setErr_chk ..⟩

theorem execChkEnd_of_open (h : ownsUnit s fn u = true) (hc : (s.chk u).isOpen = true) :
    ∃ t, execChkEnd fn u 0 s = .next t ∧ TouchesUnit u s t ∧ t.chk u = closedUnit (s.chk u) := by
  let s₁ := (s.setChk u (s.chk u)).setChk u (withResult (s.chk u))
  have h₁ : TouchesUnit u s s₁ := (touchesUnit_setChk ..).trans (touchesUnit_setChk ..)
  obtain ⟨h₂, hchk⟩ := endErrs_unit (State.setChk_chk _ u (withResult (s.chk u)) : s₁.chk u = withResult (s.chk u))
  refine ⟨(endErrs s₁ u (s.chk u)).setChk u (closedUnit (s.chk u)), ?_, (h₁.trans h₂).trans (touchesUnit_setChk ..), State.setChk_chk ..⟩
  rw [closedUnit, ← hchk]
  simp only [execChkEnd, withUnit_of_owner h, hc]
  rfl

theorem aliveErr_eq_some_one : aliveErr c = some 1 ↔ c.base = true ∧ c.rcv = c.last := by
  unfold aliveErr
  by_cases hb : c.base = true <;> simp [hb]

theorem aliveErr_ne_some_zero : aliveErr c ≠ some 0 := by
  unfold aliveErr
  split
  · simp
  · split
    · simp
    · split <;> simp

/-- The check of the result changes no more of a unit than its error bits, and a result that differs leaves error bit 0 set. -/
theorem raised_if_eq (d : ChkUnit) (m : Bool) :
    ∃ e b, (if m then raised d 0 else d) = { d with errs6 := e, setBits := b } ∧ (bit e 0 = true ∨ m = false) := by
  cases m with
  | true => exact ⟨_, _, rfl, .inl (bit_raised_self d 0)⟩
  | false => exact ⟨_, _, rfl, .inr rfl⟩

/-- Nor does the check of the alive counter, which leaves error bit 0. -/
theorem checkedUnit_eq (c : ChkUnit) : ∃ e b, checkedUnit c = { withResult c with errs6 := e, setBits := b } ∧
    (bit e 0 = true ∨ mismatch (drain c 16) (withResult c).res = false) := by
  obtain ⟨e, b, heq, hbit⟩ := raised_if_eq (withResult c) (mismatch (drain c 16) (withResult c).res)
  unfold checkedUnit
  rw [heq]
  cases ha : aliveErr c with
  | none => exact ⟨e, b, rfl, hbit⟩
  | some n =>
    have hn : n ≠ 0 := fun h0 => aliveErr_ne_some_zero (ha.trans (congrArg some h0))
    refine ⟨_, _, rfl, hbit.imp_left fun h => ?_⟩
    exact (bit_zero_raised { withResult c with errs6 := e, setBits := b } hn).trans h

/-- The unit after END, in the terms of R434. -/
theorem closedUnit_eq (hq : c.queue.length ≤ 16) : ∃ e n, closedUnit c = { c with
      crc := c.queue.foldl (crcFeed c.alg) c.crc, queue := [], res := crcOut c.alg (c.queue.foldl (crcFeed c.alg) c.crc)
      isOpen := false, base := true, last := if c.base = true ∧ c.rcv = c.last then c.last else c.rcv
      errs6 := e, setBits := 0, recs := inc32 c.recs, errCnt := n } ∧
    (bit e 0 = true ∨ c.exp % 2 ^ crcWidth c.alg = crcOut c.alg (c.queue.foldl (crcFeed c.alg) c.crc)) := by
  obtain ⟨e, b, heq, hbit⟩ := checkedUnit_eq c
  have hdrain : drain c 16 = { c with crc := c.queue.foldl (crcFeed c.alg) c.crc, queue := [] } := by
    rw [drain, List.take_of_length_le hq, List.drop_of_length_le hq]
  refine ⟨e, if b = 0 then c.errCnt else inc32 c.errCnt, ?_, hbit.imp_right fun h => ?_⟩
  · simp only [closedUnit, heq, withResult, hdrain, aliveErr_eq_some_one]
  · simpa [mismatch, withResult, hdrain] using h

/-! ### Assignment, crypto-erase and cold start (R432, R435) -/

theorem execChkAssign_of_closed {port v : Nat} (hp : bit (hostMask s.var) port = true) (hs : s.shut = false) (hu : u < 32)
    (hc : (s.chk u).isOpen = false) : execChkAssign (.mgmt port) u v s = .next (s.setChk u
      (chkReset { s.chk u with toPart := bit v 31, port := bits v 8 2, part := bits v 0 4 } false)) := by
  simp [execChkAssign, hp, hs, hu, hc]

/-- A check unit after the crypto-erase of a partition: its own are reset. -/
def erasedUnit (p : Nat) (c : ChkUnit) : ChkUnit := if c.toPart && c.part == p then chkReset c false else c

theorem cryptoErase_find_chk (s : State) (p u : Nat) :
    Tbl.find (cryptoErase s p).units.chk u = (Tbl.find s.units.chk u).map (erasedUnit p) := by
  rw [cryptoErase_chk, ← Tbl.find_map_snd]
  refine congrArg (Tbl.find · u) (List.map_congr_left fun x _ => ?_)
  unfold erasedUnit
  split <;> rfl

theorem cryptoErase_chk_of_mine (h : (s.chk u).toPart = true) : (cryptoErase s (s.chk u).part).chk u = chkReset (s.chk u) false := by
  have hget : (Tbl.find s.units.chk u).getD {} = s.chk u := rfl
  rw [State.chk, Tbl.get, cryptoErase_find_chk]
  cases hfind : Tbl.find s.units.chk u with
  | none =>
    rw [← hget, hfind] at h
    cases h
  | some d =>
    rw [hfind, Option.getD_some] at hget
    rw [Option.map_some, Option.getD_some, hget]
    simp [erasedUnit, h]

/-- A feed write by the width of its instruction. -/
theorem exec_feed {v n : Nat} {i : Instr} (hi : (i, n) ∈ [(Instr.chkD8 fn u v 0, 1), (.chkD16 fn u v 0, 2), (.chkD32 fn u v 0, 4)]) :
    exec i s = feedWrite s fn u v 0 n := by
  simp only [List.mem_cons, Prod.mk.injEq, List.not_mem_nil, or_false] at hi
  obtain ⟨rfl, rfl⟩ | ⟨rfl, rfl⟩ | ⟨rfl, rfl⟩ := hi <;> rfl

/-- Settles O57: every operation sets its unit alone; END closes it with the errors that R434 names, and a reset leaves no more than its kind keeps. -/
theorem checkUnits : Obligations.CheckUnits := by
  unfold Obligations.CheckUnits
  intro s fn port u v alive c cleared others sameCfg
  refine ⟨fun h => ⟨fun hc => ⟨_, execChkStart_of_closed h hc, setChk_again ..⟩,
      fun i n hi hc hq => ⟨_, (exec_feed hi).trans (feedWrite_of_open h hc hq), setChk_again ..⟩, fun hc hq => ?close, ?reset⟩,
    fun hp hs hu hc => ?assign, fun h => ?erase, ⟨rfl, rfl, rfl, rfl, rfl, rfl, rfl⟩, rfl, rfl, rfl, rfl⟩
  case close =>
    obtain ⟨t, hexec, ⟨hrest, hunits⟩, hchk⟩ := execChkEnd_of_open h hc
    obtain ⟨e, n, heq, hres⟩ := closedUnit_eq hq
    rw [heq] at hchk
    refine ⟨t, hexec, hrest, hunits, ?_⟩
    rw [hchk]
    exact ⟨⟨rfl, rfl, rfl, rfl⟩, rfl, rfl, rfl, rfl, rfl, rfl, hres⟩
  case reset =>
    obtain ⟨hchk, hrest, hunits⟩ := setChk_again s u (s.chk u) (chkReset (s.chk u) true)
    refine ⟨_, execChkReset_of_owner h, hrest, hunits, ?_⟩
    rw [hchk]
    exact ⟨⟨rfl, rfl, rfl, rfl, rfl, rfl, rfl⟩, ⟨rfl, rfl, rfl, rfl⟩, rfl, rfl, rfl⟩
  case assign =>
    refine ⟨_, execChkAssign_of_closed hp hs hu hc, rfl, ?_⟩
    rw [State.setChk_chk]
    exact ⟨⟨rfl, rfl, rfl, rfl, rfl, rfl, rfl⟩, ⟨rfl, rfl, rfl, rfl⟩, rfl, rfl, rfl, fun w => s.setChk_chk_ne u _⟩
  case erase =>
    rw [cryptoErase_chk_of_mine h]
    exact ⟨⟨rfl, rfl, rfl, rfl, rfl, rfl, rfl⟩, rfl, rfl, rfl, rfl⟩

end Sys2Proof.Machine
end

section
/-! SUPPORT. The Almanac's tick, its model and the grants of credit (R404, R405, R407 to R410). -/
namespace Sys2Proof.Machine
open Sys2Proof

variable {s : State} {i : TickIn} {r : Request} {k id : Nat}

/-! ### The model (R404, R405, R407) -/

theorem Tbl.get_map_of_mem {α : Type} (d : α) (f : Nat → α) {n : Nat} {l : List Nat} (h : n ∈ l) :
    Tbl.get d (l.map fun x => (x, f x)) n = f n := by
  induction l with
  | nil => cases h
  | cons x l ih =>
    simp only [Tbl.get, List.map_cons, Tbl.find] at ih ⊢
    by_cases hx : n = x
    · rw [if_pos hx, hx]
      rfl
    · rw [if_neg hx]
      exact ih ((List.mem_cons.mp h).resolve_left hx)

@[simp] theorem report_alm (line : Nat) (e : Evt) : (report s line e).alm = s.alm := by
  unfold report
  dsimp only
  split <;> rfl

/-- The Almanac once its model has advanced. -/
def tickedAlm (s : State) (i : TickIn) : Almanac :=
  let a := s.alm
  let peff := effCap a.pw.cap i.tin
  let cap : Rat := (1000 * a.pw.depthJ : Nat)
  let phys : Rat := if a.measured then a.phys else i.charge
  { a with
    tin := i.tin, tdie := (upto (dieCount s.var)).map (fun d => (d, dieTick i (Tbl.get 0 a.tdie d) d))
    sens := (upto (dieCount s.var)).map (fun d => (d, i.sens.getD d 0))
    phys := phys, charge := phys, measured := true, peff := peff, bfr := if cap < a.bfr + peff / 10 then cap else a.bfr + peff / 10 }

theorem modelTick_alm : (modelTick s i).alm = tickedAlm s i := by
  unfold modelTick
  dsimp only
  split
  · rw [report_alm]
    rfl
  · rfl

theorem tickedAlm_tdie {d : Nat} (h : d < dieCount s.var) : Tbl.get 0 (tickedAlm s i).tdie d = dieTick i (Tbl.get 0 s.alm.tdie d) d :=
  Tbl.get_map_of_mem 0 _ (List.mem_range.mpr h)

theorem effCap_of_cool {cap : Nat} {t : Int} (h : t ≤ 720) : effCap cap t = cap := by rw [effCap, if_pos h]

/-- From 55 °C at the inlet nothing is left of the cap: its line meets zero there. -/
theorem effCap_of_hot {cap : Nat} {t : Int} (h : 880 ≤ t) : effCap cap t = 0 := by
  have ht : (880 : Rat) ≤ (t : Rat) := by exact_mod_cast h
  have hslope : 1 - ((t : Rat) / 16 - 45) / 10 ≤ 0 := by linarith
  rw [effCap, if_neg (by omega), max_eq_left]
  exact mul_nonpos_of_nonneg_of_nonpos (Nat.cast_nonneg cap) hslope

theorem execAlmanacTick_of_up (h : s.boot.rails = true) :
    let m := (upto 16).foldl (fun s p => if (s.entry p).used then meterTick s i p else s) (modelTick s i)
    let u := grantAll (waitTick { m with alm := { m.alm with ran := [], late := [], samples := 0 } })
    execAlmanacTick i s = .next { u with alm := clockTick u.var u.alm } := by
  simp only [execAlmanacTick, h]
  rfl

/-! ### Grants (R409, R410) -/

theorem est_le_of_grantable (h : grantable s r = true) : (r.est : Rat) ≤ s.alm.bfr ∧ (r.est : Rat) ≤ bth s := by
  simp only [grantable, Bool.and_eq_true, decide_eq_true_eq] at h
  obtain ⟨⟨⟨-, hframe⟩, hthermal⟩, -⟩ := h
  exact ⟨hframe, hthermal⟩

@[simp] theorem setCandPhase_alm (c : Cand) (ph : CmdPhase) : (setCandPhase s c ph).alm = s.alm := by
  unfold setCandPhase
  split <;> rfl

/-- Whatever the kind of the request, a grant takes its estimate from the frame credit. -/
theorem doGrant_bfr : (doGrant s r).alm.bfr = s.alm.bfr - r.est := by
  unfold doGrant
  cases r.kind with
  | core c => exact congrArg (fun a : Almanac => a.bfr - r.est) (setCandPhase_alm c .granted)
  | sweep => rfl
  | rebuild => rfl

theorem execCommandDue_of_waiting {m : Cmd} (hq : s.alm.dueQ.contains (k, id) = false)
    (hw : (allWaiters s).any (fun r => r.key == k && r.cmd == id) = true)
    (hm : (s.ctx k).q.cmds.find? (fun m => m.id == id) = some m) (hdue : s.alm.pw.dueUs ≤ m.waitUs ∨ 4 ≤ m.bypass) :
    let t := updCmd s k id (fun m => { m with due := true })
    execCommandDue k id s = .next { t with alm := { t.alm with dueQ := t.alm.dueQ ++ [(k, id)], dueCnt := inc32 t.alm.dueCnt } } := by
  have hlate : (decide (m.waitUs < s.alm.pw.dueUs) && decide (m.bypass < 4)) = false := by
    rw [Bool.and_eq_false_iff, decide_eq_false_iff_not, decide_eq_false_iff_not]
    exact hdue.imp Nat.not_lt.mpr Nat.not_lt.mpr
  simp only [execCommandDue, hq, hw, hm, hlate]
  rfl

/-- While the first due request cannot be granted, nothing is. -/
theorem grantAll_of_due {rs : List Request} (hd : dueIn s (allWaiters s) = r :: rs) (hr : asksNow s r = false ∨ grantable s r = false) :
    grantAll s = s := by
  have hno : ¬ (asksNow s r && grantable s r) = true := by simpa [imp_iff_not_or] using hr
  have hstay : grantDue (r :: rs) s = s := by rw [grantDue, if_neg hno]
  rw [grantAll, hd, hstay, hd]
  rfl

/-- Settles O55: the tick, the Almanac after it, and the grants as the due requests allow them. -/
theorem energyCredit : Obligations.EnergyCredit := by
  unfold Obligations.EnergyCredit
  intro s i k id m r
  refine ⟨execAlmanacTick_of_up, ?model, fun h => ?grant, effCap_of_cool, effCap_of_hot, execCommandDue_of_waiting,
    fun rs => grantAll_of_due⟩
  case model =>
    rw [modelTick_alm]
    exact ⟨rfl, rfl, rfl, rfl, rfl, fun d => tickedAlm_tdie⟩
  case grant =>
    obtain ⟨hframe, hthermal⟩ := est_le_of_grantable h
    exact ⟨hframe, hthermal, doGrant_bfr⟩

end Sys2Proof.Machine
end

section
/-! SUPPORT. What sending and dropping packets leaves (R295, R299, R321, R323): the ports, the Trellis counters, the Belvedere's
buffers, the alert of a job and the events of its contexts are all that it changes. -/
namespace Sys2Proof.Machine
open Sys2Proof

variable {β : Type} {g : State → β}

/-- `g` reads nothing that the sending or dropping of a packet changes. -/
structure KeptByLinks (g : State → β) : Prop where
  blv : ∀ t b, g { t with blv := b } = g t
  counts : ∀ (t : State) l u, g { t with trl := { t.trl with linkLoss := l, unroute := u } } = g t
  prot : ∀ (t : State) p x, g (t.setProt p x) = g t
  ctx : ∀ (t : State) k c l, g { t.setCtx k c with irqs := l } = g t
  queue : ∀ t n o, g (queueUnits t n o) = g t

namespace KeptByLinks

variable (h : KeptByLinks g) (s : State)
include h

theorem report (line : Nat) (e : Evt) : g (report s line e) = g s := by
  unfold Machine.report
  dsimp only
  split <;> exact h.blv ..

theorem ctxEvent (k b : Nat) : g (ctxEvent s k b) = g s := by
  obtain ⟨e, l, heq | heq⟩ := ctxEvent_eq s k b
  · rw [heq]
    exact h.ctx ..
  · rw [heq]

theorem jobAlert (p : Nat) : g (jobAlert s p) = g s := by
  refine (foldl_keeps g (fun t c => ?_) _ _).trans (h.prot ..)
  split
  · rfl
  · exact h.ctxEvent ..

theorem unroute (dir dst job : Nat) : g (unroute s dir dst job) = g s := by
  have hcount := (h.report { s with trl := { s.trl with unroute := inc32 s.trl.unroute } } (32 + (dirPorts s dir).headD 0)
    (evtNone 0x022 1 ((dirPorts s dir).headD 0) (dst % 1024))).trans (h.counts s s.trl.linkLoss _)
  unfold Machine.unroute
  dsimp only
  split
  · exact (h.jobAlert ..).trans hcount
  · exact hcount

theorem launchOut (o : Outgoing) : g (launchOut s o) = g s := by
  unfold Machine.launchOut
  split
  case h_1 => rfl
  case h_2 => exact h.unroute ..
  case h_3 => exact h.queue ..

theorem linkDrop (n packets : Nat) (jobs : List Nat) : g (linkDrop s n packets jobs) = g s := by
  unfold Machine.linkDrop
  dsimp only
  split
  · rfl
  · refine (foldl_keeps g (fun t j => ?_) _ _).trans ((h.report ..).trans (h.counts s _ s.trl.unroute))
    split
    · exact h.jobAlert ..
    · rfl

/-- A port that goes down drops and sends packets, and starts with a fresh link. -/
theorem portDown (n : Nat) (jobs : List Nat) :
    g (portDown s n jobs) = g (s.setTport n { freshLink (s.tport n) with state := 2, lanes := 0, sendq := [] }) :=
  (foldl_keeps g (h.launchOut · ·) _ _).trans (h.linkDrop ..)

end KeptByLinks

theorem keptByLinks_pins : KeptByLinks State.pins where
  blv _ _ := rfl
  counts _ _ _ := rfl
  prot _ _ _ := rfl
  ctx _ _ _ _ := rfl
  queue _ _ _ := rfl

theorem keptByLinks_alm : KeptByLinks State.alm where
  blv _ _ := rfl
  counts _ _ _ := rfl
  prot _ _ _ := rfl
  ctx _ _ _ _ := rfl
  queue _ _ _ := rfl

/-- The link state of a port: what waits at a port or leaves it does not change it. -/
theorem keptByLinks_link (m : Nat) : KeptByLinks fun t => (t.tport m).state where
  blv _ _ := rfl
  counts _ _ _ := rfl
  prot _ _ _ := rfl
  ctx _ _ _ _ := rfl
  queue t n o := by
    by_cases hm : m = n
    · rw [hm, queueUnits, State.setTport_tport, drainPort_state]
    · rw [queueUnits, State.setTport_tport_ne _ _ _ hm]

/-! ### Ports that go down (R292) -/

theorem portDown_state (s : State) (n : Nat) (jobs : List Nat) (m : Nat) :
    ((portDown s n jobs).tport m).state = if m = n then 2 else (s.tport m).state := by
  rw [(keptByLinks_link m).portDown]
  split
  · rename_i hm
    rw [hm, State.setTport_tport]
  · rename_i hm
    rw [State.setTport_tport_ne _ _ _ hm]

theorem portDown_pins (s : State) (n : Nat) (jobs : List Nat) : (portDown s n jobs).pins = s.pins := keptByLinks_pins.portDown s n jobs

theorem cablePort_pins (jobs : List Nat) (s : State) (n : Nat) : (cablePort jobs s n).pins = s.pins := by
  unfold cablePort
  split
  · exact (keptByLinks_pins.report ..).trans (portDown_pins ..)
  · rfl

/-- The port of a removed cable is down afterwards, and so is every port that was down before. -/
theorem portUp_cablePort (jobs : List Nat) (s : State) (n m : Nat) :
    portUp ((cablePort jobs s n).tport m) = if m = n then false else portUp (s.tport m) := by
  unfold cablePort
  split
  · rw [report_tport, portUp, portDown_state]
    split <;> rfl
  · rename_i hn
    split
    · rename_i hm
      rw [hm]
      exact Bool.eq_false_of_not_eq_true hn
    · rfl

theorem portUp_cablePorts_of_mem (jobs ns : List Nat) (s : State) {m : Nat} (h : m ∈ ns ∨ portUp (s.tport m) = false) :
    portUp ((ns.foldl (cablePort jobs) s).tport m) = false := by
  induction ns generalizing s with
  | nil => exact h.resolve_left List.not_mem_nil
  | cons n ns ih =>
    refine ih _ ?_
    rw [portUp_cablePort]
    by_cases hm : m = n
    · exact .inr (if_pos hm)
    · rw [if_neg hm]
      exact h.imp_left fun hmem => (List.mem_cons.mp hmem).resolve_left hm

end Sys2Proof.Machine
end

section
/-! SUPPORT. The configuration flash (R448): its registers, and the bytes that an operation reaches. -/
namespace Sys2Proof.Machine
open Sys2Proof

variable {s : State} {fn : Fn} {n a : Nat}

theorem Mem.rd_wrN_in (bs : Bytes) (m : Mem) (a : Nat) {i : Nat} (h : i < bs.length) : Mem.rd (Mem.wrN m a bs) (a + i) = bs[i] := by
  induction bs generalizing m a i with
  | nil => cases h
  | cons b bs ih =>
    cases i with
    | zero => rw [Mem.wrN, Mem.rd_wrN_out bs _ (.inl (by omega))]; exact Mem.rd_wr_same ..
    | succ i =>
      have ha : a + (i + 1) = (a + 1) + i := by omega
      rw [Mem.wrN, ha, ih _ _ (Nat.lt_of_succ_lt_succ h)]
      rfl

/-! ### Issue (R448) -/

section registers
variable (h : flashFn s fn = true)
include h

theorem execSectorErase_of_flashFn :
    execSectorErase fn s = .next (flashIssue s 1 (flashAddr s (s.boot.flAddr / 65536 * 65536))) := by
  simp only [execSectorErase, h]
  rfl

theorem execPageProgram_of_flashFn : execPageProgram fn s =
    .next (flashIssue s 2 (flashAddr s ((s.boot.flAddr + 0x10000000 - 4) % 0x10000000 / 256 * 256))) := by
  simp only [execPageProgram, h]
  rfl

theorem execCfgFlData_of_flashFn (v : Nat) : execCfgFlData fn v s = .next { s with boot := { s.boot with
    flBuf := Mem.wrN s.boot.flBuf (s.boot.flAddr / 4 * 4 % 256) (natLe 4 v), flAddr := (s.boot.flAddr + 4) % 0x10000000 } } := by
  simp only [execCfgFlData, h]
  rfl

end registers

theorem flashIssue_of_idle (hb : s.boot.flBusy = false) (ha : s.boot.bank = 0 ∨ s.boot.bank ≠ s.boot.flTarget + 1) :
    flashIssue s n a = { s with boot := { s.boot with flBusy := true, flOp := some (n, a) } } := by
  have hfree : (s.boot.flBusy || (s.boot.bank != 0 && s.boot.bank == s.boot.flTarget + 1)) = false := by
    simpa [hb, or_iff_not_imp_left] using ha
  rw [flashIssue, hfree]
  rfl

theorem flashIssue_of_refused (h : s.boot.flBusy = true ∨ (s.boot.bank ≠ 0 ∧ s.boot.bank = s.boot.flTarget + 1)) :
    flashIssue s n a = { s with boot := { s.boot with flErr := true } } := by
  have hrefuse : (s.boot.flBusy || (s.boot.bank != 0 && s.boot.bank == s.boot.flTarget + 1)) = true := by simpa using h
  rw [flashIssue, hrefuse]
  rfl

/-! ### Bytes -/

theorem flashPut_byte_out {bs : Bytes} {i : Nat} (h : i < a ∨ a + bs.length ≤ i) : flashByte (flashPut s a bs) i = flashByte s i := by
  rw [flashByte, flashPut, Mem.rd_wrN_out _ _ (by simpa using h)]
  rfl

theorem flashPut_byte_in {bs : Bytes} {i : Nat} (h : i < bs.length) : flashByte (flashPut s a bs) (a + i) = bs[i] := by
  rw [flashByte, flashPut, Mem.rd_wrN_in _ _ _ (by simpa using h), List.getElem_map, BitVec.not_not]

/-- The flash registers once an operation has ended. -/
def flashEnded (s : State) (ok : Bool) : State :=
  { s with boot := { s.boot with flBusy := false, flOp := none, flErr := s.boot.flErr || !ok } }

/-- How many bytes an operation names: a sector's or a page's. -/
def flashSize (kind : Nat) : Nat := if kind = 1 then 65536 else 256

section ends
variable (h : s.boot.flOp = some (n, a))
include h

theorem execFlashOperationComplete_of_failed : execFlashOperationComplete false s =
    .next (flashPut { flashEnded s false with freeCount := s.freeCount + 1 } a
      ((upto (flashSize n)).map (fun i => Config.freeByte s.freeCount (a + i)))) := by
  simp only [execFlashOperationComplete, h]
  rfl

end ends

theorem execFlashOperationComplete_of_erased (h : s.boot.flOp = some (1, a)) : execFlashOperationComplete true s =
    .next { flashEnded s true with boot := { (flashEnded s true).boot with flash := Mem.zero s.boot.flash a 65536 } } := by
  simp only [execFlashOperationComplete, h]
  rfl

theorem execFlashOperationComplete_of_programmed (h : s.boot.flOp = some (2, a)) : execFlashOperationComplete true s =
    .next (flashPut (flashEnded s true) a ((upto 256).map (fun i => flashByte s (a + i) &&& Mem.rd s.boot.flBuf i))) := by
  simp only [execFlashOperationComplete, h]
  rfl

theorem flashEnded_true : flashEnded s true = { s with boot := { s.boot with flBusy := false, flOp := none } } := by
  simp only [flashEnded, Bool.not_true, Bool.or_false]

/-! ### Pins (R455, R458, R459) -/

theorem execPerstNAssert_of_high (hm : bit (hostMask s.var) n = true) (hn : n < 4) (hp : s.pins.perstLow.contains n = false) :
    let t := { s with pins := { s.pins with perstLow := n :: s.pins.perstLow } }
    execPerstNAssert n s = .next (if (s.port n).up then linkDown resetContext t n else t) := by
  simp only [execPerstNAssert, hm, decide_eq_false (Nat.not_le.mpr hn), hp]
  rfl

theorem execPerstNRelease_of_low (hp : s.pins.perstLow.contains n = true) (hr : s.boot.rails = true) (hstep : 6 ≤ s.boot.step) :
    execPerstNRelease n s = .next (linkUp { s with pins := { s.pins with perstLow := s.pins.perstLow.filter (· != n) } } n) := by
  simp only [execPerstNRelease, hp, hr, decide_eq_true hstep]
  rfl

theorem execCableSeated_of_open (hn : n < 4) (hc : s.pins.cables.contains n = false) :
    execCableSeated n s = .next { s with pins := { s.pins with cables := n :: s.pins.cables } } := by
  simp only [execCableSeated, decide_eq_false (Nat.not_le.mpr hn), hc]
  rfl

theorem execCableRemoved_of_seated (hc : s.pins.cables.contains n = true) (jobs : List Nat) : execCableRemoved n jobs s =
    .next ([4 * n, 4 * n + 1, 4 * n + 2, 4 * n + 3].foldl (cablePort jobs)
      { s with pins := { s.pins with cables := s.pins.cables.filter (· != n) } }) := by
  simp only [execCableRemoved, hc]
  rfl

theorem mem_connector {q : Nat} (hq : q < 4) : 4 * n + q ∈ [4 * n, 4 * n + 1, 4 * n + 2, 4 * n + 3] := by
  simp only [List.mem_cons, List.not_mem_nil, or_false]
  omega

/-! ### The test access port (R456, R457) -/

theorem bit_eq_testBit (v i : Nat) : bit v i = v.testBit i := by
  rw [Nat.testBit_eq_decide_div_mod_eq]
  rfl

/-- A number summed from its bits: it has no others, and each of them reads back. -/
theorem foldl_bits (f : Nat → Bool) (n : Nat) :
    (upto n).foldl (fun m i => m + b2n (f i) * 2 ^ i) 0 < 2 ^ n ∧
    ∀ i < n, bit ((upto n).foldl (fun m i => m + b2n (f i) * 2 ^ i) 0) i = f i := by
  induction n with
  | zero => exact ⟨Nat.one_pos, fun i hi => absurd hi (Nat.not_lt_zero i)⟩
  | succ n ih =>
    obtain ⟨hlt, hbits⟩ := ih
    have hb : b2n (f n) ≤ 1 := by
      unfold b2n
      split <;> omega
    rw [upto, List.range_succ, List.foldl_append, List.foldl_cons, List.foldl_nil]
    change (upto n).foldl _ 0 + _ < _ ∧ ∀ i < n + 1, bit ((upto n).foldl _ 0 + _) i = _
    generalize (upto n).foldl (fun m i => m + b2n (f i) * 2 ^ i) 0 = m at hlt hbits
    refine ⟨?_, fun i hi => ?_⟩
    · rw [Nat.pow_succ]
      nlinarith
    · rw [bit_eq_testBit, Nat.add_comm, Nat.mul_comm, Nat.testBit_two_pow_mul_add _ hlt]
      by_cases hin : i < n
      · rw [if_pos hin, ← bit_eq_testBit]
        exact hbits i hin
      · obtain rfl : i = n := by omega
        rw [if_neg hin, Nat.sub_self, b2n]
        cases f i <;> rfl

theorem captured37_lt (s : State) (levels : Nat) : captured37 s levels < 2 ^ 37 := (foldl_bits (cellIn s levels) 37).1

theorem bit_captured37 (s : State) (levels : Nat) {i : Nat} (hi : i < 37) : bit (captured37 s levels) i = cellIn s levels i :=
  (foldl_bits (cellIn s levels) 37).2 i hi

/-! What the cells capture (R457). -/

section cells
variable {levels i : Nat}

theorem cellIn_level (h22 : ¬ (22 ≤ i ∧ i ≤ 25)) (h27 : i ≠ 27) (h28 : i ≠ 28) (hodd : i < 22 → i % 2 = 1) (hi : i < 29) :
    cellIn s levels i = bit levels i := by
  by_cases hlow : i < 22
  · have h2 : ¬ i % 2 = 0 := by have := hodd hlow; omega
    rw [cellIn, if_pos hlow, if_neg h2]
  · obtain rfl : i = 26 := by omega
    rfl

theorem cellIn_reset : cellIn s levels 25 = !s.pins.resetLow := rfl

theorem cellIn_perst (hi : i < 4) : cellIn s levels (29 + i) = !s.pins.perstLow.contains i := by
  obtain rfl | rfl | rfl | rfl : i = 0 ∨ i = 1 ∨ i = 2 ∨ i = 3 := by omega
  all_goals rfl

theorem cellIn_cable (hi : i < 4) : cellIn s levels (33 + i) = !s.pins.cables.contains i := by
  obtain rfl | rfl | rfl | rfl : i = 0 ∨ i = 1 ∨ i = 2 ∨ i = 3 := by omega
  all_goals rfl

theorem cellIn_alive : cellIn s levels 22 = alivePin s := rfl

end cells

theorem alivePin_selected {code : Nat} (hr : s.boot.rails = true) (hcode : code = 0 ∨ code = 1) : alivePin (selectIr s code) =
    if code = 0 ∧ s.pins.resetLow = true then bit s.pins.boundary 22 && bit s.pins.boundary 23 else s.blv.alive := by
  obtain rfl | rfl := hcode
  · cases hl : s.pins.resetLow <;> simp [alivePin, drivesPins, selectIr, tapIr, hr, hl]
  · simp [alivePin, drivesPins, selectIr, tapIr, hr]

theorem tapIr_of_three_le {code : Nat} (h : 3 ≤ code) : tapIr code = .bypass := by
  obtain ⟨n, rfl⟩ := Nat.exists_eq_add_of_le' h
  rfl

section port
variable (hr : s.boot.rails = true)
include hr

theorem execIdcode_of_up : execIdcode s =
    .next { s with pins := { s.pins with ir := 2 }, readOut := s.cfg.rev % 16 * 2 ^ 28 + 0x04B5454B } := by
  simp only [execIdcode, hr]
  rfl

theorem execBypass_of_up : execBypass s = .next { s with
    pins := { s.pins with ir := 3 + (Config.freeWord s.freeCount).toNat % 13 }, freeCount := s.freeCount + 1, readOut := 0 } := by
  simp only [execBypass, hr]
  rfl

theorem execTestLogicReset_of_up : execTestLogicReset s = .next { s with pins := { s.pins with ir := 2 } } := by
  simp only [execTestLogicReset, hr]
  rfl

theorem exec_scan {x : Instr} {code cells levels : Nat}
    (hx : (x, code) ∈ [(Instr.extest ⟨cells, levels⟩, 0), (.samplePreload ⟨cells, levels⟩, 1)]) :
    exec x s = .next (scanCells s code ⟨cells, levels⟩) ∧ (code = 0 ∨ code = 1) := by
  simp only [List.mem_cons, Prod.mk.injEq, List.not_mem_nil, or_false] at hx
  obtain ⟨rfl, rfl⟩ | ⟨rfl, rfl⟩ := hx
  · refine ⟨?_, .inl rfl⟩
    show execExtest _ s = _
    simp only [execExtest, hr]
    rfl
  · refine ⟨?_, .inr rfl⟩
    show execSamplePreload _ s = _
    simp only [execSamplePreload, hr]
    rfl

end port

/-- Settles O59: the flash by the bytes that each end writes, the pins by their own sets, and a scan by the cell that each bit captures. -/
theorem flashAndPins : Obligations.FlashAndPins := by
  unfold Obligations.FlashAndPins
  intro s fn v n a jobs b
  refine ⟨fun hf hb ha => ?issue, fun hf hb => ?refuse, fun hop => ?failed, fun hf => execCfgFlData_of_flashFn hf v, fun hop => ?erased,
    fun hop => ?programmed, execPerstNAssert_of_high, execPerstNRelease_of_low, execCableSeated_of_open, fun hc => ?removed,
    fun hr => ⟨execIdcode_of_up hr, ⟨rfl, rfl, rfl, fun code => tapIr_of_three_le⟩, ?bypass, execTestLogicReset_of_up hr,
      fun x code hx => ?scan⟩⟩
  case issue =>
    exact ⟨(execSectorErase_of_flashFn hf).trans (congrArg _ (flashIssue_of_idle hb ha)),
      (execPageProgram_of_flashFn hf).trans (congrArg _ (flashIssue_of_idle hb ha))⟩
  case refuse =>
    exact ⟨(execSectorErase_of_flashFn hf).trans (congrArg _ (flashIssue_of_refused hb)),
      (execPageProgram_of_flashFn hf).trans (congrArg _ (flashIssue_of_refused hb))⟩
  case failed =>
    refine ⟨_, execFlashOperationComplete_of_failed hop, rfl, Bool.or_true _, rfl, fun i hi => ?_⟩
    have hlen : ((upto (flashSize n)).map (fun i => Config.freeByte s.freeCount (a + i))).length = flashSize n := by simp [upto]
    rw [flashPut_byte_out (by rwa [hlen])]
    rfl
  case erased =>
    refine ⟨_, execFlashOperationComplete_of_erased hop, rfl, ?_, fun i hi => ?_, fun i hi => ?_⟩
    · rw [flashEnded_true]
    · rw [flashByte, Mem.rd_zero_in _ (by omega) (by omega)]
      rfl
    · rw [flashByte, Mem.rd_zero_out _ hi]
      rfl
  case programmed =>
    have hlen : ((upto 256).map (fun i => flashByte s (a + i) &&& Mem.rd s.boot.flBuf i)).length = 256 := by simp [upto]
    refine ⟨_, execFlashOperationComplete_of_programmed hop, rfl, ?_, fun i hi => ?_, fun i hi => ?_⟩
    · rw [flashEnded_true]
      rfl
    · rw [flashPut_byte_in (by rwa [hlen]), List.getElem_map]
      exact congrArg (fun j => flashByte s (a + j) &&& Mem.rd s.boot.flBuf j) (List.getElem_range ..)
    · rw [flashPut_byte_out (by rwa [hlen])]
      rfl
  case removed =>
    refine ⟨_, execCableRemoved_of_seated hc jobs, rfl, ?_, fun q hq => portUp_cablePorts_of_mem _ _ _ (.inl (mem_connector hq))⟩
    rw [foldl_keeps State.pins (cablePort_pins jobs)]
  case bypass =>
    refine ⟨_, execBypass_of_up hr, tapIr_of_three_le (Nat.le_add_right ..), Nat.le_add_right .., ?_, rfl, rfl⟩
    show 3 + _ % 13 < 16
    omega
  case scan =>
    obtain ⟨hexec, hcode⟩ := exec_scan hr hx
    refine ⟨_, hexec, rfl, rfl, captured37_lt .., ?_, fun i hi h22 h27 h28 hodd h29 => ?_, fun i hi => ⟨?_, ?_⟩, ?_⟩
    · exact (bit_captured37 _ _ (by omega)).trans cellIn_reset
    · exact (bit_captured37 _ _ hi).trans (cellIn_level h22 h27 h28 hodd h29)
    · exact (bit_captured37 _ _ (by omega)).trans (cellIn_perst hi)
    · exact (bit_captured37 _ _ (by omega)).trans (cellIn_cable hi)
    · exact (bit_captured37 _ _ (by omega)).trans (cellIn_alive.trans (alivePin_selected hr hcode))

end Sys2Proof.Machine
end

section
/-! SUPPORT. The power-fail sequence (R351, R397): the stops of links and contexts leave the flash and the clock. -/
namespace Sys2Proof.Machine
open Sys2Proof

variable (s : State)

/-- The configuration flash and the clock. -/
def State.flashClock (s : State) : Mem × Nat := (s.boot.flash, s.alm.time)

/-! ### Events, counters and grants -/

@[simp] theorem report_flashClock (line : Nat) (e : Evt) : (report s line e).flashClock = s.flashClock := by
  unfold report
  dsimp only
  split <;> rfl

@[simp] theorem noteEvent_flashClock (line : Nat) (e : Evt) : (noteEvent s line e).flashClock = s.flashClock := by
  have hrest := congrArg State.flashClock (noteEvent_blv_irqs_only s line e)
  exact hrest

@[simp] theorem meter_flashClock (k : Nat) (f : UseCtr → UseCtr) : (meter s k f).flashClock = s.flashClock := by
  rw [meter_eq]
  rfl

@[simp] theorem usageClose_flashClock (k flags : Nat) : (usageClose s k flags).flashClock = s.flashClock := by
  rw [usageClose_eq]
  rfl

@[simp] theorem settleGrant_flashClock (k id : Nat) : (settleGrant s k id).flashClock = s.flashClock := by
  unfold settleGrant
  dsimp only
  split <;> rfl

@[simp] theorem endEligible_flashClock (k : Nat) (m : Cmd) : (endEligible s k m).flashClock = s.flashClock := by
  unfold endEligible
  split
  · rfl
  · split
    · rfl
    · split <;> rfl

/-! ### Reads in flight at a stop (R194) -/

@[simp] theorem checkCw_flashClock (p cw : Nat) : (checkCw s p cw).flashClock = s.flashClock := by
  unfold checkCw
  dsimp only
  split
  · exact report_flashClock ..
  · split <;> rfl

@[simp] theorem checkRange_flashClock (p spa n : Nat) : (checkRange s p spa n).2.flashClock = s.flashClock :=
  foldl_keeps State.flashClock (checkCw_flashClock · p) _ s

@[simp] theorem cacheLook_flashClock (p die g : Nat) (bad : Bool) : (cacheLook s p die g bad).flashClock = s.flashClock := by
  unfold cacheLook
  dsimp only
  split
  · rfl
  · split <;> rfl

@[simp] theorem readStackAt_flashClock (key die spa len : Nat) (fill : Bool) :
    (readStackAt s key die spa len fill).2.2.flashClock = s.flashClock := by
  refine (cacheLook_flashClock ..).trans ((checkRange_flashClock ..).trans ?_)
  split
  · rfl
  · exact meter_flashClock ..

@[simp] theorem entryRead_flashClock (e : SortEnt) : (entryRead s e).flashClock = s.flashClock := by
  unfold entryRead
  split
  · rfl
  · dsimp only
    refine (foldl_keeps State.flashClock (checkCw_flashClock · e.part) _ _).trans ?_
    split
    · exact meter_flashClock ..
    · rfl

@[simp] theorem discardReads_flashClock (key n : Nat) : (discardReads s key n).flashClock = s.flashClock := by
  refine (foldl_keeps State.flashClock (fun t _ => entryRead_flashClock t _) _ _).trans
    ((foldl_keeps State.flashClock (fun t y => ?_) _ _).trans (foldl_keeps State.flashClock (fun t _ => readStackAt_flashClock t ..) _ s))
  split
  · exact meter_flashClock ..
  · rfl

/-! ### Ends of contexts and links (R351, R356) -/

@[simp] theorem setCtx_flashClock (k : Nat) (c : Ctx) : (s.setCtx k c).flashClock = s.flashClock := rfl

@[simp] theorem dropSets_flashClock (k : Nat) : (dropSets s k).flashClock = s.flashClock := rfl

@[simp] theorem quietRun_flashClock (p status : Nat) : (quietRun s p status).flashClock = s.flashClock := by
  unfold quietRun
  split
  · rfl
  · exact (foldl_keeps State.flashClock (by intros; rfl) _ _).trans ((foldl_keeps State.flashClock (by intros; rfl) _ _).trans
      (foldl_keeps State.flashClock (fun t _ => discardReads_flashClock t ..) _ s))

@[simp] theorem unloadImage_flashClock (k : Nat) : (unloadImage s k).flashClock = s.flashClock := by
  unfold unloadImage
  dsimp only
  split
  · split <;> rfl
  · rfl

@[simp] theorem dropCmds_flashClock (k : Nat) : (dropCmds s k).flashClock = s.flashClock :=
  foldl_keeps State.flashClock (fun _ _ => (endEligible_flashClock ..).trans (settleGrant_flashClock ..)) _ s

@[simp] theorem endContext_flashClock (k flags : Nat) : (endContext s k flags).flashClock = s.flashClock := by
  unfold endContext
  extract_lets c p noRun noEng unloaded closed
  split
  · rfl
  · have hrun : noRun.flashClock = s.flashClock := by
      simp only [noRun]
      split
      · split
        · exact quietRun_flashClock ..
        · rfl
      · rfl
    have heng : noEng.flashClock = noRun.flashClock := by
      simp only [noEng]
      split
      · split <;> rfl
      · rfl
    simp only [closed, unloaded]
    rw [setCtx_flashClock, usageClose_flashClock, unloadImage_flashClock, dropSets_flashClock, dropCmds_flashClock, heng, hrun]

theorem linkDown_flashClock {stop : State → Nat → State} (h : ∀ t k, (stop t k).flashClock = t.flashClock) (n : Nat) :
    (linkDown stop s n).flashClock = s.flashClock :=
  foldl_keeps State.flashClock (fun t p => foldl_keeps State.flashClock h (openKeys t p) t) _ s

theorem linksDown_flashClock {stop : State → Nat → State} (h : ∀ t k, (stop t k).flashClock = t.flashClock) :
    (linksDown stop s).flashClock = s.flashClock :=
  foldl_keeps State.flashClock (linkDown_flashClock · h) _ s

theorem stopJobs_flashClock : (stopJobs s).flashClock = s.flashClock := rfl

/-! ### The sequence -/

/-- What the sequence stops: an event is taken, the jobs end, and every link goes down with its contexts. -/
def powerStopped (s : State) : State :=
  linksDown (fun s k => endContext s k fPower)
    (stopJobs (noteEvent s 53 (evtNone 0x033 3 0xFF (if 1000 ≤ s.alm.inp.highUs then 1 else 0))))

theorem powerStopped_flashClock : (powerStopped s).flashClock = s.flashClock := by
  rw [powerStopped, linksDown_flashClock _ (endContext_flashClock · · fPower), stopJobs_flashClock, noteEvent_flashClock]

/-- What is left once the rails are off (R456, R460). -/
def powerFailed (s : State) : State :=
  let x := coldState (powerStopped s)
  { x with alm := { x.alm with phys := 0 }, pins := { x.pins with ir := 2 } }

theorem powerFailed_flashClock : (powerFailed s).flashClock = s.flashClock := powerStopped_flashClock s

variable {s} in
theorem execPowerFailSequence_of_failing (hr : s.boot.rails = true) (hp : powerFails s.alm.inp = true) :
    execPowerFailSequence s = .next (powerFailed s) := by
  simp only [execPowerFailSequence, hr, hp, b2n, decide_eq_true_eq]
  rfl

end Sys2Proof.Machine
end

section
/-! SUPPORT. The input and the power frame (R394 to R397, R401 to R403): what a sample, a sag event and an edge change. -/
namespace Sys2Proof.Machine
open Sys2Proof

variable {s : State}

/-! ### What the passing of time leaves (R394) -/

/-- What nothing that counts time over a sample changes; of the input, all but the draw and the demand, and of a core, all but its
tasks. -/
structure SampleView where
  mems : Mems
  lnt  : Tbl Lantern
  core : Nat → Core
  trl  : Trellis
  lay  : Layouts
  boot : Boot
  pins : Pins
  now  : Nat
  time : Nat
  inp  : Input

def sampleView (s : State) : SampleView :=
  { mems := s.mems, lnt := s.units.lnt, core := fun n => { s.core n with tasks := [] }, trl := s.trl, lay := s.lay, boot := s.boot
    pins := s.pins, now := s.now, time := s.alm.time, inp := { s.alm.inp with pin := 0, pd := 0 } }

theorem report_sampleView (line : Nat) (e : Evt) : sampleView (report s line e) = sampleView s := by
  unfold report
  dsimp only
  split <;> rfl

theorem reportMarks_sampleView : sampleView (reportMarks s) = sampleView s :=
  (foldl_keeps sampleView (fun _ _ => report_sampleView ..) _ _).trans ((foldl_keeps sampleView (fun _ _ => report_sampleView ..) _ _).trans
    (foldl_keeps sampleView (fun _ _ => report_sampleView ..) _ _))

theorem setCore_tasks_sampleView (n : Nat) (ts : Tbl Task) : sampleView (s.setCore n { s.core n with tasks := ts }) = sampleView s := by
  have hcore : (fun m => { (s.setCore n { s.core n with tasks := ts }).core m with tasks := [] }) = fun m => { s.core m with tasks := [] } := by
    funext m
    by_cases hm : m = n
    · rw [hm, State.setCore_core]
    · rw [State.setCore_core_ne _ _ _ hm]
  exact congrArg (fun c => { sampleView s with core := c }) hcore

theorem seqTime_sampleView (n : Nat) : sampleView (seqTime s n) = sampleView s := by
  unfold seqTime
  extract_lets c stuck counted t
  have ht : sampleView t = sampleView s := setCore_tasks_sampleView n _
  split
  · exact (report_sampleView ..).trans ht
  · exact ht

theorem seqTimes_sampleView (p : Nat) : sampleView (seqTimes s p) = sampleView s := by
  unfold seqTimes
  split
  · rfl
  · exact foldl_keeps sampleView (fun _ _ => seqTime_sampleView _) _ s

theorem meter_sampleView (k : Nat) (f : UseCtr → UseCtr) : sampleView (meter s k f) = sampleView s := by
  rw [meter_eq]
  rfl

theorem addShare_sampleView (p k id : Nat) (eng : Bool) : sampleView (addShare s p k id eng) = sampleView s := rfl

theorem runTime_sampleView (p : Nat) : sampleView (runTime s p) = sampleView s := by
  unfold runTime
  split
  · rfl
  · extract_lets halted t c run x counted
    have hcounted : sampleView counted = sampleView s := by
      simp only [counted]
      split <;> rfl
    rw [meter_sampleView, addShare_sampleView, hcounted]

theorem engTime_sampleView (p : Nat) : sampleView (engTime s p) = sampleView s := by
  unfold engTime
  split <;> rfl

theorem holdTime_sampleView (p : Nat) : sampleView (holdTime s p) = sampleView s := by
  unfold holdTime
  split <;> rfl

theorem upTime_sampleView (p : Nat) : sampleView (upTime s p) = sampleView s :=
  foldl_keeps sampleView (fun t k => by dsimp only; split <;> rfl) _ s

theorem landTime_sampleView (p : Nat) : sampleView (landTime s p) = sampleView s := by
  unfold landTime
  dsimp only
  split <;> rfl

theorem stageIdle_sampleView (k : Nat) : sampleView (stageIdle s k) = sampleView s := by
  unfold stageIdle
  extract_lets c running
  split <;> rfl

theorem landHoldTime_sampleView : sampleView (landHoldTime s) = sampleView s := foldl_keeps sampleView (by intros; rfl) _ s

theorem trTime_sampleView : sampleView (trTime s) = sampleView s :=
  (foldl_keeps sampleView (by intros; rfl) _ _).trans (foldl_keeps sampleView (by intros; rfl) _ s)

/-- The counters of a partition's command, engine and waits. -/
theorem partTimes_sampleView (p : Nat) :
    sampleView (landTime (upTime (holdTime (engTime (runTime s p) p) p) p) p) = sampleView s := by
  rw [landTime_sampleView, upTime_sampleView, holdTime_sampleView, engTime_sampleView, runTime_sampleView]

theorem passTime_sampleView : sampleView (passTime s) = sampleView s := by
  unfold passTime
  dsimp only
  rw [trTime_sampleView, landHoldTime_sampleView, foldl_keeps sampleView (fun _ _ => stageIdle_sampleView _),
    foldl_keeps sampleView (fun _ _ => partTimes_sampleView _), foldl_keeps sampleView (fun _ _ => seqTimes_sampleView _),
    reportMarks_sampleView]
  rfl

/-- The reservoir settles the draw, and leaves the clock and the rest of the input. -/
theorem settle_eq (v : Variant) (a : Almanac) : ∃ p, (settle v a).inp = { a.inp with pin := p } ∧ (settle v a).time = a.time := by
  unfold settle
  dsimp only
  split
  · exact ⟨_, rfl, rfl⟩
  · split <;> exact ⟨_, rfl, rfl⟩

/-! ### The sample -/

/-- The state once the clocks and the input have taken a sample. -/
def inputTaken (s : State) (vin iin : Nat) : State :=
  let t := clockTime s
  { t with alm := sampled t.alm vin iin }

/-- The Almanac once the demand of the dies is known and the power frame is 10 µs older. -/
def demanded (a : Almanac) (pd : Nat) : Almanac := { a with inp := { a.inp with pd := pd }, frame := { a.frame with since := a.frame.since + 10 } }

theorem settled_sampleView (t : State) (v : Variant) (pd : Nat) :
    sampleView { t with alm := settle v (demanded t.alm pd) } = sampleView t := by
  obtain ⟨p, hinp, htime⟩ := settle_eq v (demanded t.alm pd)
  simp only [sampleView, hinp, htime]
  rfl

theorem spent_self (t : State) : { t with alm := { t.alm with spent := t.alm.spent } } = t := rfl

theorem spent_sampleView (t : State) (n : Nat) : sampleView { t with alm := { t.alm with spent := n } } = sampleView t := rfl

theorem inputTaken_boot (vin iin : Nat) : (inputTaken s vin iin).boot = s.boot := by
  rw [inputTaken, clockTime]

/-- With the rails up the draw settles and time passes for everything that counts it. -/
theorem execInputSample_of_up (hr : s.boot.rails = true) (vin iin pd : Nat) :
    let t := inputTaken s vin iin
    execInputSample vin iin pd s = .next (passTime { t with alm := settle t.var (demanded t.alm pd) }) := by
  have hup : (inputTaken s vin iin).boot.rails = true := by rw [inputTaken_boot, hr]
  rw [execInputSample]
  change (if (!(inputTaken s vin iin).boot.rails) = true then _ else _) = _
  rw [hup]
  rfl

/-- Without them only the backup cell runs, while there is no 48 V. -/
theorem execInputSample_of_down (hr : s.boot.rails = false) (vin iin pd : Nat) : ∃ n, execInputSample vin iin pd s =
    .next { inputTaken s vin iin with alm := { (inputTaken s vin iin).alm with spent := n } } := by
  have hdown : (inputTaken s vin iin).boot.rails = false := by rw [inputTaken_boot, hr]
  rw [execInputSample]
  change ∃ n, (if (!(inputTaken s vin iin).boot.rails) = true then _ else _) = _
  rw [hdown]
  by_cases hv : vin < 40000
  · exact ⟨_, congrArg Host.Outcome.next (if_pos hv)⟩
  · exact ⟨(inputTaken s vin iin).alm.spent, congrArg Host.Outcome.next ((if_neg hv).trans (spent_self _).symm)⟩

theorem execInputSample_view (vin iin pd : Nat) : ∃ u, execInputSample vin iin pd s = .next u ∧
    sampleView u = sampleView (inputTaken s vin iin) ∧ (s.boot.rails = false → { u with now := s.now, alm := s.alm } = s) := by
  cases hr : s.boot.rails with
  | true => exact ⟨_, execInputSample_of_up hr vin iin pd, passTime_sampleView.trans (settled_sampleView _ _ pd), nofun⟩
  | false =>
    obtain ⟨n, hexec⟩ := execInputSample_of_down hr vin iin pd
    exact ⟨_, hexec, spent_sampleView .., fun _ => by rw [inputTaken, clockTime]⟩

/-- What a sample leaves for whatever counts time, field by field. -/
theorem sampleView_inputTaken (vin iin : Nat) : sampleView (inputTaken s vin iin) = { sampleView s with
    now := s.now + 10000, time := (s.alm.time + 10000) % 2 ^ 64, inp := { (sampled s.alm vin iin).inp with pin := 0, pd := 0 } } := by
  unfold inputTaken clockTime sampleNs
  rfl

theorem lasted_decide (us : Nat) (p : Prop) [Decidable p] : lasted us (decide p) = if p then us + 10 else 0 := by simp [lasted]

/-! ### Sag events (R332, R396) -/

theorem sendPkt_alm (p rank : Nat) (k : Packet) : (sendPkt s p rank k).alm = s.alm := by
  unfold sendPkt
  dsimp only
  split
  · rfl
  · split
    · exact keptByLinks_alm.unroute ..
    · exact keptByLinks_alm.launchOut ..

theorem meter_alm (k : Nat) (f : UseCtr → UseCtr) : (meter s k f).alm = s.alm := by
  rw [meter_eq]

theorem sendPaid_alm (p : Nat) (key : Option Nat) (rank : Nat) (k : Packet) : (sendPaid s p key rank k).alm = s.alm := by
  unfold sendPaid sendFor
  split
  · rw [sendPkt_alm]
    split
    · exact meter_alm ..
    · rfl
  · exact sendPkt_alm ..

theorem sendTx_alm (p : Nat) (x : ProtTx) : (sendTx s p x).alm = s.alm := by
  unfold sendTx
  refine foldl_keeps State.alm (fun t y => ?_) _ s
  exact sendPaid_alm ..

theorem sendProt_alm (p : Nat) (x : ProtTx) : (sendProt s p x).alm = s.alm := by
  rw [sendProt, sendTx_alm]
  split <;> rfl

theorem ownSag_alm (p : Nat) : (ownSag s p).alm = s.alm := by
  unfold ownSag
  dsimp only
  split
  · rfl
  · refine (foldl_keeps State.alm (fun _ _ => sendProt_alm ..) _ _).trans ((foldl_keeps State.alm (fun t r => ?_) _ _).trans rfl)
    split
    · rfl
    · exact report_alm ..

/-- The state once a sag event has been counted. -/
def sagCounted (s : State) : State := { s with alm := { s.alm with sag := true, sags := inc32 s.alm.sags, sagTime := s.alm.time } }

theorem execSagEvent_of_low (hr : s.boot.rails = true) (hs : s.alm.sag = false) (hu : 20 ≤ s.alm.inp.sagUs) :
    execSagEvent s = .next ((upto 16).foldl ownSag (sagCounted s)) := by
  simp only [execSagEvent, hr, hs, decide_eq_false (Nat.not_lt.mpr hu)]
  rfl

theorem ownSags_alm : ((upto 16).foldl ownSag (sagCounted s)).alm = (sagCounted s).alm :=
  foldl_keeps State.alm (fun _ => ownSag_alm) _ _

theorem execSagEventEnd_of_high (hs : s.alm.sag = true) (hu : 1000 ≤ s.alm.inp.upUs) :
    execSagEventEnd s = .next { s with alm := { s.alm with sag := false } } := by
  simp only [execSagEventEnd, hs, decide_eq_true hu]
  rfl

/-! ### The power frame (R401 to R403) -/

/-- The state with another power frame. -/
def withFrame (s : State) (f : Frame) : State := { s with alm := { s.alm with frame := f } }

section frame
variable (hr : s.boot.rails = true)
include hr

section edge
variable {v : Nat} (hlo : 500 ≤ v) (hhi : v ≤ 10000)
include hlo hhi

theorem execFrameEdge_of_followed (hf : s.alm.frame.lost = false) :
    let l := (v :: s.alm.frame.ivals).take 8
    execFrameEdge v s = .next (withFrame s { s.alm.frame with ivals := l, period := meanOf l, since := 0, home := false }) := by
  simp only [execFrameEdge, hr, hf, decide_eq_false (Nat.not_lt.mpr hlo), decide_eq_false (Nat.not_lt.mpr hhi)]
  rfl

theorem execFrameEdge_of_good (hf : s.alm.frame.lost = true) (hg : s.alm.frame.good < 8) : execFrameEdge v s =
    .next (withFrame s { s.alm.frame with ivals := (v :: s.alm.frame.ivals).take 8, good := s.alm.frame.good + 1 }) := by
  simp only [execFrameEdge, hr, hf, decide_eq_false (Nat.not_lt.mpr hlo), decide_eq_false (Nat.not_lt.mpr hhi),
    if_neg (Nat.not_le.mpr hg)]
  rfl

theorem execFrameEdge_of_found (hf : s.alm.frame.lost = true) (hg : 8 ≤ s.alm.frame.good) :
    let l := (v :: s.alm.frame.ivals).take 8
    execFrameEdge v s = .next (withFrame s { s.alm.frame with
      lost := false, ivals := l, good := 0, period := meanOf l, since := 0, home := false }) := by
  simp only [execFrameEdge, hr, hf, decide_eq_false (Nat.not_lt.mpr hlo), decide_eq_false (Nat.not_lt.mpr hhi), if_pos hg]
  rfl

end edge

section stray
variable {v : Nat} (hv : v < 500 ∨ 10000 < v)
include hv

theorem execFrameEdge_of_stray : execFrameEdge v s =
    if s.alm.frame.lost then .next (withFrame s { s.alm.frame with ivals := [], good := 0 }) else .next (loseFrame s 0) := by
  have hout : (decide (v < 500) || decide (10000 < v)) = true := by simpa using hv
  simp only [execFrameEdge, hr, hout]
  rfl

theorem execFrameEdge_of_stray_followed (hf : s.alm.frame.lost = false) : execFrameEdge v s = .next (loseFrame s 0) := by
  rw [execFrameEdge_of_stray hr hv, hf, if_neg Bool.false_ne_true]

theorem execFrameEdge_of_stray_lost (hf : s.alm.frame.lost = true) :
    execFrameEdge v s = .next (withFrame s { s.alm.frame with ivals := [], good := 0 }) := by
  rw [execFrameEdge_of_stray hr hv, hf, if_pos rfl]

end stray

theorem execFrameTimeout_of_silent (hf : s.alm.frame.lost = false) (hs : 12500 ≤ s.alm.frame.since) :
    execFrameTimeout s = .next (loseFrame s s.alm.frame.since) := by
  simp only [execFrameTimeout, hr, hf, decide_eq_true hs]
  rfl

theorem execInternalFrameEdge_of_lost (hf : s.alm.frame.lost = true) (hs : s.alm.pw.frameDef ≤ s.alm.frame.since) :
    execInternalFrameEdge s =
      .next (withFrame s { s.alm.frame with since := s.alm.frame.since - s.alm.pw.frameDef, home := false }) := by
  simp only [execInternalFrameEdge, hr, hf, decide_eq_false (Nat.not_lt.mpr hs)]
  rfl

theorem execHomeSlotStart_of_reached (hf : s.alm.frame.home = false) (hs : s.alm.pw.offset * s.alm.frame.period ≤ 16 * s.alm.frame.since) :
    execHomeSlotStart s = .next { s with alm := { s.alm with
      frame := { s.alm.frame with home := true }
      eligible := (s.alm.eligible ++ (upto 16).flatMap (heavyReady s)).eraseDups } } := by
  simp only [execHomeSlotStart, hr, hf, decide_eq_false (Nat.not_lt.mpr hs)]
  rfl

end frame

/-- Settles O54: a sample by the view that time leaves, a sag event and the power-fail sequence by what their sends and stops keep,
and each edge by the frame that it finds. -/
theorem inputAndFrame : Obligations.InputAndFrame := by
  unfold Obligations.InputAndFrame
  intro s vin iin pd v a f put
  refine ⟨?sample, fun hr => ⟨fun hs hu => ?sag, fun hp => ?power, fun hlo hhi => ⟨execFrameEdge_of_followed hr hlo hhi,
      execFrameEdge_of_good hr hlo hhi, execFrameEdge_of_found hr hlo hhi⟩,
    fun hv => ⟨execFrameEdge_of_stray_followed hr hv, execFrameEdge_of_stray_lost hr hv⟩, execFrameTimeout_of_silent hr,
    execInternalFrameEdge_of_lost hr, execHomeSlotStart_of_reached hr⟩, execSagEventEnd_of_high⟩
  case sample =>
    obtain ⟨u, hexec, hview, hdown⟩ := execInputSample_view (s := s) vin iin pd
    rw [sampleView_inputTaken] at hview
    have hinp : ∀ {β : Type} (g : Input → β), g (sampleView u).inp = g { (sampled s.alm vin iin).inp with pin := 0, pd := 0 } :=
      fun g => congrArg (fun x => g x.inp) hview
    refine ⟨u, hexec, congrArg SampleView.now hview, congrArg SampleView.time hview, hinp Input.vin, hinp Input.iin,
      (hinp Input.sagUs).trans (lasted_decide ..), (hinp Input.upUs).trans (lasted_decide ..), (hinp Input.lowUs).trans (lasted_decide ..),
      (hinp Input.absUs).trans (lasted_decide ..), (hinp Input.highUs).trans (lasted_decide ..), hinp Input.overI,
      congrArg SampleView.mems hview, fun n => ?_, congrArg SampleView.lnt hview, congrArg SampleView.trl hview,
      congrArg SampleView.lay hview, congrArg SampleView.boot hview, congrArg SampleView.pins hview, hdown⟩
    exact congrArg (fun x => { x.core n with tasks := (s.core n).tasks }) hview
  case sag =>
    have halm := ownSags_alm (s := s)
    exact ⟨_, execSagEvent_of_low hr hs hu, rfl, congrArg Almanac.sag halm, congrArg Almanac.sags halm, congrArg Almanac.sagTime halm⟩
  case power =>
    have hkept := powerFailed_flashClock s
    exact ⟨_, execPowerFailSequence_of_failing hr hp, rfl, rfl, rfl, rfl, rfl, congrArg Prod.fst hkept, congrArg Prod.snd hkept⟩

end Sys2Proof.Machine
end
